-- ==== Sys2Proof/Word.lean ====
section
/-! DEFINITION. The store word, the index types of the manual's "Numbering" table, and the two
operations on tables of a fixed number of like things (replace one entry, build from a rule). -/

namespace Sys2Proof

/-- A store word: sixteen bits, bit 15 the most significant. -/
abbrev Word := BitVec 16

/-- Gate g, 0 to 47. -/
abbrev GateId := Fin 48
/-- Dam d, 0 to 5 (0 is furthest upstream). -/
abbrev DamId := Fin 6
/-- Reach r, 0 to 5: the pool below dam r. -/
abbrev ReachId := Fin 6
/-- Master m, 0 to 7 (0 is the station controller). -/
abbrev MasterId := Fin 8
/-- Portal p, 0 to 3. -/
abbrev PortalId := Fin 4
/-- Interlock condition c, 0 to 31. -/
abbrev CondId := Fin 32
/-- Station status word, 0 to 15. -/
abbrev StatusId := Fin 16
/-- Link entry, 0 to 15. -/
abbrev LinkId := Fin 16
/-- Alarm line, 0 to 3. -/
abbrev AlarmId := Fin 4
/-- A page of the store, 0 to 255. -/
abbrev PageId := Fin 256
/-- A word index within a page, 0 to 127. -/
abbrev WordIdx := Fin 128

namespace Table

/-- The list of the n values of a rule, in ascending index order. -/
def listOf {α : Type} : (n : Nat) → (Fin n → α) → List α
  | 0, _ => []
  | n + 1, f => f 0 :: listOf n (fun i => f i.succ)

theorem listOf_length {α : Type} : (n : Nat) → (f : Fin n → α) → (listOf n f).length = n
  | 0, _ => rfl
  | n + 1, f => by simp [listOf, listOf_length n]

theorem listOf_getElem {α : Type} : (n : Nat) → (f : Fin n → α) → (i : Nat) → (h : i < n) →
    (listOf n f)[i]'(by simpa [listOf_length] using h) = f ⟨i, h⟩
  | n + 1, f, 0, _ => rfl
  | n + 1, f, i + 1, h => by
      have := listOf_getElem n (fun i => f i.succ) i (by omega)
      simpa [listOf] using this

/-- The table whose entry i is `f i`. -/
def tab {α : Type} {n : Nat} (f : Fin n → α) : Vector α n :=
  ⟨⟨listOf n f⟩, by simp [listOf_length]⟩

/-- The table with entry i replaced. -/
def put {α : Type} {n : Nat} (v : Vector α n) (i : Fin n) (x : α) : Vector α n :=
  v.set i.val x i.isLt

@[simp] theorem tab_get {α : Type} {n : Nat} (f : Fin n → α) (i : Fin n) : (tab f).get i = f i :=
  listOf_getElem n f i.val i.isLt

theorem put_get {α : Type} {n : Nat} (v : Vector α n) (i j : Fin n) (x : α) :
    (put v i x).get j = if i = j then x else v.get j := by
  show (v.set i.val x i.isLt)[j.val] = if i = j then x else v[j.val]
  simp [Vector.getElem_set, Fin.ext_iff]

@[simp] theorem put_get_self {α : Type} {n : Nat} (v : Vector α n) (i : Fin n) (x : α) :
    (put v i x).get i = x := by simp [put_get]

@[simp] theorem put_get_ne {α : Type} {n : Nat} (v : Vector α n) {i j : Fin n} (x : α) (h : i ≠ j) :
    (put v i x).get j = v.get j := by simp [put_get, h]

end Table

end Sys2Proof
end

