-- ==== Sys2Proof/Syntax.lean ====
section
/-! DEFINITION. The commands: one constructor of `Instr` for each row of spec/opcode_table.json. A row that
is a station bus write carries the fields of Table 7-1 that the row itself does not fix (`BusWrite`) and the
index of the word it addresses. -/

namespace Sys2Proof

/-- A step's direction (R72): toward a larger opening or toward a smaller one. -/
inductive Direction where
  | opening | closing
deriving DecidableEq, Repr

/-- The two level sensors of a reach (R39). -/
inductive Sensor where
  | a | b
deriving DecidableEq, Repr

/-- The two dwells of a dam record (Table 1-5, words 0 and 1). -/
inductive Dwell where
  | warning | recovery
deriving DecidableEq, Repr

/-- The store's answer to one access (R135). -/
inductive StoreAnswer where
  | ok | error
deriving DecidableEq, Repr

/-- A WRITE transaction of the station bus without the word it addresses (Table 7-1): the master, whether
the byte address is odd, the high and low lane enables, and the data. -/
structure BusWrite where
  master : MasterId
  odd : Bool
  hi : Bool
  lo : Bool
  data : Word
deriving DecidableEq, Repr

/-- The commands of the part, in the order of spec/opcode_table.json. -/
inductive Instr where
  /-- POWER_ON_RESET (R131). -/
  | powerOnReset
  /-- RESET_LINE (R132). -/
  | resetLine
  /-- TICK (R8). -/
  | tick
  /-- LAG_TIMER_EXPIRY of gate g (R17). -/
  | lagTimerExpiry (g : GateId)
  /-- RECOVERY_EXPIRY of gate g (R9). -/
  | recoveryExpiry (g : GateId)
  /-- WARNING_DWELL_EXPIRY of dam d (R21). -/
  | warningDwellExpiry (d : DamId)
  /-- SAMPLE_EXPIRY of one sensor of reach r (R41). -/
  | sampleExpiry (r : ReachId) (k : Sensor)
  /-- REFRESH_INTERVAL_EXPIRY (R113). -/
  | refreshIntervalExpiry
  /-- STEP_INTERVAL_ELAPSED for gate g (R73). -/
  | stepIntervalElapsed (g : GateId)
  /-- LAST_GRANT_TICK_AGED for gate g (R73). -/
  | lastGrantTickAged (g : GateId)
  /-- STEP_HISTORY_AGED for one entry of dam d's step history (R80). -/
  | stepHistoryAged (d : DamId) (dir : Direction)
  /-- MODE_WRITE_CONFIG (R108). -/
  | modeWriteConfig (w : BusWrite)
  /-- MODE_WRITE_RUN (R106). -/
  | modeWriteRun (w : BusWrite)
  /-- MODE_WRITE_HOLD (R109). -/
  | modeWriteHold (w : BusWrite)
  /-- LAST_DAM_WRITE (R112). -/
  | lastDamWrite (w : BusWrite)
  /-- REFRESH_INTERVAL_WRITE (R113). -/
  | refreshIntervalWrite (w : BusWrite)
  /-- KEEP_MASK_WRITE (R113). -/
  | keepMaskWrite (w : BusWrite)
  /-- LOG_READ_INDEX_WRITE (R155). -/
  | logReadIndexWrite (w : BusWrite)
  /-- ALARM_CLEAR_WRITE (R150). -/
  | alarmClearWrite (w : BusWrite)
  /-- MASTER_ENTRY_WRITE of the entry of master i + 1, so of master 1 to 7 (R122). -/
  | masterEntryWrite (i : Fin 7) (w : BusWrite)
  /-- DESCRIPTOR_WRITE of the descriptor of page p (R124). -/
  | descriptorWrite (p : PageId) (w : BusWrite)
  /-- GATE_CONFIG_WRITE of word i + 1 of gate g's configuration, so of word 1 to 7 (R1). -/
  | gateConfigWrite (g : GateId) (i : Fin 7) (w : BusWrite)
  /-- SERVICE_ENTRY: a write of ON to gate g's service control word (R4). -/
  | serviceEntry (g : GateId) (w : BusWrite)
  /-- SERVICE_EXIT: a write of OFF to gate g's service control word (R5). -/
  | serviceExit (g : GateId) (w : BusWrite)
  /-- DAM_DWELL_WRITE of one dwell of dam d (R19). -/
  | damDwellWrite (d : DamId) (k : Dwell) (w : BusWrite)
  /-- DAM_HOLD_SET: a write of 1 to dam d's hold control word (R24). -/
  | damHoldSet (d : DamId) (w : BusWrite)
  /-- DAM_HOLD_CLEAR: a write of 0 to dam d's hold control word (R24). -/
  | damHoldClear (d : DamId) (w : BusWrite)
  /-- REFRESH_KEEP_WRITE of dam d (R19). -/
  | refreshKeepWrite (d : DamId) (w : BusWrite)
  /-- REACH_RECORD_WRITE of word i of reach r's record (R28). -/
  | reachRecordWrite (r : ReachId) (i : Fin 11) (w : BusWrite)
  /-- STAGGER_MATRIX_WRITE of word i of the matrix (R79). -/
  | staggerMatrixWrite (i : Fin 8) (w : BusWrite)
  /-- PORTAL_CONFIG_WRITE of word 8 + 2p + i of page 7 (R91). -/
  | portalConfigWrite (p : PortalId) (i : Fin 2) (w : BusWrite)
  /-- INTERLOCK_CONDITION_WRITE of word 16 + 2c + i of page 7 (R67). -/
  | interlockConditionWrite (c : CondId) (i : Fin 2) (w : BusWrite)
  /-- LINK_ENTRY_WRITE of word 80 + 2l + i of page 7 (R145). -/
  | linkEntryWrite (l : LinkId) (i : Fin 2) (w : BusWrite)
  /-- ORDER: a write to gate g's ORDER word (R50). -/
  | order (g : GateId) (w : BusWrite)
  /-- FEEDBACK_WRITE to gate g's FEEDBACK word (R14). -/
  | feedbackWrite (g : GateId) (w : BusWrite)
  /-- SENSOR_WRITE to one sensor word of reach r (R39). -/
  | sensorWrite (r : ReachId) (k : Sensor) (w : BusWrite)
  /-- STATUS_WORD_WRITE to station status word n (R68). -/
  | statusWordWrite (n : StatusId) (w : BusWrite)
  /-- PORTAL_ITEM_WRITE to word i + 1 of portal p's page, so to word 1 to 125 (R92). -/
  | portalItemWrite (p : PortalId) (i : Fin 125) (w : BusWrite)
  /-- PORTAL_HEADER_WRITE to word 0 of portal p's page (R93). -/
  | portalHeaderWrite (p : PortalId) (w : BusWrite)
  /-- PLAIN_WRITE: a WRITE of the byte address given, to a word that has no row of its own (R126). -/
  | plainWrite (address : BitVec 16) (m : MasterId) (hi lo : Bool) (data : Word)
  /-- FORWARDED_ACCESS_COMPLETE: the store answers a forwarded transaction (R129). -/
  | forwardedAccessComplete (a : StoreAnswer)
  /-- SLOT_WRITE_ACCESS_DONE: the store answers an access of a gate slot write (R138). -/
  | slotWriteAccessDone (a : StoreAnswer)
  /-- REFRESH_ACCESS_DONE: the store answers an access of a refresh (R114). -/
  | refreshAccessDone (a : StoreAnswer)
  /-- PORTAL_JOB_ACCESS_DONE: the store answers an access of a portal job (R102). -/
  | portalJobAccessDone (a : StoreAnswer)
  /-- LOG_RECORD_ACCESS_DONE: the store answers an access of a log record job (R154). -/
  | logRecordAccessDone (a : StoreAnswer)
  /-- MIRROR_WRITE_ACCESS_DONE: the store answers an access of a mirror or summary write (R140). -/
  | mirrorWriteAccessDone (a : StoreAnswer)
  /-- PASS_WRITE_ACCESS_DONE: the store answers a write of the initialisation pass (R133). -/
  | passWriteAccessDone (a : StoreAnswer)
  /-- STATION_BUS_READ: a READ of the byte address given (R125). -/
  | stationBusRead (address : BitVec 16) (m : MasterId) (hi lo : Bool)
deriving DecidableEq, Repr

end Sys2Proof
end

