-- ==== Sys2Proof/Config.lean ====
section
/-! DEFINITION. The free values: what the manual leaves open while the part goes on. Each is a constant
with no body, so nothing can be proved about its value, applied to the event counter of State
(`moment`), which every event advances, so that each use is a fresh value. -/

namespace Sys2Proof.Config

/-- R135: after an ERROR answer to a write the addressed word holds "the old value, the new value, or
neither". DESIGN CHOICE of form, log entry 3. -/
opaque unknownWord : Nat → Word

/-- R134, R142: a store access abandoned by a reset "may leave the word written or not". Log entry 4. -/
opaque abandonedWritten : Nat → Bool

/-- R136: "Two jobs that are offered close together to a free port are taken in either order." The number
picks one of the jobs an event has offered to a free port. Log entry 5. -/
opaque offerOrder : Nat → Nat

/-- R121, R129: what the store returns on a lane that a forwarded READ has off; the manual states no value.
Log entry 6. -/
opaque offLane : Nat → Word

/-- R11, R138: the stamp sequence a slot write carries for an OUT_OF_SERVICE gate whose dam field was
rewritten to 6 or 7, which names no dam. Log entry 7. -/
opaque noDamSequence : Nat → BitVec 8

/-- R37, R152, Table 11-9 word 3: the Value word of a BOUND_EXCEEDED record is a signed expression in two's complement,
and the manual states no value for an expression outside -32,768 to 32,767. By the event count, the reach and the
bound's number. Log entry 35. -/
opaque wideExpression : Nat → ReachId → Nat → Word

end Sys2Proof.Config
end

