-- ==== Sys2Proof/Machine/PageMap.lean ====
section
/-! DEFINITION. The page map (Table 11-1): the kind of each page, the part-owned words, where each word with a
meaning lies, and the handler of each written word (Table 7-6). -/

namespace Sys2Proof.Machine

/-- The kind of a page, fixed by its number (7.3, Table 11-1). -/
inductive PageKind where
  | control | table | mirror | log | gate | level | portal | plain
deriving DecidableEq, Repr

/-- Table 11-1. -/
def pageKind (p : PageId) : PageKind :=
  if p.val = 0 then .control
  else if p.val ≤ 7 then .table
  else if p.val ≤ 9 then .mirror
  else if p.val ≤ 13 then .log
  else if p.val ≤ 15 then .gate
  else if p.val = 16 then .level
  else if p.val ≤ 20 then .portal
  else .plain

/-- The fixed limit of pages 0 to 20 (Table 7-3); for pages 21 to 255 the power-on limit. -/
def fixedLimit (p : PageId) : Nat :=
  if p.val = 0 then 16
  else if p.val = 6 then 90
  else if p.val = 7 then 112
  else if p.val = 9 then 112
  else if p.val = 15 then 64
  else if p.val = 16 then 28
  else 128

/-- The part-owned words (Table 7-5). -/
def partOwned (p : PageId) (w : WordIdx) : Bool :=
  match pageKind p with
  | .control => w.val == 1 || w.val == 5 || w.val == 8
  | .mirror => true
  | .log => true
  | .gate => w.val % 4 == 1 || w.val % 4 == 2
  | .portal => decide (126 ≤ w.val)
  | .table => false
  | .level => false
  | .plain => false

/-- The writes that a master of level 0 alone may make (R127): a TABLE page, or page 0 outside words 6
and 7. -/
def needsLevelZero (p : PageId) (w : WordIdx) : Bool :=
  match pageKind p with
  | .table => true
  | .control => !(w.val == 6 || w.val == 7)
  | _ => false

/-- The words that a block of the part handles when they are written (Table 7-6). -/
inductive WriteTarget where
  | mode
  | lastDam
  | refreshInterval
  | keepMask
  | logReadIndex
  | alarmClear
  | masterEntry (m : MasterId)
  | descriptor (p : PageId)
  | serviceControl (g : GateId)
  /-- Word i + 1 of the gate's record. -/
  | gateConfig (g : GateId) (i : Fin 7)
  | damDwell (d : DamId) (k : Dwell)
  | holdControl (d : DamId)
  | refreshKeep (d : DamId)
  | reachWord (r : ReachId) (i : Fin 11)
  | matrix (i : Fin 8)
  | portalConfig (p : PortalId) (i : Fin 2)
  | condition (c : CondId) (i : Fin 2)
  | link (l : LinkId) (i : Fin 2)
  | order (g : GateId)
  | feedback (g : GateId)
  | sensor (r : ReachId) (k : Sensor)
  | statusWord (n : StatusId)
  | portalHeader (p : PortalId)
  /-- Word i + 1 of the portal's page. -/
  | portalItem (p : PortalId) (i : Fin 125)
  /-- A word of a PLAIN page: no handler. -/
  | plain
  /-- A word that the access checks refuse before dispatch: part-owned, or above its page's limit. -/
  | unreached
deriving DecidableEq, Repr

/-- Page of gate g's slot (3.1). -/
def slotPage (g : GateId) : PageId := if g.val < 32 then 14 else 15

/-- Word k of gate g's slot: 0 ORDER, 1 COMMAND, 2 STAMP, 3 FEEDBACK (3.1, 11.3). -/
def slotWord (g : GateId) (k : Fin 4) : WordIdx := ⟨4 * (g.val % 32) + k.val, by omega⟩

/-- Page of gate g's configuration (Table 11-4). -/
def gateConfigPage (g : GateId) : PageId := ⟨3 + g.val / 16, by omega⟩

/-- Word i of gate g's configuration (Table 11-4). -/
def gateConfigWord (g : GateId) (i : Fin 8) : WordIdx := ⟨8 * (g.val % 16) + i.val, by omega⟩

/-- Page of gate g's status mirror (R156). -/
def gateMirrorPage (g : GateId) : PageId := if g.val < 32 then 8 else 9

/-- Word k of gate g's status mirror (R156). -/
def gateMirrorWord (g : GateId) (k : Fin 4) : WordIdx := ⟨4 * (g.val % 32) + k.val, by omega⟩

/-- Word k of reach r's status mirror, on page 9 (R157). -/
def reachMirrorWord (r : ReachId) (k : Fin 8) : WordIdx := ⟨64 + 8 * r.val + k.val, by omega⟩

/-- Page of portal p (5.2). -/
def portalPage (p : PortalId) : PageId := ⟨17 + p.val, by omega⟩

/-- The sensor's word of page 16 (R39). -/
def sensorWord (r : ReachId) : Sensor → WordIdx
  | .a => ⟨2 * r.val, by omega⟩
  | .b => ⟨2 * r.val + 1, by omega⟩

/-- Page of log ring slot w (10.2). -/
def logPage (w : BitVec 6) : PageId := ⟨10 + w.toNat / 16, by have := w.isLt; omega⟩

/-- Word k of log ring slot w (10.2). -/
def logWord (w : BitVec 6) (k : Fin 8) : WordIdx := ⟨8 * (w.toNat % 16) + k.val, by omega⟩

/-- The handler of the word w of page p (Table 7-6). -/
def targetOf (p : PageId) (w : WordIdx) : WriteTarget :=
  if p.val = 0 then
    if w.val = 0 then .mode
    else if w.val = 2 then .lastDam
    else if w.val = 3 then .refreshInterval
    else if w.val = 4 then .keepMask
    else if w.val = 6 then .logReadIndex
    else if w.val = 7 then .alarmClear
    else if h : 8 < w.val ∧ w.val < 16 then .masterEntry ⟨w.val - 8, by omega⟩
    else .unreached
  else if p.val = 1 then .descriptor ⟨w.val, by omega⟩
  else if p.val = 2 then .descriptor ⟨128 + w.val, by omega⟩
  else if h : 3 ≤ p.val ∧ p.val ≤ 5 then
    if hi : w.val % 8 = 0 then .serviceControl ⟨16 * (p.val - 3) + w.val / 8, by omega⟩
    else .gateConfig ⟨16 * (p.val - 3) + w.val / 8, by omega⟩ ⟨w.val % 8 - 1, by omega⟩
  else if p.val = 6 then
    if h : w.val < 24 then
      if w.val % 4 = 0 then .damDwell ⟨w.val / 4, by omega⟩ .warning
      else if w.val % 4 = 1 then .damDwell ⟨w.val / 4, by omega⟩ .recovery
      else if w.val % 4 = 2 then .holdControl ⟨w.val / 4, by omega⟩
      else .refreshKeep ⟨w.val / 4, by omega⟩
    else if h' : w.val < 90 then
      .reachWord ⟨(w.val - 24) / 11, by omega⟩ ⟨(w.val - 24) % 11, by omega⟩
    else .unreached
  else if p.val = 7 then
    if h : w.val < 8 then .matrix ⟨w.val, h⟩
    else if h : w.val < 16 then .portalConfig ⟨(w.val - 8) / 2, by omega⟩ ⟨w.val % 2, by omega⟩
    else if h : w.val < 80 then .condition ⟨(w.val - 16) / 2, by omega⟩ ⟨w.val % 2, by omega⟩
    else if h : w.val < 112 then .link ⟨(w.val - 80) / 2, by omega⟩ ⟨w.val % 2, by omega⟩
    else .unreached
  else if h : 14 ≤ p.val ∧ p.val ≤ 15 then
    if hg : 32 * (p.val - 14) + w.val / 4 < 48 then
      if w.val % 4 = 0 then .order ⟨32 * (p.val - 14) + w.val / 4, hg⟩
      else if w.val % 4 = 3 then .feedback ⟨32 * (p.val - 14) + w.val / 4, hg⟩
      else .unreached
    else .unreached
  else if p.val = 16 then
    if h : w.val < 12 then .sensor ⟨w.val / 2, by omega⟩ (if w.val % 2 = 0 then .a else .b)
    else if h : w.val < 28 then .statusWord ⟨w.val - 12, by omega⟩
    else .unreached
  else if h : 17 ≤ p.val ∧ p.val ≤ 20 then
    if hw : w.val = 0 then .portalHeader ⟨p.val - 17, by omega⟩
    else if hw' : w.val < 126 then .portalItem ⟨p.val - 17, by omega⟩ ⟨w.val - 1, by omega⟩
    else .unreached
  else if 21 ≤ p.val then .plain
  else .unreached

/-- Where a handled word lies (Tables 11-2 to 11-7). For the two targets that name no one word it answers
page 255, word 127. -/
def WriteTarget.place : WriteTarget → PageId × WordIdx
  | .mode => (0, 0)
  | .lastDam => (0, 2)
  | .refreshInterval => (0, 3)
  | .keepMask => (0, 4)
  | .logReadIndex => (0, 6)
  | .alarmClear => (0, 7)
  | .masterEntry m => (0, ⟨8 + m.val, by omega⟩)
  | .descriptor p => (if p.val < 128 then 1 else 2, ⟨p.val % 128, by omega⟩)
  | .serviceControl g => (gateConfigPage g, gateConfigWord g 0)
  | .gateConfig g i => (gateConfigPage g, gateConfigWord g ⟨i.val + 1, by omega⟩)
  | .damDwell d k => (6, ⟨4 * d.val + (match k with | .warning => 0 | .recovery => 1), by split <;> omega⟩)
  | .holdControl d => (6, ⟨4 * d.val + 2, by omega⟩)
  | .refreshKeep d => (6, ⟨4 * d.val + 3, by omega⟩)
  | .reachWord r i => (6, ⟨24 + 11 * r.val + i.val, by omega⟩)
  | .matrix i => (7, ⟨i.val, by omega⟩)
  | .portalConfig p i => (7, ⟨8 + 2 * p.val + i.val, by omega⟩)
  | .condition c i => (7, ⟨16 + 2 * c.val + i.val, by omega⟩)
  | .link l i => (7, ⟨80 + 2 * l.val + i.val, by omega⟩)
  | .order g => (slotPage g, slotWord g 0)
  | .feedback g => (slotPage g, slotWord g 3)
  | .sensor r k => (16, sensorWord r k)
  | .statusWord n => (16, ⟨12 + n.val, by omega⟩)
  | .portalHeader p => (portalPage p, 0)
  | .portalItem p i => (portalPage p, ⟨i.val + 1, by omega⟩)
  | .plain => (255, 127)
  | .unreached => (255, 127)

/-- The page that a byte address names (R121): floor(address / 256). -/
def addressPage (address : BitVec 16) : PageId := ⟨address.toNat / 256, by have := address.isLt; omega⟩

/-- The word index within that page (R121): floor((address mod 256) / 2). -/
def addressWord (address : BitVec 16) : WordIdx := ⟨address.toNat % 256 / 2, by omega⟩

/-- Whether the byte address is odd (check 3 of Table 7-4). -/
def addressOdd (address : BitVec 16) : Bool := address.toNat % 2 == 1

/-- The gate that a word of pages 3 to 5, 14 or 15 names (the context of a REFUSAL record, Table 10-1). -/
def gateNamed (p : PageId) (w : WordIdx) : Option GateId :=
  if h : 3 ≤ p.val ∧ p.val ≤ 5 then some ⟨16 * (p.val - 3) + w.val / 8, by omega⟩
  else if 14 ≤ p.val ∧ p.val ≤ 15 then
    if h : 32 * (p.val - 14) + w.val / 4 < 48 then some ⟨32 * (p.val - 14) + w.val / 4, h⟩ else none
  else none

end Sys2Proof.Machine
end

