-- ==== Sys2Proof/Machine/State.lean ====
section
/-! DEFINITION. The state of the part: the configuration copies that the reset line keeps (`Tables`), the state that
either reset clears (`Dyn`), the command store, and the queue of waiting commands. -/

namespace Sys2Proof.Machine

/-- A timer that counts TICK arrivals (R8): stopped, or running with ticks remaining. `running 0` has reached its
expiry arrival and its expiry is still to be taken (log entry 10). -/
inductive Timer where
  | stopped
  | running (left : Nat)
deriving DecidableEq, Repr

/-- The refusal codes (Table 7-7). -/
inductive Code where
  | notReady | masterOff | misaligned | notPresent | beyondLimit | level | partialWrite | partOwned
  | fixedField | badConfig | inService | noFeedback | badDigit | notRunning | gateState | orderLevel
  | interlock | ceiling | floor | surplus | draw | portalBusy | portalFormat | crc | damMask
  | duplicateGate | storeError | portalLevel | modeChange
deriving DecidableEq, Repr

/-- The number of a refusal code (Table 7-7). -/
def Code.number : Code → Nat
  | .notReady => 1 | .masterOff => 2 | .misaligned => 3 | .notPresent => 4 | .beyondLimit => 5
  | .level => 6 | .partialWrite => 7 | .partOwned => 8 | .fixedField => 9 | .badConfig => 10
  | .inService => 11 | .noFeedback => 12 | .badDigit => 13 | .notRunning => 14 | .gateState => 15
  | .orderLevel => 16 | .interlock => 17 | .ceiling => 18 | .floor => 19 | .surplus => 20 | .draw => 21
  | .portalBusy => 22 | .portalFormat => 23 | .crc => 24 | .damMask => 25 | .duplicateGate => 26
  | .storeError => 27 | .portalLevel => 28 | .modeChange => 29

/-! ### Gates (Section 1) -/

/-- Gate kinds (Table 1-1). -/
inductive GateKind where
  | wicket | flood
deriving DecidableEq, Repr

/-- Gate states (Table 1-3). -/
inductive GateState where
  | outOfService | closed | settled | moving | held | warning | recovering | faulted
deriving DecidableEq, Repr

/-- The state code of Table 1-3. -/
def GateState.code : GateState → Nat
  | .outOfService => 0 | .closed => 1 | .settled => 2 | .moving => 3 | .held => 4 | .warning => 5
  | .recovering => 6 | .faulted => 7

/-- A hold-cause set (1.4). -/
structure Causes where
  mode : Bool
  dam : Bool
  interlock : Bool
deriving DecidableEq, Repr

/-- Why a gate is FAULTED (Table 1-2). -/
inductive FaultCause where
  | lag | store
deriving DecidableEq, Repr

/-- The configuration part of a gate record (Table 1-1), but for service control, which is ON exactly while the
gate is in service. -/
structure GateConfig where
  dam : BitVec 3
  kind : GateKind
  coefficient : BitVec 8
  stepSize : Word
  stepInterval : Word
  lagLimit : Word
  tolerance : Word
  orderLevel : BitVec 2
  openRef : BitVec 6
  closeRef : BitVec 6
deriving DecidableEq, Repr

/-- The dynamic part of a gate record (Table 1-2). Openings are counts, 0 to 1000. -/
structure Gate where
  state : GateState
  target : Nat
  command : Nat
  causes : Causes
  feedback : Nat
  feedbackKnown : Bool
  awaiting : Bool
  lagTimer : Timer
  recoveryTimer : Timer
  lastGrant : Option (BitVec 32)
  faultCause : Option FaultCause
  lastRefusal : Option Code
deriving DecidableEq, Repr

/-! ### Dams and reaches (Sections 1 and 2) -/

/-- Dam warning states (Table 1-6). -/
inductive Warning where
  | silent | sounding | sounded
deriving DecidableEq, Repr

/-- The configuration part of a dam record (Table 1-5). `keep` is also bit d of the keep mask (R113). -/
structure DamConfig where
  warningDwell : Word
  recoveryDwell : Word
  keep : Bool
deriving DecidableEq, Repr

/-- The dynamic part of a dam record (Table 1-5). -/
structure Dam where
  warning : Warning
  dwellTimer : Timer
  hold : Bool
  sequence : BitVec 8
  lastOpen : Option (BitVec 32)
  lastClose : Option (BitVec 32)
deriving DecidableEq, Repr

/-- A reach record (Table 2-2). -/
structure ReachConfig where
  ceiling : Word
  floor : Word
  surplus : Word
  draw : Word
  cutCeiling : Word
  lowDraw : Word
  highMark : Word
  lowMark : Word
  hysteresis : Word
  splitTolerance : Word
  sampleTimeout : Word
deriving DecidableEq, Repr

/-- Sample freshness (Table 2-5). -/
inductive Freshness where
  | never | fresh | stale
deriving DecidableEq, Repr

/-- One sensor's sample (2.6). -/
structure Sample where
  value : Nat
  freshness : Freshness
  timer : Timer
deriving DecidableEq, Repr

/-- Level states of a reach (2.7). -/
inductive LevelState where
  | unknown | low | normal | high
deriving DecidableEq, Repr

/-- The dynamic state of a reach (R49): samples, level, level state, flags and the two effective limits (R31). -/
structure Reach where
  a : Sample
  b : Sample
  level : Nat
  levelState : LevelState
  split : Bool
  exceeded : Bool
  ceff : Word
  deff : Word
deriving DecidableEq, Repr

/-! ### Interlocks, portals, links (Sections 3, 5, 9) -/

/-- The four tests of an interlock condition (R66). -/
inductive Test where
  | allSet | anySet | allClear | anyClear
deriving DecidableEq, Repr

/-- An interlock condition (Table 3-5). -/
structure Condition where
  source : StatusId
  test : Test
  mask : Word
deriving DecidableEq, Repr

/-- A portal's configuration (Table 5-1). -/
structure PortalConfig where
  enabled : Bool
  invokeLevel : BitVec 2
  grantedLevel : BitVec 2
  maxCount : BitVec 4
  damMask : BitVec 6
deriving DecidableEq, Repr

/-- A portal's buffer (indexes 1 to 16 of its page are entries 0 to 15) and busy flag (R92, R93). -/
structure Portal where
  buffer : Vector Word 16
  busy : Bool
deriving DecidableEq, Repr

/-- Result status of a portal request (Table 11-7). -/
inductive PortalStatus where
  | none | done | refused
deriving DecidableEq, Repr

/-- A portal job (R102): the echoes of a DONE request in item order, and the result. -/
structure PortalJob where
  portal : PortalId
  sequence : BitVec 8
  status : PortalStatus
  code : Option Code
  index : Nat
  echoes : List (GateId × Nat)
deriving DecidableEq, Repr

/-- Event kinds (Tables 9-1 and 11-6). -/
inductive EventKind where
  | levelHigh | levelLow | levelUnknown | sensorSplit | boundExceeded | feedbackLag | interlockLost
  | orderRefused | storeFault | refreshOverrun | portalRefused | reset
deriving DecidableEq, Repr

/-- The subject of an event (Table 9-1). -/
inductive Subject where
  | reach (r : ReachId)
  | gate (g : GateId)
  | portal (p : PortalId)
  | none
deriving DecidableEq, Repr

/-- Link actions (Table 9-2). -/
inductive Action where
  | none | holdDam | holdSourceDam | enterHold | alarm
deriving DecidableEq, Repr

/-- A link entry (Table 9-2). The index 63 is ANY. -/
structure Link where
  kind : EventKind
  index : BitVec 6
  action : Action
  target : BitVec 3
deriving DecidableEq, Repr

/-! ### Modes, masters, descriptors, transactions (Sections 6 and 7) -/

/-- Operating modes (6.1). -/
inductive Mode where
  | config | run | hold | exiting
deriving DecidableEq, Repr

/-- The mode code of Table 11-2. -/
def Mode.code : Mode → Nat
  | .config => 0 | .run => 1 | .hold => 2 | .exiting => 3

/-- An entry of the master table (7.2). -/
structure Master where
  enabled : Bool
  level : BitVec 2
deriving DecidableEq, Repr

/-- A page descriptor (Table 7-2). -/
structure Descriptor where
  present : Bool
  readLevel : BitVec 2
  writeLevel : BitVec 2
  decimal : Bool
  limit : BitVec 8
deriving DecidableEq, Repr

/-- A station bus transaction (Table 7-1), its byte address split as R121 gives. -/
structure Transaction where
  master : MasterId
  page : PageId
  word : WordIdx
  odd : Bool
  hi : Bool
  lo : Bool
  write : Bool
  data : Word
deriving DecidableEq, Repr

/-- The answer to a transaction (R121). -/
inductive BusResult where
  | doneRead (data : Word)
  | doneWrite
  | refused (c : Code)
deriving DecidableEq, Repr

/-- An answer and the master it goes to. -/
structure BusAnswer where
  master : MasterId
  result : BusResult
deriving DecidableEq, Repr

/-! ### Log records and store jobs (Sections 8 and 10) -/

/-- Record kinds (Table 11-9). -/
inductive RecordKind where
  | refusal | event | reset
deriving DecidableEq, Repr

/-- The context field of a record (Table 11-9, word 7). -/
inductive Context where
  | gate (st : GateState)
  | mode (m : Mode)
deriving DecidableEq, Repr

/-- A formed log record (R152, Table 11-9). -/
structure LogRecord where
  kind : RecordKind
  code : BitVec 5
  master : MasterId
  page : PageId
  qualifier : BitVec 8
  subject : BitVec 8
  value : Word
  tick : BitVec 32
  detail : Word
  context : Context
deriving DecidableEq, Repr

/-- One store access (R135). -/
structure Access where
  page : PageId
  word : WordIdx
  write : Bool
  hi : Bool
  lo : Bool
  data : Word
deriving DecidableEq, Repr

/-- The kinds of initialisation pass (R131). -/
inductive PassKind where
  | powerOn | resetLine
deriving DecidableEq, Repr

/-- Where a refresh job was offered (R114 to R117). -/
inductive RefreshOrigin where
  | run | hold | pass
deriving DecidableEq, Repr

/-- A job that has been granted (R136), at the access it has begun. A refresh carries the gates still to write and
whether its completion counts toward the debt or the exit pass (R107, R110, R111, R115). A mirror carries the first
access answered ERROR (Table 8-3). -/
inductive Job where
  | forwarded (t : Transaction)
  | slot (g : GateId) (stamp : Bool)
  | refresh (d : DamId) (origin : RefreshOrigin) (counts : Bool) (g : GateId) (rest : List GateId)
  | portal (j : PortalJob) (k : Nat)
  | log (r : LogRecord) (slot : BitVec 6) (k : Nat)
  | gateMirror (g : GateId) (k : Fin 4) (failed : Option Access)
  | reachMirror (r : ReachId) (k : Fin 8) (failed : Option Access)
  | summary
  | pass (kind : PassKind) (k : Nat)
deriving DecidableEq, Repr

/-- The job in progress and its access in progress. -/
structure Running where
  job : Job
  access : Access
deriving DecidableEq, Repr

/-! ### The state -/

/-- The part's copies of what software configures: what the reset line keeps. -/
structure Tables where
  gates : Vector GateConfig 48
  dams : Vector DamConfig 6
  reaches : Vector ReachConfig 6
  matrix : Vector Word 8
  portals : Vector PortalConfig 4
  conditions : Vector Condition 32
  links : Vector Link 16
  masters : Vector Master 8
  descriptors : Vector Descriptor 256
  lastDam : DamId
  refreshInterval : Word
deriving DecidableEq, Repr

/-- What either reset clears (but `logWrite` and `logRead`, which the reset line keeps, and `moment`, the model's
own count of events, which nothing clears). -/
structure Dyn where
  gates : Vector Gate 48
  dams : Vector Dam 6
  totals : Vector Word 6
  reaches : Vector Reach 6
  statusWords : Vector Word 16
  /-- The pending step queue (R74), oldest first. -/
  queue : List GateId
  portals : Vector Portal 4
  mode : Mode
  /-- The refresh debt (R115). -/
  debt : Int
  /-- The dam rotation pointer (R114). -/
  pointer : DamId
  /-- The exit-pass progress (R110); 0 when cleared. -/
  progress : Nat
  /-- The dam whose refresh is offered and not yet granted (R116). -/
  offer : Option DamId
  /-- The pointer goes to dam 0 at the completion of the refresh in progress (R107). -/
  pointerReset : Bool
  refreshTimer : Timer
  alarms : Vector Bool 4
  /-- Formed records, oldest first (R153). -/
  logBuffer : List LogRecord
  logWrite : BitVec 6
  logRead : BitVec 6
  logLost : Bool
  /-- Dirty marks with the moment each was set (R138). -/
  slotMarks : Vector (Option Nat) 48
  gateMirrorMarks : Vector (Option Nat) 48
  reachMirrorMarks : Vector (Option Nat) 6
  summaryMark : Option Nat
  /-- Queued portal jobs, oldest first. -/
  portalJobs : List PortalJob
  running : Option Running
  /-- The transaction in hand (R121). -/
  hand : Option Transaction
  /-- The answer last given; none while a transaction waits for its answer. -/
  answer : Option BusAnswer
  /-- The initialisation pass that is running (R131). -/
  passKind : Option PassKind
  passFailed : Nat
  powerOnUnfinished : Bool
  tick : BitVec 32
  moment : Nat
deriving DecidableEq, Repr

/-- The whole state: the part's configuration copies and dynamic state, the command store as cells (byte address,
byte) in canonical form (Machine/Memory.lean), and the commands that are waiting, first in first out. -/
structure State where
  tables : Tables
  dyn : Dyn
  store : List Host.Cell
  pending : List Instr
deriving DecidableEq, Repr

/-- No command of this hardware ends in a fault: the manual gives every command an effect (INVENTORY, Faults). -/
inductive Fault where
deriving DecidableEq, Repr

/-- Why a command has no outcome. -/
inductive Refusal where
  /-- Raised by `exec` for a row that has no meaning yet; safe. No arm raises it. -/
  | notModelled (mnemonic : String)
deriving DecidableEq, Repr

/-! ### Reset (R2, R19, R29, R49, R67, R68, R79, R91, R103, R112, R113, R120, R122, R123, R142, R145, R149, R155) -/

/-- A gate's configuration after a power-on reset (R2). -/
def GateConfig.powerOn : GateConfig where
  dam := 0
  kind := .wicket
  coefficient := 0
  stepSize := 0
  stepInterval := 0
  lagLimit := 0
  tolerance := 0
  orderLevel := 0
  openRef := 63
  closeRef := 63

/-- A gate's dynamic fields after either reset (R2). -/
def Gate.initial : Gate where
  state := .outOfService
  target := 0
  command := 0
  causes := ⟨false, false, false⟩
  feedback := 0
  feedbackKnown := false
  awaiting := false
  lagTimer := .stopped
  recoveryTimer := .stopped
  lastGrant := none
  faultCause := none
  lastRefusal := none

/-- A dam's dynamic fields after either reset (R19). -/
def Dam.initial : Dam where
  warning := .silent
  dwellTimer := .stopped
  hold := false
  sequence := 0
  lastOpen := none
  lastClose := none

/-- A reach record after a power-on reset (R29). -/
def ReachConfig.powerOn : ReachConfig where
  ceiling := 0
  floor := 0
  surplus := 0
  draw := 0
  cutCeiling := 0
  lowDraw := 0
  highMark := 0
  lowMark := 0
  hysteresis := 0
  splitTolerance := 0
  sampleTimeout := 0

/-- A sample after either reset (R49). -/
def Sample.initial : Sample := ⟨0, .never, .stopped⟩

/-- A reach's dynamic state after either reset, with its record in force (R49). -/
def Reach.initial (c : ReachConfig) : Reach where
  a := .initial
  b := .initial
  level := 0
  levelState := .unknown
  split := false
  exceeded := false
  ceff := if c.cutCeiling.toNat < c.ceiling.toNat then c.cutCeiling else c.ceiling
  deff := c.draw

/-- A page descriptor after a power-on reset (Table 7-3). -/
def Descriptor.powerOn (p : PageId) : Descriptor where
  present := true
  readLevel := if p.val ≤ 20 then 3 else 0
  writeLevel := if 14 ≤ p.val ∧ p.val ≤ 20 then 3 else 0
  decimal := false
  limit := BitVec.ofNat 8 (fixedLimit p)

/-- Every configuration copy after a power-on reset. -/
def Tables.powerOn : Tables where
  gates := Table.tab fun _ => .powerOn
  dams := Table.tab fun _ => ⟨0, 0, false⟩
  reaches := Table.tab fun _ => .powerOn
  matrix := Table.tab fun _ => 0
  portals := Table.tab fun _ => ⟨false, 0, 0, 0, 0⟩
  conditions := Table.tab fun _ => ⟨0, .allSet, 0⟩
  links := Table.tab fun _ => ⟨.levelHigh, 0, .none, 0⟩
  masters := Table.tab fun m => if m.val = 0 then ⟨true, 0⟩ else ⟨false, 3⟩
  descriptors := Table.tab Descriptor.powerOn
  lastDam := 0
  refreshInterval := 10

/-- The first write of either pass: the status summary word of the reset state with init-done clear, which is
0000h (R131, Table 11-2). -/
def passFirstAccess : Access where
  page := 0
  word := 1
  write := true
  hi := true
  lo := true
  data := 0

/-- The dynamic state after a reset, with the configuration in force, the pass that follows, the log indexes as the
reset leaves them, the answer to the transaction the reset cut off, and the model's event count. The pass has begun
its first write (R131, R143; log entry 23). -/
def Dyn.initial (c : Tables) (kind : PassKind) (logWrite logRead : BitVec 6) (answer : Option BusAnswer)
    (moment : Nat) : Dyn where
  gates := Table.tab fun _ => .initial
  dams := Table.tab fun _ => .initial
  totals := Table.tab fun _ => 0
  reaches := Table.tab fun r => .initial (c.reaches.get r)
  statusWords := Table.tab fun _ => 0
  queue := []
  portals := Table.tab fun _ => ⟨Table.tab fun _ => 0, false⟩
  mode := .config
  debt := 0
  pointer := 0
  progress := 0
  offer := none
  pointerReset := false
  refreshTimer := .stopped
  alarms := Table.tab fun _ => false
  logBuffer := []
  logWrite := logWrite
  logRead := logRead
  logLost := false
  slotMarks := Table.tab fun _ => none
  gateMirrorMarks := Table.tab fun _ => none
  reachMirrorMarks := Table.tab fun _ => none
  summaryMark := none
  portalJobs := []
  running := some ⟨.pass kind 0, passFirstAccess⟩
  hand := none
  answer := answer
  passKind := some kind
  passFailed := 0
  powerOnUnfinished := kind == .powerOn
  tick := 0
  moment := moment

/-- The machine right after a power-on reset (R131): the store lists nothing (log entry 8), no command waits. -/
def State.reset : State where
  tables := .powerOn
  dyn := .initial .powerOn .powerOn 0 0 none 0
  store := []
  pending := []

end Sys2Proof.Machine
end

