-- ==== Sys2Proof/Machine/Memory.lean ====
section
/-! DEFINITION. The command store (00_scope.md, R135): bytes by address in one canonical form, and whole words with
lane enables over them. -/

namespace Sys2Proof.Machine

/-- The command store's cells, in canonical form (`Memory.wf`). -/
abbrev Memory := List Host.Cell

/-- What a byte that nothing has written reads as: the manual gives static RAM no contents at power-on.
DESIGN CHOICE 0, unsafe (log entry 8). -/
def unlisted : BitVec 8 := 0

/-- Every listed address is above `low`, addresses rise strictly, and no listed byte is the unlisted one. -/
def Memory.wfAbove (low : Nat) : Memory → Bool
  | [] => true
  | (a, b) :: m => decide (low ≤ a) && b != unlisted && Memory.wfAbove (a + 1) m

/-- The canonical form. -/
def Memory.wf (m : Memory) : Bool := Memory.wfAbove 0 m

/-- One byte. -/
def Memory.byte : Memory → Nat → BitVec 8
  | [], _ => unlisted
  | (a, b) :: m, x => if a = x then b else Memory.byte m x

/-- One byte replaced; writing the unlisted byte removes the entry. -/
def Memory.setByte : Memory → Nat → BitVec 8 → Memory
  | [], x, v => if v = unlisted then [] else [(x, v)]
  | (a, b) :: m, x, v =>
    if x < a then (if v = unlisted then (a, b) :: m else (x, v) :: (a, b) :: m)
    else if x = a then (if v = unlisted then m else (x, v) :: m)
    else (a, b) :: Memory.setByte m x v

/-- The even byte address of a word (00_scope.md, Words, Pages and Addresses). -/
def wordAddress (p : PageId) (w : WordIdx) : Nat := 256 * p.val + 2 * w.val

/-- A word read. The low byte lies at the even address (DESIGN CHOICE, unobservable, log entry 9). -/
def Memory.word (m : Memory) (p : PageId) (w : WordIdx) : Word :=
  m.byte (wordAddress p w + 1) ++ m.byte (wordAddress p w)

/-- A word written on the lanes that are on. -/
def Memory.setWord (m : Memory) (p : PageId) (w : WordIdx) (hi lo : Bool) (v : Word) : Memory :=
  let m1 := if lo then m.setByte (wordAddress p w) (v.extractLsb' 0 8) else m
  if hi then m1.setByte (wordAddress p w + 1) (v.extractLsb' 8 8) else m1

/-- A word with the bytes of the lanes that are off taken from `other`. -/
def laneMerge (hi lo : Bool) (v other : Word) : Word :=
  (if hi then v.extractLsb' 8 8 else other.extractLsb' 8 8) ++
    (if lo then v.extractLsb' 0 8 else other.extractLsb' 0 8)

/-- What the store returns for a READ: the word, with a free value on each lane that is off (log entry 6). -/
def readData (m : Memory) (t : Transaction) (moment : Nat) : Word :=
  laneMerge t.hi t.lo (m.word t.page t.word) (Config.offLane moment)

/-- Whether a job in progress is writing the status summary word for an initialisation pass. -/
def Job.passSummary (j : Job) (a : Access) : Bool :=
  match j with
  | .pass _ _ => a.page == 0 && a.word == 1
  | _ => false

/-- The store after it has answered the access of job j (R135). OK to a write: the word is written on its lanes. ERROR
to a write: the word is a free value (log entry 3); of the summary word's two pass writes the init-done bit stays as it
was (R133, log entry 22). A read changes nothing. -/
def storeAfter (m : Memory) (j : Job) (a : Access) (ans : StoreAnswer) (moment : Nat) : Memory :=
  if a.write then
    match ans with
    | .ok => m.setWord a.page a.word a.hi a.lo a.data
    | .error =>
      let free := Config.unknownWord moment
      if j.passSummary a then
        m.setWord a.page a.word true true
          ((m.word a.page a.word).extractLsb' 15 1 ++ free.extractLsb' 0 15)
      else m.setWord a.page a.word true true free
  else m

/-- The store after a reset abandons the access in progress: "may leave the word written or not" (R134, log
entry 4). -/
def storeAbandoned (m : Memory) (r : Option Running) (moment : Nat) : Memory :=
  match r with
  | none => m
  | some ⟨_, a⟩ =>
    if a.write && Config.abandonedWritten moment then m.setWord a.page a.word a.hi a.lo a.data else m

end Sys2Proof.Machine
end

