-- ==== Sys2Proof/Machine/Operands.lean ====
section
/-! DEFINITION. The layouts of every word that masters or the part write (Section 11): decoding written words into
fields, and encoding the part's own words. Unused bits are neither examined nor kept, and the part writes them 0
(R159). -/

namespace Sys2Proof.Machine

/-! ### Openings and levels (R14, R39, R51, 11.3) -/

/-- The number that four packed BCD digits spell, if every digit is 0 to 9. -/
def bcdValue (w : Word) : Option Nat :=
  let d3 := (w.extractLsb' 12 4).toNat
  let d2 := (w.extractLsb' 8 4).toNat
  let d1 := (w.extractLsb' 4 4).toNat
  let d0 := (w.extractLsb' 0 4).toNat
  if d3 ≤ 9 ∧ d2 ≤ 9 ∧ d1 ≤ 9 ∧ d0 ≤ 9 then some (1000 * d3 + 100 * d2 + 10 * d1 + d0) else none

/-- Four packed BCD digits, most significant first. -/
def bcdWord (n : Nat) : Word :=
  BitVec.ofNat 4 (n / 1000 % 10) ++ BitVec.ofNat 4 (n / 100 % 10) ++ BitVec.ofNat 4 (n / 10 % 10) ++
    BitVec.ofNat 4 (n % 10)

/-- A value word in the format of its page, not above `max`; none where the decoding fails. -/
def decodeValue (decimal : Bool) (max : Nat) (w : Word) : Option Nat :=
  match (if decimal then bcdValue w else some w.toNat) with
  | some v => if v ≤ max then some v else none
  | none => none

/-- A value as the part writes it in the format of the page. -/
def encodeValue (decimal : Bool) (n : Nat) : Word :=
  if decimal then bcdWord n else BitVec.ofNat 16 n

/-- The decimal flag of a page. -/
def Tables.decimal (c : Tables) (p : PageId) : Bool := (c.descriptors.get p).decimal

/-! ### Page 0 (Table 11-2) -/

/-- The mode field of a written mode word: a mode, or none for the values 4 to 7. -/
def modeOfWord (w : Word) : Option Mode :=
  match (w.extractLsb' 0 3).toNat with
  | 0 => some .config
  | 1 => some .run
  | 2 => some .hold
  | 3 => some .exiting
  | _ => none

/-- The status summary word (R158). -/
def summaryWord (initDone : Bool) (p : Dyn) : Word :=
  BitVec.ofBool initDone ++ BitVec.ofBool p.logLost ++ (0 : BitVec 8) ++ BitVec.ofInt 4 p.debt ++
    BitVec.ofNat 2 p.mode.code

/-- Master table entry fields of a written word. -/
def masterOfWord (w : Word) : Master := ⟨w.getLsbD 15, w.extractLsb' 0 2⟩

/-- A master table entry as the pass writes it. -/
def masterWord (m : Master) : Word := BitVec.ofBool m.enabled ++ (0 : BitVec 13) ++ m.level

/-! ### Page descriptors (Table 11-3) -/

/-- Descriptor fields of a written word. -/
def descriptorOfWord (w : Word) : Descriptor where
  present := w.getLsbD 15
  readLevel := w.extractLsb' 13 2
  writeLevel := w.extractLsb' 11 2
  decimal := w.getLsbD 10
  limit := w.extractLsb' 0 8

/-- A descriptor as the pass writes it. -/
def descriptorWord (d : Descriptor) : Word :=
  BitVec.ofBool d.present ++ d.readLevel ++ d.writeLevel ++ BitVec.ofBool d.decimal ++ (0 : BitVec 2) ++ d.limit

/-! ### Gate configuration (Table 11-4) -/

/-- The record with word i + 1 taken from a written word. -/
def GateConfig.withWord (c : GateConfig) (i : Fin 7) (w : Word) : GateConfig :=
  match i.val with
  | 0 => { c with kind := if w.getLsbD 8 then .flood else .wicket, dam := w.extractLsb' 0 3 }
  | 1 => { c with coefficient := w.extractLsb' 0 8 }
  | 2 => { c with stepSize := w }
  | 3 => { c with stepInterval := w }
  | 4 => { c with lagLimit := w }
  | 5 => { c with tolerance := w }
  | _ => { c with orderLevel := w.extractLsb' 14 2, openRef := w.extractLsb' 8 6, closeRef := w.extractLsb' 0 6 }

/-- Word i + 1 of the record as the pass writes it. -/
def GateConfig.word (c : GateConfig) (i : Fin 7) : Word :=
  match i.val with
  | 0 => (0 : BitVec 7) ++ BitVec.ofBool (c.kind == .flood) ++ (0 : BitVec 5) ++ c.dam
  | 1 => (0 : BitVec 8) ++ c.coefficient
  | 2 => c.stepSize
  | 3 => c.stepInterval
  | 4 => c.lagLimit
  | 5 => c.tolerance
  | _ => c.orderLevel ++ c.openRef ++ (0 : BitVec 2) ++ c.closeRef

/-- The dam a gate is configured to, if its dam field names one. -/
def GateConfig.dam? (c : GateConfig) : Option DamId :=
  if h : c.dam.toNat < 6 then some ⟨c.dam.toNat, h⟩ else none

/-- Whether a gate is configured to dam d. -/
def GateConfig.inDam (c : GateConfig) (d : DamId) : Bool := c.dam.toNat == d.val

/-- The condition an interlock reference names; NONE (63) names none. The values 32 to 62 are refused at service
entry (R3) and name no condition (log entry 21). -/
def refCondition (r : BitVec 6) : Option CondId :=
  if h : r.toNat < 32 then some ⟨r.toNat, h⟩ else none

/-- A reference that service entry accepts (R3). -/
def refValid (r : BitVec 6) : Bool := decide (r.toNat < 32) || r == 63

/-! ### Reach records (Table 2-2) -/

/-- The record with word i replaced. -/
def ReachConfig.withWord (c : ReachConfig) (i : Fin 11) (w : Word) : ReachConfig :=
  match i.val with
  | 0 => { c with ceiling := w }
  | 1 => { c with floor := w }
  | 2 => { c with surplus := w }
  | 3 => { c with draw := w }
  | 4 => { c with cutCeiling := w }
  | 5 => { c with lowDraw := w }
  | 6 => { c with highMark := w }
  | 7 => { c with lowMark := w }
  | 8 => { c with hysteresis := w }
  | 9 => { c with splitTolerance := w }
  | _ => { c with sampleTimeout := w }

/-- Word i of the record. -/
def ReachConfig.word (c : ReachConfig) (i : Fin 11) : Word :=
  match i.val with
  | 0 => c.ceiling
  | 1 => c.floor
  | 2 => c.surplus
  | 3 => c.draw
  | 4 => c.cutCeiling
  | 5 => c.lowDraw
  | 6 => c.highMark
  | 7 => c.lowMark
  | 8 => c.hysteresis
  | 9 => c.splitTolerance
  | _ => c.sampleTimeout

/-! ### Page 7 entries (Table 11-5) -/

/-- A portal's configuration with one of its two words taken from a written word. -/
def PortalConfig.withWord (c : PortalConfig) (i : Fin 2) (w : Word) : PortalConfig :=
  match i.val with
  | 0 => { c with
      enabled := w.getLsbD 15, invokeLevel := w.extractLsb' 12 2, grantedLevel := w.extractLsb' 10 2,
      maxCount := w.extractLsb' 0 4 }
  | _ => { c with damMask := w.extractLsb' 0 6 }

/-- A word of a portal's configuration as the pass writes it. -/
def PortalConfig.word (c : PortalConfig) (i : Fin 2) : Word :=
  match i.val with
  | 0 => BitVec.ofBool c.enabled ++ (0 : BitVec 1) ++ c.invokeLevel ++ c.grantedLevel ++ (0 : BitVec 6) ++ c.maxCount
  | _ => (0 : BitVec 10) ++ c.damMask

/-- The test codes of Table 11-5. -/
def Test.code : Test → Nat
  | .allSet => 0 | .anySet => 1 | .allClear => 2 | .anyClear => 3

/-- The test that a two-bit code names. -/
def Test.ofCode (n : Nat) : Test :=
  match n with
  | 0 => .allSet
  | 1 => .anySet
  | 2 => .allClear
  | _ => .anyClear

/-- An interlock condition with one of its two words taken from a written word. -/
def Condition.withWord (c : Condition) (i : Fin 2) (w : Word) : Condition :=
  match i.val with
  | 0 => { c with source := (w.extractLsb' 0 4).toFin, test := Test.ofCode (w.extractLsb' 8 2).toNat }
  | _ => { c with mask := w }

/-- A word of an interlock condition as the pass writes it. -/
def Condition.word (c : Condition) (i : Fin 2) : Word :=
  match i.val with
  | 0 => (0 : BitVec 6) ++ BitVec.ofNat 2 c.test.code ++ (0 : BitVec 4) ++ BitVec.ofNat 4 c.source.val
  | _ => c.mask

/-- The event kind codes of Table 11-6. -/
def EventKind.code : EventKind → Nat
  | .levelHigh => 0 | .levelLow => 1 | .levelUnknown => 2 | .sensorSplit => 3 | .boundExceeded => 4
  | .feedbackLag => 5 | .interlockLost => 6 | .orderRefused => 7 | .storeFault => 8 | .refreshOverrun => 9
  | .portalRefused => 10 | .reset => 11

/-- The event kind that a code names (Table 11-6). -/
def EventKind.ofCode (n : Nat) : Option EventKind :=
  match n with
  | 0 => some .levelHigh
  | 1 => some .levelLow
  | 2 => some .levelUnknown
  | 3 => some .sensorSplit
  | 4 => some .boundExceeded
  | 5 => some .feedbackLag
  | 6 => some .interlockLost
  | 7 => some .orderRefused
  | 8 => some .storeFault
  | 9 => some .refreshOverrun
  | 10 => some .portalRefused
  | 11 => some .reset
  | _ => none

/-- The action codes of Table 11-5. -/
def Action.code : Action → Nat
  | .none => 0 | .holdDam => 1 | .holdSourceDam => 2 | .enterHold => 3 | .alarm => 4

/-- The action that a code names. -/
def Action.ofCode (n : Nat) : Option Action :=
  match n with
  | 0 => some .none
  | 1 => some .holdDam
  | 2 => some .holdSourceDam
  | 3 => some .enterHold
  | 4 => some .alarm
  | _ => Option.none

/-- A word of a link entry as the pass writes it. -/
def Link.word (l : Link) (i : Fin 2) : Word :=
  match i.val with
  | 0 => (0 : BitVec 4) ++ BitVec.ofNat 4 l.kind.code ++ (0 : BitVec 2) ++ l.index
  | _ => (0 : BitVec 5) ++ BitVec.ofNat 3 l.action.code ++ (0 : BitVec 5) ++ l.target

/-- A link entry with one of its two words taken from a written word; none where the kind or action code names
nothing. -/
def Link.withWord (l : Link) (i : Fin 2) (w : Word) : Option Link :=
  match i.val with
  | 0 => (EventKind.ofCode (w.extractLsb' 8 4).toNat).map fun k => { l with kind := k, index := w.extractLsb' 0 6 }
  | _ => (Action.ofCode (w.extractLsb' 8 3).toNat).map fun a => { l with action := a, target := w.extractLsb' 0 3 }

/-! ### Portal words (Table 11-7) -/

/-- Count n of a header. -/
def headerCount (h : Word) : Nat := (h.extractLsb' 12 4).toNat
/-- Requested level of a header. -/
def headerLevel (h : Word) : BitVec 2 := h.extractLsb' 8 2
/-- Sequence of a header. -/
def headerSequence (h : Word) : BitVec 8 := h.extractLsb' 0 8
/-- Gate field of an item. -/
def itemGate (w : Word) : Nat := (w.extractLsb' 10 6).toNat
/-- Opening field of an item. -/
def itemOpening (w : Word) : Nat := (w.extractLsb' 0 10).toNat

/-- The status codes of Table 11-7. -/
def PortalStatus.code : PortalStatus → Nat
  | .none => 0 | .done => 1 | .refused => 2

/-- Result word 126. -/
def resultWord0 (j : PortalJob) : Word := (0 : BitVec 6) ++ BitVec.ofNat 2 j.status.code ++ j.sequence

/-- The number of an optional refusal code; 0 means none (7.6). -/
def codeNumber (c : Option Code) : Nat :=
  match c with
  | none => 0
  | some c => c.number

/-- Result word 127. -/
def resultWord1 (j : PortalJob) : Word :=
  (0 : BitVec 3) ++ BitVec.ofNat 5 (codeNumber j.code) ++ (0 : BitVec 4) ++ BitVec.ofNat 4 j.index

/-- One bit of the CRC of R95, step 3: shift toward bit 15, then invert bits 12, 5 and 0 if the bit taken and the
former bit 15 differ. -/
def crcBit (r : Word) (b : Bool) : Word :=
  if r.getLsbD 15 != b then (r <<< 1) ^^^ 0x1021#16 else r <<< 1

/-- The sixteen bits of a word, high byte first, each byte from its most significant bit (R95, step 2). -/
def crcWord (r : Word) (w : Word) : Word :=
  [15, 14, 13, 12, 11, 10, 9, 8, 7, 6, 5, 4, 3, 2, 1, 0].foldl (fun r i => crcBit r (w.getLsbD i)) r

/-- The CRC of a list of words (R95). -/
def crc (ws : List Word) : Word := ws.foldl crcWord 0xFFFF#16

/-! ### STAMP and mirrors (R11, R156, R157, Table 11-8) -/

/-- The STAMP word: sequence, hold flag, state code. -/
def stampWord (sequence : BitVec 8) (g : Gate) : Word :=
  sequence ++ BitVec.ofBool (g.causes.mode || g.causes.dam || g.causes.interlock) ++ (0 : BitVec 4) ++
    BitVec.ofNat 3 g.state.code

/-- The fault cause codes of Table 11-8. -/
def faultCode : Option FaultCause → Nat
  | none => 0
  | some .lag => 1
  | some .store => 2

/-- Word k of a gate's status mirror, openings in the format of the gate's slot page (R156). -/
def gateMirrorValue (decimal : Bool) (g : Gate) (k : Fin 4) : Word :=
  match k.val with
  | 0 =>
    (0 : BitVec 6) ++ BitVec.ofNat 2 (faultCode g.faultCause) ++ (0 : BitVec 1) ++ BitVec.ofBool g.causes.interlock ++
      BitVec.ofBool g.causes.dam ++ BitVec.ofBool g.causes.mode ++ (0 : BitVec 1) ++ BitVec.ofNat 3 g.state.code
  | 1 => encodeValue decimal g.target
  | 2 => encodeValue decimal g.command
  | _ => BitVec.ofNat 16 (codeNumber g.lastRefusal)

/-- The freshness codes of Table 11-8. -/
def Freshness.code : Freshness → Nat
  | .never => 0 | .fresh => 1 | .stale => 2

/-- The level state codes of Table 11-8. -/
def LevelState.code : LevelState → Nat
  | .unknown => 0 | .low => 1 | .normal => 2 | .high => 3

/-- The warning state codes of Table 11-8. -/
def Warning.code : Warning → Nat
  | .silent => 0 | .sounding => 1 | .sounded => 2

/-- A gate is in service in every state but OUT_OF_SERVICE (R5, R26). -/
def Gate.inService (g : Gate) : Bool := g.state != .outOfService

/-- The internal copy of a gate's service control word: ON exactly while the gate is in service (R2, R3). -/
def Gate.serviceOn (g : Gate) : Bool := g.inService

/-- The number of in-service gates configured to dam d (R157, word 7). -/
def gatesInService (c : Tables) (p : Dyn) (d : DamId) : Nat :=
  ((List.finRange 48).filter fun g => (p.gates.get g).inService && (c.gates.get g).inDam d).length

/-- Word k of reach r's status mirror (R157); the level in the format of page 16. -/
def reachMirrorValue (c : Tables) (p : Dyn) (r : ReachId) (k : Fin 8) : Word :=
  let x := p.reaches.get r
  let d := p.dams.get r
  match k.val with
  | 0 => p.totals.get r
  | 1 => x.ceff
  | 2 => x.deff
  | 3 => encodeValue (c.decimal 16) x.level
  | 4 =>
    (0 : BitVec 4) ++ BitVec.ofNat 2 x.b.freshness.code ++ BitVec.ofNat 2 x.a.freshness.code ++ (0 : BitVec 2) ++
      BitVec.ofBool x.exceeded ++ BitVec.ofBool x.split ++ (0 : BitVec 2) ++ BitVec.ofNat 2 x.levelState.code
  | 5 => (0 : BitVec 11) ++ BitVec.ofBool d.hold ++ (0 : BitVec 2) ++ BitVec.ofNat 2 d.warning.code
  | 6 => (0 : BitVec 8) ++ d.sequence
  | _ => BitVec.ofNat 16 (gatesInService c p r)

/-! ### Log records (Table 11-9) -/

/-- The record kind codes. -/
def RecordKind.code : RecordKind → Nat
  | .refusal => 0 | .event => 1 | .reset => 2

/-- The context word. -/
def contextWord : Context → Word
  | .gate st => BitVec.ofNat 16 st.code
  | .mode m => 0x8000#16 ||| BitVec.ofNat 16 m.code

/-- Word k of a log record. -/
def LogRecord.word (r : LogRecord) (k : Fin 8) : Word :=
  match k.val with
  | 0 => BitVec.ofNat 2 r.kind.code ++ (0 : BitVec 9) ++ r.code
  | 1 => (0 : BitVec 5) ++ BitVec.ofNat 3 r.master.val ++ BitVec.ofNat 8 r.page.val
  | 2 => r.qualifier ++ r.subject
  | 3 => r.value
  | 4 => r.tick.extractLsb' 0 16
  | 5 => r.tick.extractLsb' 16 16
  | 6 => r.detail
  | _ => contextWord r.context

/-- The subject byte of a record; FFh is none. -/
def Subject.byte : Subject → BitVec 8
  | .reach r => BitVec.ofNat 8 r.val
  | .gate g => BitVec.ofNat 8 g.val
  | .portal p => BitVec.ofNat 8 p.val
  | .none => 255

end Sys2Proof.Machine
end

