-- ==== Sys2Proof/Machine/Flags.lean ====
section
/-! DEFINITION. The pure evaluations: release arithmetic, effective limits, bounds and the moved-toward rule, level
states, split flag, interlock tests, tick differences and step eligibility. Nothing here changes the state. -/

namespace Sys2Proof.Machine

/-! ### Release and bounds (Section 2) -/

/-- rel(g, o) = floor(o × k / 256) (R26). -/
def release (k : BitVec 8) (opening : Nat) : Nat := opening * k.toNat / 256

/-- A total with one gate's release replaced, as a sixteen-bit value (R26). -/
def adjustTotal (t : Word) (old new : Nat) : Word := t + BitVec.ofNat 16 new - BitVec.ofNat 16 old

/-- The smaller of two words as unsigned values. -/
def minWord (a b : Word) : Word := if b.toNat < a.toNat then b else a

/-- The effective ceiling (R31). -/
def effectiveCeiling (c : ReachConfig) : LevelState → Word
  | .high => minWord c.ceiling c.cutCeiling
  | .unknown => minWord c.ceiling c.cutCeiling
  | .normal => c.ceiling
  | .low => c.ceiling

/-- The effective draw (R31). -/
def effectiveDraw (c : ReachConfig) : LevelState → Word
  | .high => c.draw
  | .unknown => c.draw
  | .normal => c.draw
  | .low => minWord c.draw c.lowDraw

/-- The four bounds of a reach (Table 2-3), in the order of R34 and R37. -/
inductive Bound where
  | ceiling | floor | surplus | draw
deriving DecidableEq, Repr

/-- The bounds in reporting order (R34, R37). -/
def allBounds : List Bound := [.ceiling, .floor, .surplus, .draw]

/-- Qualifier code of a bound (Table 11-9). -/
def Bound.number : Bound → Nat
  | .ceiling => 0 | .floor => 1 | .surplus => 2 | .draw => 3

/-- Refusal code of a bound (R34). -/
def Bound.code : Bound → Code
  | .ceiling => .ceiling
  | .floor => .floor
  | .surplus => .surplus
  | .draw => .draw

/-- The dam below: d + 1, where it exists; dam 5 has none and answers itself (no bound in force uses that). -/
def damBelow (d : DamId) : DamId := if h : d.val + 1 < 6 then ⟨d.val + 1, h⟩ else d

/-- A total as an integer. -/
def totalOf (t : Vector Word 6) (d : DamId) : Int := ((t.get d).toNat : Int)

/-- The bound expression of Table 2-3, signed (R30). -/
def Bound.expression (b : Bound) (t : Vector Word 6) (d : ReachId) : Int :=
  match b with
  | .ceiling => totalOf t d
  | .floor => totalOf t d
  | .surplus => totalOf t d - totalOf t (damBelow d)
  | .draw => totalOf t (damBelow d) - totalOf t d

/-- The limit in force of a bound (Table 2-3). -/
def Bound.limit (b : Bound) (c : ReachConfig) (r : Reach) : Word :=
  match b with
  | .ceiling => r.ceff
  | .floor => c.floor
  | .surplus => c.surplus
  | .draw => r.deff

/-- Which bounds of reach d are in force with last dam L (R30). -/
def Bound.inForce (b : Bound) (lastDam : DamId) (d : ReachId) : Bool :=
  match b with
  | .ceiling => decide (d.val ≤ lastDam.val)
  | .floor => decide (d.val ≤ lastDam.val)
  | .surplus => decide (d.val < lastDam.val)
  | .draw => decide (d.val < lastDam.val)

/-- An upper bound holds at or below its limit, the floor at or above it (R30). -/
def Bound.holds (b : Bound) (expression : Int) (limit : Word) : Bool :=
  match b with
  | .floor => decide ((limit.toNat : Int) ≤ expression)
  | .ceiling => decide (expression ≤ (limit.toNat : Int))
  | .surplus => decide (expression ≤ (limit.toNat : Int))
  | .draw => decide (expression ≤ (limit.toNat : Int))

/-- An admission moves a bound toward its limit (R33). -/
def Bound.movedToward (b : Bound) (initial final : Int) : Bool :=
  match b with
  | .floor => decide (final < initial)
  | .ceiling => decide (initial < final)
  | .surplus => decide (initial < final)
  | .draw => decide (initial < final)

/-- The first bound of reach d in force that does not hold (R37). -/
def firstViolated (c : Tables) (totals : Vector Word 6) (reaches : Vector Reach 6) (d : ReachId) : Option Bound :=
  allBounds.find? fun b =>
    b.inForce c.lastDam d &&
      !b.holds (b.expression totals d) (b.limit (c.reaches.get d) (reaches.get d))

/-- The bound of reach d refuses the admission (R33): in force, moved toward its limit, and not holding after. -/
def boundFails (c : Tables) (reaches : Vector Reach 6) (initial final : Vector Word 6) (b : Bound) (d : ReachId) :
    Bool :=
  b.inForce c.lastDam d && b.movedToward (b.expression initial d) (b.expression final d) &&
    !b.holds (b.expression final d) (b.limit (c.reaches.get d) (reaches.get d))

/-- Every bound with every reach in the order of R34: ceilings, floors, surpluses, draws, each by reach. -/
def boundOrder : List (Bound × ReachId) := allBounds.flatMap fun b => (List.finRange 6).map fun d => (b, d)

/-- The check of R33: none on a pass, else the code and reach of R34. -/
def admissionCheck (c : Tables) (reaches : Vector Reach 6) (initial final : Vector Word 6) :
    Option (Code × ReachId) :=
  match boundOrder.find? fun x => boundFails c reaches initial final x.1 x.2 with
  | some (b, d) => some (b.code, d)
  | none => none

/-- The reaches, ascending, whose expressions differ between two sets of totals (R35). -/
def reachesTouched (c : Tables) (initial final : Vector Word 6) : List ReachId :=
  (List.finRange 6).filter fun d =>
    decide (d.val ≤ c.lastDam.val) &&
      (initial.get d != final.get d ||
        (decide (d.val < c.lastDam.val) && initial.get (damBelow d) != final.get (damBelow d)))

/-- The reaches with a bound expression in T_d, ascending: d - 1, where it exists, and d (R27). -/
def reachesOfDam (d : DamId) : List ReachId :=
  if h : 0 < d.val then [⟨d.val - 1, by omega⟩, d] else [d]

/-! ### Levels (2.6, 2.7) -/

/-- The level derived from the fresh samples (R42). -/
def derivedLevel (a b : Sample) : Option Nat :=
  match a.freshness, b.freshness with
  | .fresh, .fresh => some (max a.value b.value)
  | .fresh, _ => some a.value
  | _, .fresh => some b.value
  | _, _ => none

/-- The level state evaluated as from NORMAL (R44). -/
def levelFromNormal (c : ReachConfig) (v : Nat) : LevelState :=
  if c.highMark.toNat ≤ v then .high else if v < c.lowMark.toNat then .low else .normal

/-- The level state of a known level v, from the state being left (R44); marks and hysteresis in signed arithmetic. -/
def nextLevelState (c : ReachConfig) (current : LevelState) (v : Nat) : LevelState :=
  match current with
  | .unknown => levelFromNormal c v
  | .normal => levelFromNormal c v
  | .high =>
    if (c.highMark.toNat : Int) - c.hysteresis.toNat ≤ v then .high else levelFromNormal c v
  | .low => if v < c.lowMark.toNat + c.hysteresis.toNat then .low else levelFromNormal c v

/-- The split flag (R43). -/
def splitFlag (c : ReachConfig) (a b : Sample) : Bool :=
  a.freshness == .fresh && b.freshness == .fresh &&
    decide (c.splitTolerance.toNat < max a.value b.value - min a.value b.value)

/-! ### Interlocks (3.5) -/

/-- A condition's test on a status word (R66). -/
def Condition.holds (c : Condition) (status : Word) : Bool :=
  match c.test with
  | .allSet => status &&& c.mask == c.mask
  | .anySet => status &&& c.mask != 0
  | .allClear => status &&& c.mask == 0
  | .anyClear => status &&& c.mask != c.mask

/-- The direction from a command toward a target (R57, R69, R72). -/
def directionTo (command target : Nat) : Direction := if command < target then .opening else .closing

/-- The interlock reference for a direction (R57, R84). -/
def GateConfig.reference (c : GateConfig) : Direction → BitVec 6
  | .opening => c.openRef
  | .closing => c.closeRef

/-- The condition that gate g names for a direction and that is false now; none where the interlock passes (R57, R66,
R84, R98). -/
def falseCondition (c : Tables) (status : Vector Word 16) (g : GateId) (dir : Direction) : Option CondId :=
  match refCondition ((c.gates.get g).reference dir) with
  | none => none
  | some k => if (c.conditions.get k).holds (status.get (c.conditions.get k).source) then none else some k

/-! ### Ticks (R73, R80) and eligibility (R81) -/

/-- At least n ticks have passed since a recorded tick, modulo 2^32; an absent record satisfies every n. -/
def passedAtLeast (now : BitVec 32) (since : Option (BitVec 32)) (n : Nat) : Bool :=
  match since with
  | none => true
  | some t => decide (n ≤ (now - t).toNat)

/-- A recorded tick 65,535 ticks old (R73, R80). -/
def aged (now : BitVec 32) (since : Option (BitVec 32)) : Bool :=
  match since with
  | none => false
  | some t => decide (65535 ≤ (now - t).toNat)

/-- OPEN counts as 0 and CLOSE as 1 (4.3). -/
def directionNumber : Direction → Fin 2
  | .opening => 0
  | .closing => 1

/-- The matrix word for a relation (0 same dam, 1 adjacent), an earlier and a later direction (Table 4-1). -/
def matrixIndex (relation : Fin 2) (earlier later : Direction) : Fin 8 :=
  ⟨4 * relation.val + 2 * (directionNumber earlier).val + (directionNumber later).val, by omega⟩

/-- A dam's last step tick in a direction (R80). -/
def Dam.lastStep (d : Dam) : Direction → Option (BitVec 32)
  | .opening => d.lastOpen
  | .closing => d.lastClose

/-- The stagger intervals that dam n's history imposes on a step in direction dir with the given relation (R81). -/
def staggerMet (c : Tables) (now : BitVec 32) (n : Dam) (relation : Fin 2) (dir : Direction) : Bool :=
  [Direction.opening, .closing].all fun earlier =>
    passedAtLeast now (n.lastStep earlier) (c.matrix.get (matrixIndex relation earlier dir)).toNat

/-- Gate g, stepping in direction dir, is eligible (R81): against its own dam and the dams one above and one below
within 0 to 5. -/
def eligibleFor (c : Tables) (p : Dyn) (g : GateId) (dir : Direction) : Bool :=
  let d := (c.gates.get g).dam.toNat
  (List.finRange 6).all fun n =>
    if n.val = d then staggerMet c p.tick (p.dams.get n) 0 dir
    else if n.val + 1 = d ∨ n.val = d + 1 then staggerMet c p.tick (p.dams.get n) 1 dir
    else true

/-- Gate g is eligible in the direction from its command to its target (R72, R81). -/
def eligible (c : Tables) (p : Dyn) (g : GateId) : Bool :=
  eligibleFor c p g (directionTo (p.gates.get g).command (p.gates.get g).target)

/-- Gate g's step interval has elapsed (R73). -/
def stepIntervalElapsed (c : Tables) (p : Dyn) (g : GateId) : Bool :=
  passedAtLeast p.tick (p.gates.get g).lastGrant (c.gates.get g).stepInterval.toNat

/-- The four conditions of R75, for a gate not yet in the queue. -/
def joinable (c : Tables) (p : Dyn) (g : GateId) : Bool :=
  (p.gates.get g).state == .moving && p.mode == .run && stepIntervalElapsed c p g && !(p.gates.get g).awaiting &&
    !p.queue.contains g

/-- A timer has reached its expiry arrival (R8). -/
def Timer.due (t : Timer) : Bool := t == .running 0

/-- A timer after one TICK arrival. -/
def Timer.count : Timer → Timer
  | .stopped => .stopped
  | .running n => .running (n - 1)

/-- The hold-cause set is empty. -/
def Causes.isEmpty (c : Causes) : Bool := !(c.mode || c.dam || c.interlock)

/-- The state of a gate that leaves for a move (R7, last point). -/
def Gate.moveState (g : Gate) : GateState := if g.causes.isEmpty then .moving else .held

/-- A gate with its hold-cause set replaced; a move outstanding follows the set (R7). -/
def Gate.withCauses (g : Gate) (cs : Causes) : Gate :=
  { g with
    causes := cs
    state :=
      match g.state with
      | .moving => if cs.isEmpty then .moving else .held
      | .held => if cs.isEmpty then .moving else .held
      | st => st }

end Sys2Proof.Machine
end

