-- ==== Sys2Proof/Machine/Ops.lean ====
section
/-! DEFINITION. The shared operations over the dynamic state: dirty marks, log records, the one way a gate record is
changed, hold causes, the entry into HOLD, raising an event and offering it to the links, the release totals and the
EXCEEDED flags. Each is `Tables → … → Dyn → Dyn`, so that none of them can touch a configuration copy. -/

namespace Sys2Proof.Machine

/-! ### Dirty marks (R138) -/

/-- A mark set now, unless it is set already: it keeps its first moment. -/
def setMark (moment : Nat) (m : Option Nat) : Option Nat :=
  match m with
  | none => some moment
  | some t => some t

/-- Marks the slot of gate g. -/
def markSlot (g : GateId) (p : Dyn) : Dyn :=
  { p with slotMarks := Table.put p.slotMarks g (setMark p.moment (p.slotMarks.get g)) }

/-- Marks the mirror of gate g. -/
def markGateMirror (g : GateId) (p : Dyn) : Dyn :=
  { p with gateMirrorMarks := Table.put p.gateMirrorMarks g (setMark p.moment (p.gateMirrorMarks.get g)) }

/-- Marks the reach and dam mirror of reach r. -/
def markReach (r : ReachId) (p : Dyn) : Dyn :=
  { p with reachMirrorMarks := Table.put p.reachMirrorMarks r (setMark p.moment (p.reachMirrorMarks.get r)) }

/-- Marks the status summary word. -/
def markSummary (p : Dyn) : Dyn := { p with summaryMark := setMark p.moment p.summaryMark }

/-! ### Replacing records -/

/-- Dam d's dynamic record replaced. -/
def putDam (d : DamId) (x : Dam) (p : Dyn) : Dyn := { p with dams := Table.put p.dams d x }

/-- Reach r's dynamic record replaced. -/
def putReach (r : ReachId) (x : Reach) (p : Dyn) : Dyn := { p with reaches := Table.put p.reaches r x }

/-- Gate g taken out of the pending step queue, wherever it stands (R74, R77). -/
def dequeue (g : GateId) (p : Dyn) : Dyn := { p with queue := p.queue.filter (· != g) }

/-- A change of a gate that its slot words show: state, hold-cause set or command (R10, R87). -/
def Gate.slotDiffers (old new : Gate) : Bool :=
  old.state != new.state || old.causes != new.causes || old.command != new.command

/-- A change of a gate that its mirror shows: target, command, state, hold-cause set or last refusal code (R10). -/
def Gate.mirrorDiffers (old new : Gate) : Bool :=
  old.slotDiffers new || old.target != new.target || old.lastRefusal != new.lastRefusal

/-- The one way a gate record is changed: the record is replaced, the marks of R10 are made, and a gate that is not
MOVING leaves the pending step queue (R7, R77). -/
def putGate (g : GateId) (x : Gate) (p : Dyn) : Dyn :=
  let old := p.gates.get g
  let p := { p with gates := Table.put p.gates g x }
  let p := if old.slotDiffers x then markSlot g p else p
  let p := if old.mirrorDiffers x then markGateMirror g p else p
  if x.state == .moving then p else dequeue g p

/-! ### The log (10.2) -/

/-- LOG_LOST is set; a change of it marks the status summary (R155). -/
def setLogLost (p : Dyn) : Dyn := if p.logLost then p else markSummary { p with logLost := true }

/-- A formed record joins the buffer, or is dropped and LOG_LOST set if the buffer holds eight (R153). -/
def formRecord (r : LogRecord) (p : Dyn) : Dyn :=
  if p.logBuffer.length < 8 then { p with logBuffer := p.logBuffer ++ [r] } else setLogLost p

/-! ### Hold causes (1.4, 1.8) -/

/-- Gate g's hold-cause set replaced under R7 and R10. -/
def setCauses (g : GateId) (cs : Causes) (p : Dyn) : Dyn := putGate g ((p.gates.get g).withCauses cs) p

/-- Every in-service gate that `sel` names has its hold-cause set replaced by `f` of it, in ascending order (R12). -/
def changeCauses (sel : GateId → Bool) (f : Causes → Causes) (p : Dyn) : Dyn :=
  (List.finRange 48).foldl
    (fun p g => if (p.gates.get g).inService && sel g then setCauses g (f (p.gates.get g).causes) p else p) p

/-- Dam d's hold flag is set (R24); a set that finds it set changes nothing. -/
def setHold (c : Tables) (d : DamId) (p : Dyn) : Dyn :=
  let x := p.dams.get d
  if x.hold then p
  else
    markReach d
      (changeCauses (fun g => (c.gates.get g).inDam d) (fun cs => { cs with dam := true })
        (putDam d { x with hold := true } p))

/-- Dam d's hold flag is cleared (R24); a clear that finds it clear changes nothing. -/
def clearHold (c : Tables) (d : DamId) (p : Dyn) : Dyn :=
  let x := p.dams.get d
  if x.hold then
    markReach d
      (changeCauses (fun g => (c.gates.get g).inDam d) (fun cs => { cs with dam := false })
        (putDam d { x with hold := false } p))
  else p

/-! ### Entry into HOLD (R109, R111) -/

/-- A refresh job in progress counts toward nothing from now on (R111, R115). -/
def uncredit (p : Dyn) : Dyn :=
  match p.running with
  | some ⟨.refresh d o _ g rest, a⟩ => { p with running := some ⟨.refresh d o false g rest, a⟩ }
  | _ => p

/-- Entry into HOLD from RUN (R109) or EXITING (R111); in CONFIG and HOLD nothing changes (R148). -/
def enterHold (p : Dyn) : Dyn :=
  match p.mode with
  | .run =>
    changeCauses (fun _ => true) (fun cs => { cs with mode := true })
      (markSummary { uncredit p with mode := .hold, offer := none })
  | .exiting => markSummary { uncredit p with mode := .hold, offer := none, progress := 0 }
  | .hold => p
  | .config => p

/-! ### Events and links (Section 9) -/

/-- An event: its kind and subject, and what its log record carries (Table 10-1). -/
structure Event where
  kind : EventKind
  subject : Subject
  master : MasterId
  page : PageId
  qualifier : Nat
  value : Word
  detail : Word
  context : Context
deriving DecidableEq, Repr

/-- The log record of an event (Table 10-1), stamped with the tick count (R152). -/
def Event.record (e : Event) (tick : BitVec 32) : LogRecord where
  kind := .event
  code := BitVec.ofNat 5 e.kind.code
  master := e.master
  page := e.page
  qualifier := BitVec.ofNat 8 e.qualifier
  subject := e.subject.byte
  value := e.value
  tick := tick
  detail := e.detail
  context := e.context

/-- The index of a subject, which a link's source index is compared with. -/
def Subject.index : Subject → Option Nat
  | .reach r => some r.val
  | .gate g => some g.val
  | .portal p => some p.val
  | .none => Option.none

/-- A link entry matches an event (R146). -/
def Link.matchesEvent (l : Link) (kind : EventKind) (s : Subject) : Bool :=
  l.kind == kind && (l.index == 63 || s.index == some l.index.toNat)

/-- The dam an event came from (R147): none for a portal, no subject, or a gate whose dam field names no dam (log
entry 20). -/
def sourceDam (c : Tables) : Subject → Option DamId
  | .reach r => some r
  | .gate g => (c.gates.get g).dam?
  | .portal _ => Option.none
  | .none => Option.none

/-- A matching entry takes its action (R147 to R149). The targets that R145 does not let in act on nothing. -/
def linkAct (c : Tables) (l : Link) (s : Subject) (p : Dyn) : Dyn :=
  match l.action with
  | .none => p
  | .holdDam => if h : l.target.toNat < 6 then setHold c ⟨l.target.toNat, h⟩ p else p
  | .holdSourceDam =>
    match sourceDam c s with
    | some d => setHold c d p
    | Option.none => p
  | .enterHold => enterHold p
  | .alarm =>
    if h : l.target.toNat < 4 then { p with alarms := Table.put p.alarms ⟨l.target.toNat, h⟩ true } else p

/-- An event is offered to the sixteen link entries, and every matching entry acts (R144, R146). -/
def offerLinks (c : Tables) (kind : EventKind) (s : Subject) (p : Dyn) : Dyn :=
  (List.finRange 16).foldl
    (fun p l => if (c.links.get l).matchesEvent kind s then linkAct c (c.links.get l) s p else p) p

/-- An event other than RESET is raised: one log record, then the links (R144). A later event of the same change forms its
record after these actions, so its context shows the mode that they left. DESIGN CHOICE, unsafe (log entry 36). -/
def raise (c : Tables) (e : Event) (p : Dyn) : Dyn :=
  offerLinks c e.kind e.subject (formRecord (e.record p.tick) p)

/-! ### Totals and EXCEEDED flags (2.1, 2.5) -/

/-- The Value word of a bound's expression: two's complement (Table 11-9), and a free value where the expression lies
outside sixteen-bit two's complement, of which the manual states none. DESIGN CHOICE, safe (log entry 35). -/
def expressionWord (moment : Nat) (d : ReachId) (b : Bound) (e : Int) : Word :=
  if -32768 ≤ e ∧ e ≤ 32767 then BitVec.ofInt 16 e else Config.wideExpression moment d b.number

/-- The event BOUND_EXCEEDED(d) (R37, Table 10-1). -/
def boundEvent (c : Tables) (d : ReachId) (b : Bound) (p : Dyn) : Event where
  kind := .boundExceeded
  subject := .reach d
  master := 0
  page := 6
  qualifier := b.number
  value := expressionWord p.moment d b (b.expression p.totals d)
  detail := b.limit (c.reaches.get d) (p.reaches.get d)
  context := .mode p.mode

/-- The EXCEEDED flag of reach d is re-evaluated (R37). -/
def reevaluate (c : Tables) (d : ReachId) (p : Dyn) : Dyn :=
  let r := p.reaches.get d
  match firstViolated c p.totals p.reaches d, r.exceeded with
  | some b, false =>
    let p1 := markReach d (putReach d { r with exceeded := true } p)
    raise c (boundEvent c d b p1) p1
  | none, true => markReach d (putReach d { r with exceeded := false } p)
  | some _, true => p
  | none, false => p

/-- The flags of several reaches are re-evaluated in the order given, which is ascending (R37). The record of a second
BOUND_EXCEEDED is formed after the first one's link actions (DESIGN CHOICE, unsafe, log entry 36). -/
def reevaluateAll (c : Tables) (ds : List ReachId) (p : Dyn) : Dyn := ds.foldl (fun p d => reevaluate c d p) p

/-- A change of dam d's total that is not an admission (R27). -/
def changeTotal (c : Tables) (d : DamId) (old new : Nat) (p : Dyn) : Dyn :=
  markReach d
    (reevaluateAll c (reachesOfDam d)
      { p with totals := Table.put p.totals d (adjustTotal (p.totals.get d) old new) })

/-- The same for the dam of gate g. -/
def changeGateTotal (c : Tables) (g : GateId) (old new : Nat) (p : Dyn) : Dyn :=
  match (c.gates.get g).dam? with
  | some d => changeTotal c d old new p
  | none => p

/-- The release of gate g at an opening (R26). -/
def releaseOf (c : Tables) (g : GateId) (opening : Nat) : Nat := release (c.gates.get g).coefficient opening

/-- An admission's check and commit as one operation (R35): the changes are (dam, release at the old target, release at
the new). On a failure the code and reach of R34, and nothing has changed. -/
def admission (c : Tables) (changes : List (DamId × Nat × Nat)) (p : Dyn) : Except (Code × ReachId) Dyn :=
  let final := changes.foldl (fun t x => Table.put t x.1 (adjustTotal (t.get x.1) x.2.1 x.2.2)) p.totals
  match admissionCheck c p.reaches p.totals final with
  | some e => .error e
  | none =>
    let p1 := reevaluateAll c (reachesTouched c p.totals final) { p with totals := final }
    .ok ((List.finRange 6).foldl (fun q d => if p.totals.get d != final.get d then markReach d q else q) p1)

/-- A store fault event (Table 10-1): a failed access, with its gate or none. -/
def storeFaultEvent (a : Access) (g : Option GateId) (p : Dyn) : Event where
  kind := .storeFault
  subject := match g with | some g => .gate g | none => .none
  master := 0
  page := a.page
  qualifier := 0
  value := a.data
  detail := BitVec.ofNat 16 a.word.val
  context := match g with | some g => .gate (p.gates.get g).state | none => .mode p.mode

end Sys2Proof.Machine
end

