-- ==== Sys2Proof/Machine/Warnings.lean ====
section
/-! DEFINITION. Dam warnings, the silencing check, the two dwells and the settling of a gate (1.3, 1.7). -/

namespace Sys2Proof.Machine

/-- Dam d's warning state and dwell timer; a change of the warning state marks the dam's mirror (R157). -/
def setWarning (d : DamId) (w : Warning) (t : Timer) (p : Dyn) : Dyn :=
  let x := p.dams.get d
  let p1 := putDam d { x with warning := w, dwellTimer := t } p
  if x.warning == w then p1 else markReach d p1

/-- Every flood gate configured to dam d is CLOSED or OUT_OF_SERVICE (R23). -/
def allShut (c : Tables) (d : DamId) (p : Dyn) : Bool :=
  (List.finRange 48).all fun g =>
    !((c.gates.get g).kind == .flood && (c.gates.get g).inDam d) ||
      (p.gates.get g).state == .closed || (p.gates.get g).state == .outOfService

/-- The silencing check of dam d (R23). -/
def silenceCheck (c : Tables) (d : DamId) (p : Dyn) : Dyn :=
  if allShut c d p then setWarning d .silent .stopped p else p

/-- The silencing check for the dam of gate g, if g is a flood gate. -/
def silenceCheckOf (c : Tables) (g : GateId) (p : Dyn) : Dyn :=
  match (c.gates.get g).kind, (c.gates.get g).dam? with
  | .flood, some d => silenceCheck c d p
  | .flood, none => p
  | .wicket, _ => p

/-- Every gate of dam d in WARNING enters MOVING or HELD, in ascending order (R21). -/
def releaseWarning (c : Tables) (d : DamId) (p : Dyn) : Dyn :=
  (List.finRange 48).foldl
    (fun p g =>
      let x := p.gates.get g
      if (c.gates.get g).inDam d && x.state == .warning then putGate g { x with state := x.moveState } p else p) p

/-- The warning dwell of dam d ends (R21): SOUNDED, and its WARNING gates are released. -/
def dwellEnds (c : Tables) (d : DamId) (p : Dyn) : Dyn := releaseWarning c d (setWarning d .sounded .stopped p)

/-- A flood gate enters service open at dam d (R22). -/
def soundAtEntry (c : Tables) (d : DamId) (p : Dyn) : Dyn :=
  match (p.dams.get d).warning with
  | .silent => setWarning d .sounded .stopped p
  | .sounding => dwellEnds c d p
  | .sounded => p

/-- A CLOSED flood gate g of dam d is ordered open (R20): straight to its move if the dam is SOUNDED, else WARNING,
the first such gate starting the dwell. A dwell of 0 ends at once (R8). -/
def soundForOrder (c : Tables) (g : GateId) (d : DamId) (p : Dyn) : Dyn :=
  let x := p.gates.get g
  match (p.dams.get d).warning with
  | .sounded => putGate g { x with state := x.moveState } p
  | .sounding => putGate g { x with state := .warning } p
  | .silent =>
    let dwell := (c.dams.get d).warningDwell.toNat
    let p1 := setWarning d .sounding (.running dwell) (putGate g { x with state := .warning } p)
    if dwell = 0 then dwellEnds c d p1 else p1

/-- The recovery dwell of gate g ends (R9): CLOSED with the silencing check at target 0, else MOVING or HELD. -/
def recoveryEnds (c : Tables) (g : GateId) (p : Dyn) : Dyn :=
  let x := p.gates.get g
  if x.target = 0 then
    silenceCheckOf c g (putGate g { x with state := .closed, recoveryTimer := .stopped } p)
  else putGate g { x with state := x.moveState, recoveryTimer := .stopped } p

/-- The recovery dwell of the dam of gate g. -/
def recoveryDwellOf (c : Tables) (g : GateId) : Nat :=
  match (c.gates.get g).dam? with
  | some d => (c.dams.get d).recoveryDwell.toNat
  | none => 0

/-- Gate g, whose command equals its target, settles (R6): RECOVERING for a flood gate at 0, else SETTLED. INTERLOCK
leaves the set. A recovery dwell of 0 ends at once (R8). -/
def settle (c : Tables) (g : GateId) (p : Dyn) : Dyn :=
  let x := p.gates.get g
  let cs := { x.causes with interlock := false }
  if (c.gates.get g).kind == .flood && x.command == 0 then
    let dwell := recoveryDwellOf c g
    let p1 := putGate g { x with state := .recovering, causes := cs, recoveryTimer := .running dwell } p
    if dwell = 0 then recoveryEnds c g p1 else p1
  else putGate g { x with state := .settled, causes := cs } p

end Sys2Proof.Machine
end

