-- ==== Sys2Proof/Machine/Scheduler.lean ====
section
/-! DEFINITION. The stagger scheduler (Section 4): joining the pending step queue, the scan, the interlock check at
grant and the grant of a step. -/

namespace Sys2Proof.Machine

/-! ### The grant (R85 to R87) -/

/-- The command one step nearer the target: by the step size, never beyond the target (R85). -/
def steppedCommand (stepSize command target : Nat) : Nat :=
  if command < target then command + min stepSize (target - command)
  else command - min stepSize (command - target)

/-- Dam d's step history after a step in a direction at a tick (R80). -/
def Dam.withStep (d : Dam) (dir : Direction) (tick : BitVec 32) : Dam :=
  match dir with
  | .opening => { d with lastOpen := some tick }
  | .closing => { d with lastClose := some tick }

/-- The step is recorded in the history of the dam of gate g (R86). -/
def recordStep (c : Tables) (g : GateId) (dir : Direction) (p : Dyn) : Dyn :=
  match (c.gates.get g).dam? with
  | some d => putDam d ((p.dams.get d).withStep dir p.tick) p
  | none => p

/-- Tracking is on for a gate (R15). -/
def GateConfig.tracked (c : GateConfig) : Bool := decide (0 < c.tolerance.toNat)

/-- Gate g's record after a grant at a tick, before it settles (R85, R86). -/
def Gate.granted (x : Gate) (c : GateConfig) (tick : BitVec 32) : Gate :=
  { x with
    command := steppedCommand c.stepSize.toNat x.command x.target
    lastGrant := some tick
    awaiting := if c.tracked then true else x.awaiting
    lagTimer := if c.tracked then .running c.lagLimit.toNat else x.lagTimer }

/-- Gate g is granted a step (R85 to R87): it leaves the queue, its command moves, the step is recorded, and it settles
if the command has reached the target. -/
def grant (c : Tables) (g : GateId) (p : Dyn) : Dyn :=
  let x := p.gates.get g
  let y := x.granted (c.gates.get g) p.tick
  let p1 := recordStep c g (directionTo x.command x.target) (putGate g y (dequeue g p))
  if y.command = y.target then settle c g p1 else p1

/-! ### The interlock check at grant (R84) -/

/-- The slot page of gate g and its condition's status word make up INTERLOCK_LOST(g) (Table 10-1). -/
def interlockLostEvent (c : Tables) (g : GateId) (dir : Direction) (k : CondId) (p : Dyn) : Event where
  kind := .interlockLost
  subject := .gate g
  master := 0
  page := slotPage g
  qualifier := (directionNumber dir).val
  value := p.statusWords.get (c.conditions.get k).source
  detail := BitVec.ofNat 16 k.val
  context := .gate (p.gates.get g).state

/-- Gate g loses its interlock at a grant (R84): it leaves the queue, gains INTERLOCK and is HELD, and the event's record
is formed. The links take the event after the scan (R83, log entry 14). -/
def loseInterlock (c : Tables) (g : GateId) (dir : Direction) (k : CondId) (p : Dyn) : Dyn :=
  let x := p.gates.get g
  let p1 := setCauses g { x.causes with interlock := true } (dequeue g p)
  formRecord ((interlockLostEvent c g dir k p1).record p1.tick) p1

/-! ### The scan (R83) -/

/-- What one examination of the queue has done: the state, the gates that lost their interlock, oldest first, and whether
a step was granted. -/
structure Examined where
  dyn : Dyn
  lost : List GateId
  granted : Bool

/-- The entries still to be examined, in queue order (R83, steps 1 and 2): the first eligible entry that passes its
interlock check is granted a step. -/
def examine (c : Tables) : List GateId → Dyn → Examined
  | [], p => ⟨p, [], false⟩
  | g :: rest, p =>
    let x := p.gates.get g
    let dir := directionTo x.command x.target
    if eligibleFor c p g dir then
      match falseCondition c p.statusWords g dir with
      | none => ⟨grant c g p, [], true⟩
      | some k =>
        let e := examine c rest (loseInterlock c g dir k p)
        ⟨e.dyn, g :: e.lost, e.granted⟩
    else examine c rest p

/-- The examination started again from the head after each grant (R83, step 2). Each grant takes an entry out, so
`fuel` is the length of the queue. -/
def scanLoop (c : Tables) : Nat → Dyn → Dyn × List GateId
  | 0, p => (p, [])
  | fuel + 1, p =>
    let e := examine c p.queue p
    if e.granted then
      let r := scanLoop c fuel e.dyn
      (r.1, e.lost ++ r.2)
    else (e.dyn, e.lost)

/-- A scan of the pending step queue (R83), then the links' actions on the INTERLOCK_LOST events it raised. -/
def scan (c : Tables) (p : Dyn) : Dyn :=
  let r := scanLoop c (p.queue.length + 1) p
  r.2.foldl (fun p g => offerLinks c .interlockLost (.gate g) p) r.1

/-! ### Joining (R75, R76) -/

/-- Gate g joins at the tail if it meets the conditions of R75 and is not in the queue. -/
def joinQueue (c : Tables) (g : GateId) (p : Dyn) : Dyn :=
  if joinable c p g then { p with queue := p.queue ++ [g] } else p

/-- The gates that `sel` names join, in ascending gate number (R76). -/
def joinAll (c : Tables) (sel : GateId → Bool) (p : Dyn) : Dyn :=
  (List.finRange 48).foldl (fun p g => if sel g then joinQueue c g p else p) p

/-- The gates that `sel` names join, and a scan follows if one joined, or if `forced` (R82). -/
def joinAndScan (c : Tables) (sel : GateId → Bool) (forced : Bool) (p : Dyn) : Dyn :=
  let q := joinAll c sel p
  if forced || decide (p.queue.length < q.queue.length) then scan c q else q

/-- Gate g became MOVING between two states. -/
def becameMoving (before after : Dyn) (g : GateId) : Bool :=
  (after.gates.get g).state == .moving && (before.gates.get g).state != .moving

/-- The end of an event that began at `before`: the gates that became MOVING in it join, and a scan follows (R75, R76,
R82). -/
def schedule (c : Tables) (before : Dyn) (forced : Bool) (p : Dyn) : Dyn :=
  joinAndScan c (becameMoving before p) forced p

end Sys2Proof.Machine
end

