-- ==== Sys2Proof/Machine/Gates.lean ====
section
/-! DEFINITION. What the gate table and admission units do to a gate: service entry and exit, faults, feedback, the
stages of admission and the commit of an order (Sections 1 and 3), and the re-evaluation of interlocks (R69). -/

namespace Sys2Proof.Machine

/-- What a handler does with a write (R128): it refuses it with a code, the detail of its REFUSAL record and the gate of
an ORDER_REFUSED event (R59), or takes it. A refusal changes no configuration copy. -/
inductive Handled where
  | refused (code : Code) (detail : Nat) (orderRefused : Option GateId) (p : Dyn)
  | taken (c : Tables) (p : Dyn)

/-- A plain refusal: detail 0, no event. -/
def Handled.refuse (code : Code) (p : Dyn) : Handled := .refused code 0 none p

/-! ### Faults (R16 to R18) -/

/-- Gate g's record on entering FAULTED (R16). -/
def Gate.faulted (x : Gate) (cause : FaultCause) : Gate :=
  { x with
    state := .faulted
    faultCause := some cause
    target := x.command
    lagTimer := .stopped
    recoveryTimer := .stopped
    awaiting := false
    causes := { x.causes with interlock := false } }

/-- Gate g enters FAULTED (R16): the budget unit is told if the release at its target has changed. -/
def enterFaulted (c : Tables) (g : GateId) (cause : FaultCause) (p : Dyn) : Dyn :=
  let x := p.gates.get g
  let p1 := putGate g (x.faulted cause) p
  let old := releaseOf c g x.target
  let new := releaseOf c g x.command
  if old = new then p1 else changeGateTotal c g old new p1

/-- FEEDBACK_LAG(g) (Table 10-1); the context is the state before the fault. -/
def feedbackLagEvent (g : GateId) (before : GateState) (p : Dyn) : Event where
  kind := .feedbackLag
  subject := .gate g
  master := 0
  page := slotPage g
  qualifier := 0
  value := BitVec.ofNat 16 (p.gates.get g).feedback
  detail := BitVec.ofNat 16 (p.gates.get g).command
  context := .gate before

/-- The lag timer of in-service gate g expires (R17). -/
def lagExpires (c : Tables) (g : GateId) (p : Dyn) : Dyn :=
  let before := (p.gates.get g).state
  let p1 := enterFaulted c g .lag p
  raise c (feedbackLagEvent g before p1) p1

/-- A slot write of gate g was answered ERROR (R18). -/
def slotWriteFailed (c : Tables) (g : GateId) (a : Access) (p : Dyn) : Dyn :=
  match (p.gates.get g).state with
  | .faulted => p
  | .outOfService => raise c (storeFaultEvent a (some g) p) p
  | .closed | .settled | .moving | .held | .warning | .recovering =>
    let p1 := enterFaulted c g .store p
    raise c (storeFaultEvent a (some g) p1) p1

/-! ### Service entry and exit (R3 to R5) -/

/-- The configuration record passes the seven checks of R3. -/
def configValid (c : Tables) (g : GateId) : Bool :=
  let x := c.gates.get g
  decide (1 ≤ x.stepSize.toNat) && decide (x.stepSize.toNat ≤ 1000) && x.stepInterval != 0 && x.lagLimit != 0 &&
    decide (x.tolerance.toNat ≤ 1000) && decide (x.dam.toNat ≤ c.lastDam.val) && refValid x.openRef &&
    refValid x.closeRef

/-- The record with which gate g enters service (R4): target and command at the feedback value, MODE and DAM as their
conditions stand (R12). -/
def Gate.entered (x : Gate) (kind : GateKind) (mode : Mode) (damHeld : Bool) : Gate :=
  { x with
    state := if kind == .flood && x.feedback == 0 then .closed else .settled
    target := x.feedback
    command := x.feedback
    causes := ⟨mode == .hold || mode == .exiting, damHeld, false⟩ }

/-- Gate g of dam d enters service (R4). The effects stand in the order of R4's list (log entry 16). -/
def enterService (c : Tables) (g : GateId) (d : DamId) (p : Dyn) : Dyn :=
  let x := p.gates.get g
  let p1 := putGate g (x.entered (c.gates.get g).kind p.mode (p.dams.get d).hold) p
  let p2 := changeTotal c d 0 (releaseOf c g x.feedback) p1
  let p3 := if (c.gates.get g).kind == .flood && decide (0 < x.feedback) then soundAtEntry c d p2 else p2
  schedule c p false p3

/-- Gate g's record on leaving service (R5). -/
def Gate.exited (x : Gate) : Gate :=
  { x with
    state := .outOfService
    target := x.command
    lagTimer := .stopped
    recoveryTimer := .stopped
    awaiting := false
    causes := ⟨false, false, false⟩
    faultCause := none }

/-- In-service gate g leaves service (R5). -/
def exitService (c : Tables) (g : GateId) (p : Dyn) : Dyn :=
  let x := p.gates.get g
  let p1 := putGate g x.exited p
  let p2 := changeGateTotal c g (releaseOf c g x.target) 0 p1
  silenceCheckOf c g p2

/-- A write to gate g's service control word (R3 to R5): OFF is 0000h, ON is 0001h (Table 11-4). -/
def handleServiceControl (g : GateId) (data : Word) (c : Tables) (p : Dyn) : Handled :=
  let x := p.gates.get g
  if data = 1 then
    if x.inService then .taken c p
    else if configValid c g then
      if x.feedbackKnown then
        match (c.gates.get g).dam? with
        | some d => .taken c (enterService c g d p)
        | none => .refuse .badConfig p
      else .refuse .noFeedback p
    else .refuse .badConfig p
  else if data = 0 then
    if x.inService then .taken c (exitService c g p) else .taken c p
  else .refuse .badConfig p

/-! ### Feedback (R14) -/

/-- Two openings differ by at most a tolerance. -/
def within (a b tolerance : Nat) : Bool := decide (a ≤ b + tolerance) && decide (b ≤ a + tolerance)

/-- Gate g's record after an accepted FEEDBACK value (R14, steps 1 and 2). -/
def Gate.withFeedback (x : Gate) (v : Nat) (tolerance : Nat) : Gate :=
  let agrees := x.inService && x.awaiting && within v x.command tolerance
  { x with
    feedback := v
    feedbackKnown := true
    awaiting := if agrees then false else x.awaiting
    lagTimer := if agrees then .stopped else x.lagTimer }

/-- A write to gate g's FEEDBACK word (R14). Agreement may let the gate join the queue (R75). -/
def handleFeedback (g : GateId) (data : Word) (c : Tables) (p : Dyn) : Handled :=
  match decodeValue (c.decimal (slotPage g)) 1000 data with
  | none => .refuse .badDigit p
  | some v =>
    let x := p.gates.get g
    let y := x.withFeedback v (c.gates.get g).tolerance.toNat
    .taken c (joinAndScan c (fun i => i == g && x.awaiting && !y.awaiting) false (putGate g y p))

/-! ### The commit (stage 8, R60 to R64) -/

/-- A gate's record with its new target, INTERLOCK taken out where the target differs from the command (R60, steps 1 and
2). -/
def Gate.retargeted (x : Gate) (target : Nat) : Gate :=
  { x with
    target := target
    causes := if target = x.command then x.causes else { x.causes with interlock := false } }

/-- Gate g's target becomes `target` (R60 to R64, Table 3-3). -/
def commitTarget (c : Tables) (g : GateId) (target : Nat) (p : Dyn) : Dyn :=
  let x := p.gates.get g
  let y := x.retargeted target
  match x.state with
  | .recovering => putGate g y p
  | .warning =>
    if target = x.command then silenceCheckOf c g (putGate g { y with state := .closed } p) else putGate g y p
  | .closed =>
    if target = x.command then settle c g (putGate g y p)
    else
      match (c.gates.get g).dam? with
      | some d => soundForOrder c g d (putGate g y p)
      | none => putGate g { y with state := y.moveState } p
  | .settled =>
    if target = x.command then settle c g (putGate g y p) else putGate g { y with state := y.moveState } p
  | .moving | .held =>
    if target = x.command then settle c g (putGate g y p) else putGate g { y with state := y.moveState } p
  | .outOfService | .faulted => p

/-! ### Admission of a direct order (R50 to R59) -/

/-- The level of a master as its entry stands (R50, R122). -/
def levelOf (c : Tables) (m : MasterId) : Nat := (c.masters.get m).level.toNat

/-- Stage 1 (R53). -/
def stage1 (mode : Mode) (level : Nat) : Bool :=
  match mode with
  | .config => false
  | .run => true
  | .hold => level == 0
  | .exiting => level == 0

/-- A refusal at stage 3, 4, 6 or 7 (R59): the last refusal code is set, the mirror is marked, and ORDER_REFUSED(g) is to
be offered. -/
def orderRefused (g : GateId) (code : Code) (detail : Nat) (p : Dyn) : Handled :=
  .refused code detail (some g) (markGateMirror g (putGate g { p.gates.get g with lastRefusal := some code } p))

/-- The condition that stops a move of gate g from its command to a new target (R57, R98). -/
def moveBlocked (c : Tables) (p : Dyn) (g : GateId) (target : Nat) : Option CondId :=
  let x := p.gates.get g
  if target = x.command then none else falseCondition c p.statusWords g (directionTo x.command target)

/-- The release change of a new target for gate g (R58, R99). -/
def releaseChange (c : Tables) (p : Dyn) (g : GateId) (target : Nat) : List (DamId × Nat × Nat) :=
  match (c.gates.get g).dam? with
  | some d => [(d, releaseOf c g (p.gates.get g).target, releaseOf c g target)]
  | none => []

/-- A direct order for gate g from a master of the given level (R50 to R60, Table 3-2). -/
def handleOrder (g : GateId) (level : Nat) (data : Word) (c : Tables) (p : Dyn) : Handled :=
  if !stage1 p.mode level then .refuse .notRunning p
  else
    match decodeValue (c.decimal (slotPage g)) 1000 data with
    | none => .refuse .badDigit p
    | some target =>
      let x := p.gates.get g
      if x.state == .outOfService || x.state == .faulted then orderRefused g .gateState 0 p
      else if (c.gates.get g).orderLevel.toNat < level then orderRefused g .orderLevel 0 p
      else if target = x.target then .taken c p
      else
        match moveBlocked c p g target with
        | some k => orderRefused g .interlock k.val p
        | none =>
          match admission c (releaseChange c p g target) p with
          | .error (code, d) => orderRefused g code d.val p
          | .ok p1 =>
            let q := commitTarget c g target p1
            .taken c (schedule c p (q.queue.contains g) q)

/-! ### Interlock re-evaluation (R69) -/

/-- Gate g carries INTERLOCK on account of a condition that `sel` names and that is now true (R69). -/
def interlockCleared (c : Tables) (sel : CondId → Bool) (p : Dyn) (g : GateId) : Bool :=
  let x := p.gates.get g
  let dir := directionTo x.command x.target
  x.inService && x.causes.interlock &&
    (match refCondition ((c.gates.get g).reference dir) with
      | some k => sel k
      | none => false) &&
    (falseCondition c p.statusWords g dir).isNone

/-- The re-evaluation that follows a status word or condition write (R69): INTERLOCK leaves each gate whose condition is
now true, and released gates join the queue in ascending order (R76). -/
def reevaluateInterlocks (c : Tables) (sel : CondId → Bool) (p : Dyn) : Dyn :=
  schedule c p false
    ((List.finRange 48).foldl
      (fun q g =>
        if interlockCleared c sel p g then setCauses g { (q.gates.get g).causes with interlock := false } q else q) p)

/-- A write to station status word n (R68). -/
def handleStatusWord (n : StatusId) (data : Word) (c : Tables) (p : Dyn) : Handled :=
  .taken c
    (reevaluateInterlocks c (fun k => (c.conditions.get k).source == n)
      { p with statusWords := Table.put p.statusWords n data })

/-- A write to a word of interlock condition k (R67). -/
def handleCondition (k : CondId) (i : Fin 2) (data : Word) (c : Tables) (p : Dyn) : Handled :=
  let c1 := { c with conditions := Table.put c.conditions k ((c.conditions.get k).withWord i data) }
  .taken c1 (reevaluateInterlocks c1 (fun j => j == k) p)

end Sys2Proof.Machine
end

