-- ==== Sys2Proof/Machine/Levels.lean ====
section
/-! DEFINITION. Pool level telemetry and the writes to reach records and to the last dam L (Section 2). -/

namespace Sys2Proof.Machine

/-- SENSOR_SPLIT(r) (R43, Table 10-1). -/
def splitEvent (r : ReachId) (p : Dyn) : Event where
  kind := .sensorSplit
  subject := .reach r
  master := 0
  page := 16
  qualifier := 0
  value := BitVec.ofNat 16 (p.reaches.get r).a.value
  detail := BitVec.ofNat 16 (p.reaches.get r).b.value
  context := .mode p.mode

/-- The event of entering a level state (R45, Table 10-1); none for NORMAL. The level is the one in the reach, which for
UNKNOWN is the last one derived while known. -/
def levelEvent (r : ReachId) (st : LevelState) (p : Dyn) : Option Event :=
  let x := p.reaches.get r
  let make := fun (k : EventKind) (detail : Word) =>
    some (Event.mk k (.reach r) 0 16 0 (BitVec.ofNat 16 x.level) detail (.mode p.mode))
  match st with
  | .high => make .levelHigh x.ceff
  | .low => make .levelLow x.deff
  | .unknown => make .levelUnknown x.ceff
  | .normal => none

/-- The effective limits of a reach recomputed (R31). -/
def Reach.withLimits (x : Reach) (c : ReachConfig) : Reach :=
  { x with ceff := effectiveCeiling c x.levelState, deff := effectiveDraw c x.levelState }

/-- A change that the reach's mirror shows (R48). -/
def Reach.mirrorDiffers (old new : Reach) : Bool :=
  old.level != new.level || old.levelState != new.levelState || old.a.freshness != new.a.freshness ||
    old.b.freshness != new.b.freshness || old.split != new.split || old.ceff != new.ceff || old.deff != new.deff

/-- An effective limit changed value (R31). -/
def Reach.limitsDiffer (old new : Reach) : Bool := old.ceff != new.ceff || old.deff != new.deff

/-- The split flag's event, if the flag rose (R43, R47 step 1). -/
def raiseSplit (c : Tables) (r : ReachId) (old new : Reach) (p : Dyn) : Dyn :=
  if !old.split && new.split then raise c (splitEvent r p) p else p

/-- The level event, if the level state changed (R45, R47 step 2). -/
def raiseLevel (c : Tables) (r : ReachId) (old new : Reach) (p : Dyn) : Dyn :=
  if old.levelState == new.levelState then p
  else
    match levelEvent r new.levelState p with
    | some e => raise c e p
    | none => p

/-- Reach r's level part becomes `new`: the record with its new limits, the mirror mark, then the events in the order of
R47, and EXCEEDED if a limit changed or if `always` (R28). The limits stand before any link acts (R47, log entry 27). Each
record is formed after the link actions of the event before it (DESIGN CHOICE, unsafe, log entry 36). -/
def applyReach (c : Tables) (r : ReachId) (new : Reach) (always : Bool) (p : Dyn) : Dyn :=
  let old := p.reaches.get r
  let x := new.withLimits (c.reaches.get r)
  let p1 := putReach r x p
  let p2 := if old.mirrorDiffers x then markReach r p1 else p1
  let p3 := raiseLevel c r old x (raiseSplit c r old x p2)
  if always || old.limitsDiffer x then reevaluate c r p3 else p3

/-- The level derived afresh from the samples (R42 to R44), as a reach record. -/
def Reach.derived (x : Reach) (c : ReachConfig) : Reach :=
  let v := derivedLevel x.a x.b
  { x with
    level := match v with | some v => v | none => x.level
    levelState := match v with | some v => nextLevelState c x.levelState v | none => .unknown
    split := splitFlag c x.a x.b }

/-- One sample of a reach replaced. -/
def Reach.withSample (x : Reach) (k : Sensor) (s : Sample) : Reach :=
  match k with
  | .a => { x with a := s }
  | .b => { x with b := s }

/-- One sample of a reach. -/
def Reach.sample (x : Reach) (k : Sensor) : Sample :=
  match k with
  | .a => x.a
  | .b => x.b

/-- A sample's record after a taken sensor write (R39, R40): FRESH with its timer started, or STALE at once where the
timeout is 0. A STALE sample so written passes through FRESH within the event; the mirror mark compares the states before
and after it, and is not made (R48). DESIGN CHOICE, safe (log entry 37). -/
def writtenSample (v timeout : Nat) : Sample :=
  if timeout = 0 then ⟨v, .stale, .stopped⟩ else ⟨v, .fresh, .running timeout⟩

/-- A sample replaced and the level derived afresh (R39 step 3, R41). -/
def deriveWith (c : Tables) (r : ReachId) (k : Sensor) (s : Sample) (p : Dyn) : Dyn :=
  applyReach c r (((p.reaches.get r).withSample k s).derived (c.reaches.get r)) false p

/-- A write to a sensor word (R39). -/
def handleSensor (r : ReachId) (k : Sensor) (data : Word) (c : Tables) (p : Dyn) : Handled :=
  match decodeValue (c.decimal 16) 9999 data with
  | none => .refuse .badDigit p
  | some v => .taken c (deriveWith c r k (writtenSample v (c.reaches.get r).sampleTimeout.toNat) p)

/-- A sample's freshness timer expires (R41): the value is kept. -/
def sampleExpires (c : Tables) (r : ReachId) (k : Sensor) (p : Dyn) : Dyn :=
  deriveWith c r k ⟨((p.reaches.get r).sample k).value, .stale, .stopped⟩ p

/-- The level state re-evaluated against new marks (R46); an UNKNOWN reach keeps its state. -/
def Reach.remarked (x : Reach) (c : ReachConfig) : Reach :=
  match x.levelState with
  | .unknown => x
  | .low | .normal | .high => { x with levelState := nextLevelState c x.levelState x.level }

/-- A write to word i of reach r's record (R28). -/
def handleReachWord (r : ReachId) (i : Fin 11) (data : Word) (c : Tables) (p : Dyn) : Handled :=
  if 6 ≤ i.val ∧ i.val ≤ 9 ∧ 9999 < data.toNat then .refuse .badConfig p
  else
    let cfg := (c.reaches.get r).withWord i data
    let c1 := { c with reaches := Table.put c.reaches r cfg }
    let x := p.reaches.get r
    if i.val ≤ 5 then .taken c1 (applyReach c1 r x true p)
    else if i.val ≤ 8 then .taken c1 (applyReach c1 r (x.remarked cfg) false p)
    else if i.val = 9 then .taken c1 (applyReach c1 r { x with split := splitFlag cfg x.a x.b } false p)
    else .taken c1 p

/-! ### The last dam (R112, R32) -/

/-- An in-service gate is configured to a dam above `l` (R112). -/
def gateAbove (c : Tables) (p : Dyn) (l : Nat) : Bool :=
  (List.finRange 48).any fun g => (p.gates.get g).inService && decide (l < (c.gates.get g).dam.toNat)

/-- The flag of a reach above L is cleared without an event (R32). -/
def clearExceeded (d : ReachId) (p : Dyn) : Dyn :=
  let r := p.reaches.get d
  if r.exceeded then markReach d (putReach d { r with exceeded := false } p) else p

/-- The budget unit takes a change of L (R32); `c` holds the new L. -/
def lastDamChanged (c : Tables) (p : Dyn) : Dyn :=
  (List.finRange 6).foldl (fun p d => if d.val ≤ c.lastDam.val then reevaluate c d p else clearExceeded d p) p

/-- A write of the last dam L (R112). -/
def handleLastDam (data : Word) (c : Tables) (p : Dyn) : Handled :=
  let v := (data.extractLsb' 0 3).toNat
  if h : v < 6 then
    if v = c.lastDam.val then .taken c p
    else if p.mode != .config then .refuse .modeChange p
    else if gateAbove c p v then .refuse .inService p
    else
      let c1 := { c with lastDam := ⟨v, h⟩ }
      .taken c1 (lastDamChanged c1 p)
  else .refuse .badConfig p

end Sys2Proof.Machine
end

