-- ==== Sys2Proof/Machine/Portals.lean ====
section
/-! DEFINITION. Portals (Section 5): the words of a portal page, the checks of a request, the batch check and commit,
and the portal job that a request queues. -/

namespace Sys2Proof.Machine

/-- An item of a request: the gate named and its opening. -/
abbrev Item := GateId × Nat

/-- Word i + 1 of a portal's page as the buffer holds it (R92); the buffer's entries are words 1 to 16. -/
def Portal.word (x : Portal) (i : Nat) : Word := if h : i < 16 then x.buffer.get ⟨i, h⟩ else 0

/-- Words 0 to n of a request: the header as written and items 1 to n (R95). -/
def requestWords (header : Word) (x : Portal) (n : Nat) : List Word :=
  header :: (List.range n).map fun i => x.word i

/-- Steps 1 to 4 of Table 5-3 (R96); the index reported is 0. -/
def requestCheck (cfg : PortalConfig) (mode : Mode) (level : Nat) (header : Word) (x : Portal) : Option Code :=
  let n := headerCount header
  if !cfg.enabled then some .portalFormat
  else if mode != .run then some .notRunning
  else if cfg.invokeLevel.toNat < level then some .portalLevel
  else if n = 0 ∨ cfg.maxCount.toNat < n then some .portalFormat
  else if crc (requestWords header x n) != x.word n then some .crc
  else none

/-- The item's dam has its flag in the dam mask (R97, check 2). -/
def damAllowed (mask : BitVec 6) (g : GateConfig) : Bool := mask.getLsbD g.dam.toNat

/-- The seven checks of one item (R97, R98); the earlier items' gates are given. -/
def itemCheck (c : Tables) (p : Dyn) (cfg : PortalConfig) (header : Word) (earlier : List Item) (w : Word) :
    Except Code Item :=
  if h : itemGate w < 48 then
    let g : GateId := ⟨itemGate w, h⟩
    let o := itemOpening w
    let x := p.gates.get g
    if !damAllowed cfg.damMask (c.gates.get g) then .error .damMask
    else if earlier.any fun e => e.1 == g then .error .duplicateGate
    else if 1000 < o then .error .badDigit
    else if x.state == .outOfService || x.state == .faulted then .error .gateState
    else if (c.gates.get g).orderLevel.toNat < max cfg.grantedLevel.toNat (headerLevel header).toNat then
      .error .orderLevel
    else if o != x.target && (moveBlocked c p g o).isSome then .error .interlock
    else .ok (g, o)
  else .error .portalFormat

/-- The items in order (R97): all of them, or the code and item index of the first that fails. -/
def itemsCheck (c : Tables) (p : Dyn) (cfg : PortalConfig) (header : Word) :
    List Word → List Item → Except (Code × Nat) (List Item)
  | [], done => .ok done
  | w :: ws, done =>
    match itemCheck c p cfg header done w with
    | .error code => .error (code, done.length + 1)
    | .ok item => itemsCheck c p cfg header ws (done ++ [item])

/-- The release changes of the items that change their gates' targets (R99). -/
def batchChanges (c : Tables) (p : Dyn) (items : List Item) : List (DamId × Nat × Nat) :=
  items.flatMap fun e => if e.2 = (p.gates.get e.1).target then [] else releaseChange c p e.1 e.2

/-- The commit of every item in item order; an item at its gate's current target changes nothing (R100). R100 gives the
order for flood gates that leave CLOSED; the model takes it for every item, also where another item returns a gate of the
same dam to CLOSED and the order decides the dam's warning and its dwell. DEDUCED, unsafe (log entry 43). -/
def commitItems (c : Tables) (items : List Item) (p : Dyn) : Dyn :=
  items.foldl (fun p e => if e.2 = (p.gates.get e.1).target then p else commitTarget c e.1 e.2 p) p

/-- Some item's gate is in the queue with a changed target (R78, R82). -/
def queuedChanged (before after : Dyn) (items : List Item) : Bool :=
  items.any fun e => after.queue.contains e.1 && (before.gates.get e.1).target != (after.gates.get e.1).target

/-- A portal job joins the queue of portal jobs (R100, R101). -/
def queuePortalJob (j : PortalJob) (p : Dyn) : Dyn := { p with portalJobs := p.portalJobs ++ [j] }

/-- PORTAL_REFUSED(p) (R101, Table 10-1). -/
def portalRefusedEvent (q : PortalId) (m : MasterId) (header : Word) (code : Code) (index : Nat) (p : Dyn) : Event where
  kind := .portalRefused
  subject := .portal q
  master := m
  page := portalPage q
  qualifier := code.number
  value := BitVec.ofNat 16 (headerSequence header).toNat
  detail := BitVec.ofNat 16 index
  context := .mode p.mode

/-- A refused request (R101). -/
def refuseRequest (c : Tables) (q : PortalId) (m : MasterId) (header : Word) (code : Code) (index : Nat) (p : Dyn) :
    Dyn :=
  queuePortalJob ⟨q, headerSequence header, .refused, some code, index, []⟩
    (raise c (portalRefusedEvent q m header code index p) p)

/-- A committed request (R100): the commits, the joins and scan, then the DONE job. -/
def commitRequest (c : Tables) (q : PortalId) (header : Word) (items : List Item) (p before : Dyn) : Dyn :=
  let p1 := commitItems c items p
  queuePortalJob ⟨q, headerSequence header, .done, none, 0, items⟩
    (schedule c before (queuedChanged before p1 items) p1)

/-- A request is processed whole (R93, R96 to R101, R104). -/
def processRequest (c : Tables) (q : PortalId) (m : MasterId) (header : Word) (p : Dyn) : Dyn :=
  let cfg := c.portals.get q
  let x := p.portals.get q
  match requestCheck cfg p.mode (levelOf c m) header x with
  | some code => refuseRequest c q m header code 0 p
  | none =>
    match itemsCheck c p cfg header ((List.range (headerCount header)).map fun i => x.word i) [] with
    | .error (code, index) => refuseRequest c q m header code index p
    | .ok items =>
      match admission c (batchChanges c p items) p with
      | .error (code, d) => refuseRequest c q m header code d.val p
      | .ok p1 => commitRequest c q header items p1 p

/-- A write to the header of portal q's page (R93, R94). -/
def handlePortalHeader (q : PortalId) (m : MasterId) (data : Word) (c : Tables) (p : Dyn) : Handled :=
  let x := p.portals.get q
  if x.busy then .refuse .portalBusy p
  else .taken c (processRequest c q m data { p with portals := Table.put p.portals q { x with busy := true } })

/-- A write to word i + 1 of portal q's page (R92, R94): words 1 to 16 go into the buffer. -/
def handlePortalItem (q : PortalId) (i : Fin 125) (data : Word) (c : Tables) (p : Dyn) : Handled :=
  let x := p.portals.get q
  if x.busy then .refuse .portalBusy p
  else if h : i.val < 16 then
    .taken c { p with portals := Table.put p.portals q { x with buffer := Table.put x.buffer ⟨i.val, h⟩ data } }
  else .taken c p

end Sys2Proof.Machine
end

