-- ==== Sys2Proof/Machine/TableWrites.lean ====
section
/-! DEFINITION. What each block does with a write to a configuration word or a control word of page 0 that belongs to
no larger machinery: gate and dam records, the stagger matrix, portal configurations, link entries, descriptors, master
entries, the refresh interval, the keep mask, the log read index and the alarm clear word. -/

namespace Sys2Proof.Machine

/-! ### Gate and dam records (Section 1) -/

/-- A write to word i + 1 of gate g's configuration (R1). -/
def handleGateConfig (g : GateId) (i : Fin 7) (data : Word) (c : Tables) (p : Dyn) : Handled :=
  if (p.gates.get g).inService then .refuse .inService p
  else .taken { c with gates := Table.put c.gates g ((c.gates.get g).withWord i data) } p

/-- A dam's configuration with one dwell replaced (R19). -/
def DamConfig.withDwell (x : DamConfig) (k : Dwell) (w : Word) : DamConfig :=
  match k with
  | .warning => { x with warningDwell := w }
  | .recovery => { x with recoveryDwell := w }

/-- A write to a dwell of dam d (R19); a running dwell timer goes on (R8). -/
def handleDamDwell (d : DamId) (k : Dwell) (data : Word) (c : Tables) (p : Dyn) : Handled :=
  .taken { c with dams := Table.put c.dams d ((c.dams.get d).withDwell k data) } p

/-- A write to dam d's hold control word (R19, R24). Gates that a clear makes MOVING join the queue (R75). -/
def handleHoldControl (d : DamId) (data : Word) (c : Tables) (p : Dyn) : Handled :=
  if data = 1 then .taken c (setHold c d p)
  else if data = 0 then .taken c (schedule c p false (clearHold c d p))
  else .refuse .badConfig p

/-- Dam d's keep flag replaced (R19, R113). -/
def Tables.withKeep (c : Tables) (d : DamId) (k : Bool) : Tables :=
  { c with dams := Table.put c.dams d { c.dams.get d with keep := k } }

/-- A write to dam d's refresh keep word (R19). -/
def handleRefreshKeep (d : DamId) (data : Word) (c : Tables) (p : Dyn) : Handled :=
  if data = 0 then .taken (c.withKeep d false) p
  else if data = 1 then .taken (c.withKeep d true) p
  else .refuse .badConfig p

/-! ### Page 7 (Sections 4, 5, 9) -/

/-- A write to word i of the stagger matrix (R79): the word is replaced and a scan follows. -/
def handleMatrix (i : Fin 8) (data : Word) (c : Tables) (p : Dyn) : Handled :=
  let c1 := { c with matrix := Table.put c.matrix i data }
  .taken c1 (scan c1 p)

/-- A write to a word of portal q's configuration (R91). -/
def handlePortalConfig (q : PortalId) (i : Fin 2) (data : Word) (c : Tables) (p : Dyn) : Handled :=
  if i = 0 ∧ data.extractLsb' 0 4 = 0 then .refuse .badConfig p
  else .taken { c with portals := Table.put c.portals q ((c.portals.get q).withWord i data) } p

/-- The largest subject index of an event kind; none for a kind without a subject (Table 9-1, R145). -/
def EventKind.lastSubject : EventKind → Option Nat
  | .levelHigh | .levelLow | .levelUnknown | .sensorSplit | .boundExceeded => some 5
  | .feedbackLag | .interlockLost | .orderRefused | .storeFault => some 47
  | .portalRefused => some 3
  | .refreshOverrun => none
  | .reset => none

/-- A source index that R145 lets in: ANY, or within the kind's range. -/
def Link.indexValid (l : Link) : Bool :=
  l.index == 63 ||
    (match l.kind.lastSubject with
      | some n => decide (l.index.toNat ≤ n)
      | none => false)

/-- An action target that R145 lets in. -/
def Link.targetValid (l : Link) : Bool :=
  match l.action with
  | .holdDam => decide (l.target.toNat ≤ 5)
  | .alarm => decide (l.target.toNat ≤ 3)
  | .none | .holdSourceDam | .enterHold => true

/-- An entry that R145 lets in. -/
def Link.valid (l : Link) : Bool := l.kind != .reset && l.indexValid && l.targetValid

/-- A write to a word of link entry l (R145): the entry as the write would leave it is examined. -/
def handleLink (l : LinkId) (i : Fin 2) (data : Word) (c : Tables) (p : Dyn) : Handled :=
  match (c.links.get l).withWord i data with
  | none => .refuse .badConfig p
  | some x => if x.valid then .taken { c with links := Table.put c.links l x } p else .refuse .badConfig p

/-! ### Descriptors and masters (Section 7) -/

/-- The first of the three checks of R124 that a written descriptor of page q fails. -/
def descriptorCheck (q : PageId) (x : Descriptor) : Option Code :=
  if q.val ≤ 20 ∧ (!x.present ∨ x.limit.toNat ≠ fixedLimit q) then some .fixedField
  else if x.decimal ∧ ¬(14 ≤ q.val ∧ q.val ≤ 16) then some .badConfig
  else if 20 < q.val ∧ (x.limit.toNat < 1 ∨ 128 < x.limit.toNat) then some .badConfig
  else none

/-- A write to the descriptor of page q (R124). -/
def handleDescriptor (q : PageId) (data : Word) (c : Tables) (p : Dyn) : Handled :=
  match descriptorCheck q (descriptorOfWord data) with
  | some code => .refuse code p
  | none => .taken { c with descriptors := Table.put c.descriptors q (descriptorOfWord data) } p

/-- A write to the entry of master m, 1 to 7 (R122); the entry of master 0 is part-owned. -/
def handleMasterEntry (m : MasterId) (data : Word) (c : Tables) (p : Dyn) : Handled :=
  .taken { c with masters := Table.put c.masters m (masterOfWord data) } p

/-! ### Control words of page 0 (Sections 6, 9, 10) -/

/-- A write of the refresh interval (R113). -/
def handleRefreshInterval (data : Word) (c : Tables) (p : Dyn) : Handled :=
  if data = 0 then .refuse .badConfig p else .taken { c with refreshInterval := data } p

/-- A write of the keep mask (R113): the six keep flags follow bits 5 to 0. -/
def handleKeepMask (data : Word) (c : Tables) (p : Dyn) : Handled :=
  .taken { c with dams := Table.tab fun d => { c.dams.get d with keep := data.getLsbD d.val } } p

/-- The keep mask as it stands (R113). -/
def Tables.keepMask (c : Tables) : Word :=
  (0 : BitVec 10) ++ BitVec.ofBool (c.dams.get 5).keep ++ BitVec.ofBool (c.dams.get 4).keep ++
    BitVec.ofBool (c.dams.get 3).keep ++ BitVec.ofBool (c.dams.get 2).keep ++ BitVec.ofBool (c.dams.get 1).keep ++
    BitVec.ofBool (c.dams.get 0).keep

/-- LOG_LOST is cleared; a change of it marks the status summary (R155). -/
def clearLogLost (p : Dyn) : Dyn := if p.logLost then markSummary { p with logLost := false } else p

/-- A write of the log read index (R155). -/
def handleLogReadIndex (data : Word) (c : Tables) (p : Dyn) : Handled :=
  if 63 < data.toNat then .refuse .badConfig p
  else .taken c (clearLogLost { p with logRead := data.extractLsb' 0 6 })

/-- A write to the alarm clear word (R150): the flags that bits 3 to 0 name are cleared. -/
def handleAlarmClear (data : Word) (c : Tables) (p : Dyn) : Handled :=
  .taken c { p with alarms := Table.tab fun k => p.alarms.get k && !data.getLsbD k.val }

end Sys2Proof.Machine
end

