-- ==== Sys2Proof/Machine/Refresh.lean ====
section
/-! DEFINITION. The mode controller and the refresh engine (Section 6): mode writes, offers, the completion of a refresh,
the exit pass and the refresh interval expiry. -/

namespace Sys2Proof.Machine

/-! ### Offers (R114, R116) -/

/-- The job in progress is a refresh. -/
def refreshRunning (p : Dyn) : Bool :=
  match p.running with
  | some ⟨.refresh _ _ _ _ _, _⟩ => true
  | _ => false

/-- The job in progress is a refresh that was offered in HOLD. -/
def holdRefreshRunning (p : Dyn) : Bool :=
  match p.running with
  | some ⟨.refresh _ .hold _ _ _, _⟩ => true
  | _ => false

/-- The RUN offer (R116): made when no refresh is offered, none is in progress and the debt is -3 or more. -/
def offerRun (p : Dyn) : Dyn :=
  if p.mode == .run && p.offer.isNone && !refreshRunning p && decide (-3 ≤ p.debt) then
    { p with offer := some p.pointer }
  else p

/-- The next dam of 0 to L (R114). -/
def nextDam (last d : DamId) : DamId :=
  if h : d.val < last.val then ⟨d.val + 1, by have := last.isLt; omega⟩ else 0

/-! ### The mode word (R105 to R111) -/

/-- Entry into RUN from CONFIG (R107). A refresh job in progress resets the pointer at its completion; the first offer
then follows that completion. -/
def enterRun (p : Dyn) : Dyn :=
  offerRun (markSummary { p with mode := .run, debt := 0, pointer := 0, pointerReset := refreshRunning p })

/-- Entry into CONFIG from RUN (R108): the offer is withdrawn, and a refresh job in progress counts no more (R115). -/
def enterConfig (p : Dyn) : Dyn := markSummary { uncredit p with mode := .config, offer := none }

/-- Entry into EXITING from HOLD (R110): the progress is 0, a refresh of HOLD not yet granted is withdrawn, and the first
pass refresh is offered now unless a refresh job is in progress. Where that job is of an abandoned pass (R111), which R110
does not name, the first offer waits for its completion too and is for the pointer after its advance. DEDUCED, unsafe (log
entry 42). -/
def enterExiting (p : Dyn) : Dyn :=
  markSummary
    { p with mode := .exiting, progress := 0, offer := if refreshRunning p then none else some p.pointer }

/-- Some gate is in service. -/
def anyInService (p : Dyn) : Bool := (List.finRange 48).any fun g => (p.gates.get g).inService

/-- A requested transition (R106). -/
def requestMode (m : Mode) (c : Tables) (p : Dyn) : Handled :=
  match p.mode, m with
  | .config, .config => .taken c p
  | .config, .run => .taken c (enterRun p)
  | .config, .hold => .refuse .modeChange p
  | .run, .config => if anyInService p then .refuse .inService p else .taken c (enterConfig p)
  | .run, .run => .taken c p
  | .run, .hold => .taken c (enterHold p)
  | .hold, .config => .refuse .modeChange p
  | .hold, .run => .taken c (enterExiting p)
  | .hold, .hold => .taken c p
  | .exiting, .config => .refuse .modeChange p
  | .exiting, .run => .taken c p
  | .exiting, .hold => .taken c (enterHold p)
  | _, .exiting => .refuse .modeChange p

/-- A write of the mode word (R105): 4 to 7 name no mode, and EXITING cannot be written. -/
def handleMode (data : Word) (c : Tables) (p : Dyn) : Handled :=
  match modeOfWord data with
  | none => .refuse .badConfig p
  | some m => requestMode m c p

/-! ### The completion of a refresh (R107, R110, R114 to R118) -/

/-- The rotation pointer after the completion of a refresh of dam d (R114), set to dam 0 where R107 says so. -/
def advancePointer (c : Tables) (d : DamId) (p : Dyn) : Dyn :=
  { p with pointer := if p.pointerReset then 0 else nextDam c.lastDam d, pointerReset := false }

/-- The exit pass ends (R110): RUN, debt 0, MODE leaves every in-service gate, released gates join and a scan follows,
and then the first RUN offer is made (R119). -/
def endExitPass (c : Tables) (p : Dyn) : Dyn :=
  let p1 := markSummary { p with mode := .run, debt := 0, progress := 0 }
  let p2 := changeCauses (fun _ => true) (fun cs => { cs with mode := false }) p1
  offerRun (schedule c p false p2)

/-- A refresh of dam d has completed; `counts` says whether it counts toward the debt or the exit pass. -/
def refreshComplete (c : Tables) (d : DamId) (counts : Bool) (p : Dyn) : Dyn :=
  let p1 := advancePointer c d p
  match p1.mode with
  | .run => offerRun (if counts then markSummary { p1 with debt := p1.debt - 1 } else p1)
  | .exiting =>
    if counts then
      if c.lastDam.val + 1 ≤ p1.progress + 1 then endExitPass c p1
      else { p1 with progress := p1.progress + 1, offer := some p1.pointer }
    else { p1 with offer := some p1.pointer }
  | .hold => p1
  | .config => p1

/-! ### The refresh interval (R113, R115, R117) -/

/-- REFRESH_OVERRUN (R115, Table 10-1). -/
def overrunEvent (p : Dyn) : Event where
  kind := .refreshOverrun
  subject := .none
  master := 0
  page := 0
  qualifier := 0
  value := BitVec.ofNat 16 p.pointer.val
  detail := 7
  context := .mode p.mode

/-- The dam n places after the pointer in the rotation of 0 to L. -/
def rotated (last pointer : DamId) : Nat → DamId
  | 0 => pointer
  | n + 1 => nextDam last (rotated last pointer n)

/-- The first kept dam of 0 to L in rotation order from the pointer (R117). -/
def keptDam (c : Tables) (p : Dyn) : Option DamId :=
  ((List.range (c.lastDam.val + 1)).map (rotated c.lastDam p.pointer)).find? fun d => (c.dams.get d).keep

/-- An expiry in RUN (R115): the debt rises, or stands at 7 with REFRESH_OVERRUN. -/
def runExpiry (c : Tables) (p : Dyn) : Dyn :=
  if 7 ≤ p.debt then raise c (overrunEvent p) p
  else offerRun (markSummary { p with debt := p.debt + 1 })

/-- An expiry in HOLD (R117): one refresh of a kept dam, unless one of HOLD is offered or in progress. -/
def holdExpiry (c : Tables) (p : Dyn) : Dyn :=
  if p.offer.isSome || holdRefreshRunning p then p else { p with offer := keptDam c p }

/-- The refresh interval timer expires: it is restarted with the interval in force (R113). -/
def refreshExpires (c : Tables) (p : Dyn) : Dyn :=
  let p1 := { p with refreshTimer := .running c.refreshInterval.toNat }
  match p1.mode with
  | .run => runExpiry c p1
  | .hold => holdExpiry c p1
  | .config => p1
  | .exiting => p1

end Sys2Proof.Machine
end

