-- ==== Sys2Proof/Machine/StorePort.lean ====
section
/-! DEFINITION. The store port arbiter and the write-back engine (Section 8), and the initialisation pass (7.7): the
words of each job, the grants, and what each answer of the store brings about. -/

namespace Sys2Proof.Machine

/-! ### The words of the initialisation pass (R131, R132) -/

/-- A run of words of one page: the first index, the step between indexes and the number of words. -/
structure Region where
  page : PageId
  first : Nat
  stride : Nat
  count : Nat

/-- The words of the power-on pass in order (R131). -/
def powerOnRegions : List Region :=
  [⟨0, 1, 1, 1⟩, ⟨0, 0, 1, 1⟩, ⟨0, 2, 1, 14⟩, ⟨1, 0, 1, 128⟩, ⟨2, 0, 1, 128⟩, ⟨3, 0, 1, 128⟩, ⟨4, 0, 1, 128⟩,
    ⟨5, 0, 1, 128⟩, ⟨6, 0, 1, 90⟩, ⟨7, 0, 1, 112⟩, ⟨8, 0, 1, 128⟩, ⟨9, 0, 1, 112⟩, ⟨14, 0, 1, 128⟩,
    ⟨15, 0, 1, 64⟩, ⟨17, 126, 1, 2⟩, ⟨18, 126, 1, 2⟩, ⟨19, 126, 1, 2⟩, ⟨20, 126, 1, 2⟩, ⟨0, 1, 1, 1⟩]

/-- The words of the reset line pass in order (R132). -/
def resetLineRegions : List Region :=
  [⟨0, 1, 1, 1⟩, ⟨0, 0, 1, 1⟩, ⟨0, 2, 1, 14⟩, ⟨8, 0, 1, 128⟩, ⟨9, 0, 1, 112⟩, ⟨14, 2, 4, 32⟩, ⟨15, 2, 4, 16⟩,
    ⟨0, 1, 1, 1⟩]

/-- The words of a pass in order. -/
def PassKind.regions : PassKind → List Region
  | .powerOn => powerOnRegions
  | .resetLine => resetLineRegions

/-- Word k of a list of regions. -/
def locate : List Region → Nat → Option (PageId × WordIdx)
  | [], _ => none
  | r :: rs, k => if k < r.count then some (r.page, Fin.ofNat 128 (r.first + r.stride * k)) else locate rs (k - r.count)

/-- The number of writes of a pass. -/
def PassKind.length (k : PassKind) : Nat := (k.regions.map (·.count)).sum

/-- The part's copy of a word that a handler owns, as the power-on pass writes it (R131); the words of the GATE, LEVEL
and PORTAL pages among them are written 0. -/
def targetWord (c : Tables) (p : Dyn) : WriteTarget → Word
  | .mode => BitVec.ofNat 16 p.mode.code
  | .lastDam => BitVec.ofNat 16 c.lastDam.val
  | .refreshInterval => c.refreshInterval
  | .keepMask => c.keepMask
  | .logReadIndex => BitVec.ofNat 16 p.logRead.toNat
  | .alarmClear => 0
  | .masterEntry m => masterWord (c.masters.get m)
  | .descriptor q => descriptorWord (c.descriptors.get q)
  | .serviceControl g => if (p.gates.get g).serviceOn then 1 else 0
  | .gateConfig g i => (c.gates.get g).word i
  | .damDwell d .warning => (c.dams.get d).warningDwell
  | .damDwell d .recovery => (c.dams.get d).recoveryDwell
  | .holdControl d => if (p.dams.get d).hold then 1 else 0
  | .refreshKeep d => if (c.dams.get d).keep then 1 else 0
  | .reachWord r i => (c.reaches.get r).word i
  | .matrix i => c.matrix.get i
  | .portalConfig q i => (c.portals.get q).word i
  | .condition k i => (c.conditions.get k).word i
  | .link l i => (c.links.get l).word i
  | .order _ => 0
  | .feedback _ => 0
  | .sensor _ _ => 0
  | .statusWord _ => 0
  | .portalHeader _ => 0
  | .portalItem _ _ => 0
  | .plain => 0
  | .unreached => 0

/-- The gate whose mirror word w of page q is, for pages 8 and 9 (R156). -/
def mirrorGate (q : PageId) (w : WordIdx) : Option GateId :=
  if h : 8 ≤ q.val ∧ q.val ≤ 9 ∧ 32 * (q.val - 8) + w.val / 4 < 48 then some ⟨32 * (q.val - 8) + w.val / 4, h.2.2⟩
  else none

/-- A mirror word as it stands (R156, R157). -/
def mirrorWordAt (c : Tables) (p : Dyn) (q : PageId) (w : WordIdx) : Word :=
  match mirrorGate q w with
  | some g => gateMirrorValue (c.decimal (slotPage g)) (p.gates.get g) ⟨w.val % 4, by omega⟩
  | none =>
    if h : 64 ≤ w.val ∧ w.val < 112 then reachMirrorValue c p ⟨(w.val - 64) / 8, by omega⟩ ⟨w.val % 8, by omega⟩ else 0

/-- The value of a pass write (R131, R132): mirrors and tables as they stand, the log write index, the entry of master 0,
and zeros for slots and result words. `last` marks the second write of the status summary. -/
def passWord (c : Tables) (p : Dyn) (last : Bool) (q : PageId) (w : WordIdx) : Word :=
  if q.val = 0 ∧ w.val = 1 then summaryWord last p
  else if q.val = 0 ∧ w.val = 5 then BitVec.ofNat 16 p.logWrite.toNat
  else if q.val = 0 ∧ w.val = 8 then masterWord (c.masters.get 0)
  else if q.val = 8 ∨ q.val = 9 then mirrorWordAt c p q w
  else targetWord c p (targetOf q w)

/-! ### The access that a job makes (R135, Table 8-2) -/

/-- A write of the part's own: both lanes on (R135). -/
def partWrite (q : PageId) (w : WordIdx) (data : Word) : Access := ⟨q, w, true, true, true, data⟩

/-- The STAMP of gate g with its dam's sequence as it stands (R11). A dam field that names no dam has no sequence: a free
value (log entry 7). -/
def slotStamp (c : Tables) (p : Dyn) (g : GateId) : Word :=
  match (c.gates.get g).dam? with
  | some d => stampWord (p.dams.get d).sequence (p.gates.get g)
  | none => stampWord (Config.noDamSequence p.moment) (p.gates.get g)

/-- The COMMAND word of gate g in the format of its slot page (R11). -/
def commandWord (c : Tables) (p : Dyn) (g : GateId) : Word :=
  encodeValue (c.decimal (slotPage g)) (p.gates.get g).command

/-- Write k of a portal job (R102): the ORDER echoes, then result words 126 and 127. -/
def portalAccess (c : Tables) (j : PortalJob) (k : Nat) : Access :=
  match j.echoes[k]? with
  | some (g, o) => partWrite (slotPage g) (slotWord g 0) (encodeValue (c.decimal (slotPage g)) o)
  | none =>
    if k = j.echoes.length then partWrite (portalPage j.portal) 126 (resultWord0 j)
    else partWrite (portalPage j.portal) 127 (resultWord1 j)

/-- Write k of a log record job into ring slot w (R154): eight record words, then the log write index. -/
def logAccess (r : LogRecord) (w : BitVec 6) (k : Nat) : Access :=
  if h : k < 8 then partWrite (logPage w) (logWord w ⟨k, h⟩) (r.word ⟨k, h⟩)
  else partWrite 0 5 (BitVec.ofNat 16 (w + 1).toNat)

/-- Write k of an initialisation pass. -/
def passAccess (c : Tables) (p : Dyn) (kind : PassKind) (k : Nat) : Access :=
  match locate kind.regions k with
  | some (q, w) => partWrite q w (passWord c p (k != 0) q w)
  | none => partWrite 0 1 (summaryWord true p)

/-- The access that a job begins now, with the values that stand (R138). -/
def accessOf (c : Tables) (p : Dyn) : Job → Access
  | .forwarded t => ⟨t.page, t.word, t.write, t.hi, t.lo, if t.write then t.data else 0⟩
  | .slot g false => partWrite (slotPage g) (slotWord g 1) (commandWord c p g)
  | .slot g true => partWrite (slotPage g) (slotWord g 2) (slotStamp c p g)
  | .refresh d _ _ g _ => partWrite (slotPage g) (slotWord g 2) (stampWord (p.dams.get d).sequence (p.gates.get g))
  | .portal j k => portalAccess c j k
  | .log r w k => logAccess r w k
  | .gateMirror g k _ =>
    partWrite (gateMirrorPage g) (gateMirrorWord g k) (gateMirrorValue (c.decimal (slotPage g)) (p.gates.get g) k)
  | .reachMirror r k _ => partWrite 9 (reachMirrorWord r k) (reachMirrorValue c p r k)
  | .summary => partWrite 0 1 (summaryWord true p)
  | .pass kind k => passAccess c p kind k

/-- The job at its next access; none after its last. -/
def Job.next : Job → Option Job
  | .forwarded _ => none
  | .slot g stamp => if stamp then none else some (.slot g true)
  | .refresh d o counts _ rest =>
    match rest with
    | [] => none
    | g :: gs => some (.refresh d o counts g gs)
  | .portal j k => if k ≤ j.echoes.length then some (.portal j (k + 1)) else none
  | .log r w k => if k < 8 then some (.log r w (k + 1)) else none
  | .gateMirror g k failed => if h : k.val + 1 < 4 then some (.gateMirror g ⟨k.val + 1, h⟩ failed) else none
  | .reachMirror r k failed => if h : k.val + 1 < 8 then some (.reachMirror r ⟨k.val + 1, h⟩ failed) else none
  | .summary => none
  | .pass kind k => if k + 1 < kind.length then some (.pass kind (k + 1)) else none

/-- The port takes up a job, beginning its access. -/
def begin (c : Tables) (j : Job) (p : Dyn) : Dyn := { p with running := some ⟨j, accessOf c p j⟩ }

/-! ### Waiting jobs (R136, R137, R153) -/

/-- A waiting job, as the arbiter sees it. -/
inductive Waiting where
  | refresh (d : DamId)
  | forwarded (t : Transaction)
  | slot (g : GateId)
  | portal (j : PortalJob) (rest : List PortalJob)
  | log (r : LogRecord) (rest : List LogRecord)
  | gateMirror (g : GateId)
  | reachMirror (r : ReachId)
  | summary
deriving DecidableEq, Repr

/-- The older of two marks with their indexes; the first on a tie. -/
def olderMark {α : Type} (x y : Option (α × Nat)) : Option (α × Nat) :=
  match x, y with
  | none, _ => y
  | some a, none => some a
  | some a, some b => if b.2 < a.2 then some b else some a

/-- The oldest mark of a set, ascending on ties (R137). -/
def oldestMark {n : Nat} (marks : Vector (Option Nat) n) : Option (Fin n × Nat) :=
  (List.finRange n).foldl (fun best i => olderMark best ((marks.get i).map fun t => (i, t))) none

/-- The oldest marked mirror across the three kinds (R137). -/
def oldestMirror (p : Dyn) : Option Waiting :=
  let gate := (oldestMark p.gateMirrorMarks).map fun x => (Waiting.gateMirror x.1, x.2)
  let reach := (oldestMark p.reachMirrorMarks).map fun x => (Waiting.reachMirror x.1, x.2)
  let summary := p.summaryMark.map fun t => (Waiting.summary, t)
  (olderMark (olderMark gate reach) summary).map (·.1)

/-- The class of an offered refresh (R116, R117, Table 8-1); none where the debt or the mode offers none. -/
def refreshClass (p : Dyn) : Option Nat :=
  match p.mode with
  | .config => none
  | .hold => some 1
  | .exiting => some 1
  | .run => if 5 ≤ p.debt then some 1 else if 1 ≤ p.debt then some 7 else if -3 ≤ p.debt then some 8 else none

/-- The offered refresh, if it stands in class k. -/
def refreshAt (k : Nat) (p : Dyn) : Option Waiting :=
  match p.offer with
  | some d => if refreshClass p = some k then some (.refresh d) else none
  | none => none

/-- The forwarded transaction that waits: the one in hand. -/
def waitingTransaction (p : Dyn) : Option Waiting := p.hand.map .forwarded

/-- The oldest portal job (R137). -/
def waitingPortal (p : Dyn) : Option Waiting :=
  match p.portalJobs with
  | [] => none
  | j :: js => some (.portal j js)

/-- The oldest record, while the ring has room (R153). -/
def waitingRecord (p : Dyn) : Option Waiting :=
  match p.logBuffer with
  | [] => none
  | r :: rs => if p.logWrite + 1 = p.logRead then none else some (.log r rs)

/-- The head of each class of Table 8-1 that has a job waiting, highest class first. -/
def waitingHeads (p : Dyn) : List Waiting :=
  [refreshAt 1 p, waitingTransaction p, (oldestMark p.slotMarks).map fun x => .slot x.1, waitingPortal p,
    waitingRecord p, oldestMirror p, refreshAt 7 p, refreshAt 8 p].reduceOption

/-- A portal job does not go ahead of a marked slot (R139). -/
def Waiting.notPortal : Waiting → Bool
  | .portal _ _ => false
  | _ => true

/-- The jobs that a free port may take first of those that one event has offered (R136, R139). -/
def offeredTogether (p : Dyn) : List Waiting :=
  if (oldestMark p.slotMarks).isSome then (waitingHeads p).filter Waiting.notPortal else waitingHeads p

/-! ### Grants (R114, R136, R138, R154) -/

/-- The gates of dam d in service, ascending (R114). -/
def gatesOfDam (c : Tables) (p : Dyn) (d : DamId) : List GateId :=
  (List.finRange 48).filter fun g => (p.gates.get g).inService && (c.gates.get g).inDam d

/-- Where a refresh granted in a mode was offered. -/
def refreshOrigin : Mode → RefreshOrigin
  | .run => .run
  | .hold => .hold
  | .exiting => .pass
  | .config => .run

/-- A refresh of RUN counts toward the debt and one of the pass toward the pass; one of HOLD counts toward nothing. -/
def RefreshOrigin.counts : RefreshOrigin → Bool
  | .run => true
  | .pass => true
  | .hold => false

/-- A refresh of dam d is granted (R114): the sequence advances and the mirror of reach d is marked. With no gate in
service the job completes with no writes. The gates to write are settled here: one that leaves service and enters it again
before its own write is written, with dam d's sequence even where its dam field has been rewritten. DESIGN CHOICE, safe
(log entry 38). -/
def grantRefresh (c : Tables) (d : DamId) (p : Dyn) : Dyn :=
  let x := p.dams.get d
  let p1 := markReach d (putDam d { x with sequence := x.sequence + 1 } { p with offer := none })
  let o := refreshOrigin p.mode
  match gatesOfDam c p d with
  | [] => refreshComplete c d o.counts p1
  | g :: gs => begin c (.refresh d o o.counts g gs) p1

/-- A waiting job is granted: its mark is cleared, or it leaves its queue or buffer (R138, R154), and it begins its first
access. -/
def grantJob (c : Tables) (w : Waiting) (p : Dyn) : Dyn :=
  match w with
  | .refresh d => grantRefresh c d p
  | .forwarded t => begin c (.forwarded t) p
  | .slot g => begin c (.slot g false) { p with slotMarks := Table.put p.slotMarks g none }
  | .portal j rest => begin c (.portal j 0) { p with portalJobs := rest }
  | .log r rest => begin c (.log r p.logWrite 0) { p with logBuffer := rest }
  | .gateMirror g => begin c (.gateMirror g 0 none) { p with gateMirrorMarks := Table.put p.gateMirrorMarks g none }
  | .reachMirror r => begin c (.reachMirror r 0 none) { p with reachMirrorMarks := Table.put p.reachMirrorMarks r none }
  | .summary => begin c .summary { p with summaryMark := none }

/-- Grants by class until a job holds the port or none waits (R136, R137). A refresh with no writes completes at once and
frees the port again. `fuel` bounds those. -/
def grantByClass (c : Tables) : Nat → Dyn → Dyn
  | 0, p => p
  | fuel + 1, p =>
    if p.running.isSome then p
    else
      match (waitingHeads p).head? with
      | none => p
      | some w => grantByClass c fuel (grantJob c w p)

/-- A bound on the grants of one event: empty pass refreshes, at most one for each dam, then empty refreshes of RUN from
the debt down to -4, and one job that holds the port. -/
def grantFuel (p : Dyn) : Nat := (p.debt + 4).toNat + 13

/-- The arbiter after an event that has been taken whole (log entry 41). Where the port was free when the event began, the jobs that the event offers arrive at a
free port and the first to arrive is granted: which of them is a free value (R136, log entry 5). -/
def arbitrate (c : Tables) (wasFree : Bool) (p : Dyn) : Dyn :=
  if p.running.isSome then p
  else if wasFree then
    let ws := offeredTogether p
    match ws[Config.offerOrder p.moment % ws.length]? with
    | none => p
    | some w => grantByClass c (grantFuel p) (grantJob c w p)
  else grantByClass c (grantFuel p) p

/-! ### Answers of the store (R133, R135, R140) -/

/-- A REFUSAL record (R130, Table 10-1). Its Value is the sixteen data bits as presented, also on a lane that a WRITE has
off. DESIGN CHOICE, safe (log entry 40). -/
def refusalRecord (t : Transaction) (code : Code) (detail : Nat) (p : Dyn) : LogRecord where
  kind := .refusal
  code := BitVec.ofNat 5 code.number
  master := t.master
  page := t.page
  qualifier := if t.write then 1 else 0
  subject := BitVec.ofNat 8 t.word.val
  value := if t.write then t.data else 0
  tick := p.tick
  detail := BitVec.ofNat 16 detail
  context := match gateNamed t.page t.word with | some g => .gate (p.gates.get g).state | none => .mode p.mode

/-- A transaction is answered. -/
def answerWith (m : MasterId) (r : BusResult) (p : Dyn) : Dyn := { p with hand := none, answer := some ⟨m, r⟩ }

/-- A transaction is refused with a code (R121, R130). -/
def refuseTransaction (t : Transaction) (code : Code) (detail : Nat) (p : Dyn) : Dyn :=
  formRecord (refusalRecord t code detail p) (answerWith t.master (.refused code) p)

/-- A STORE_FAULT is raised for an access, with its gate or none. -/
def raiseStoreFault (c : Tables) (a : Access) (g : Option GateId) (p : Dyn) : Dyn := raise c (storeFaultEvent a g p) p

/-- The gate whose ORDER echo is write k of a portal job. -/
def PortalJob.echoGate (j : PortalJob) (k : Nat) : Option GateId := j.echoes[k]?.map (·.1)

/-- A refresh write of gate g was answered ERROR (R118). -/
def refreshWriteFailed (c : Tables) (g : GateId) (a : Access) (p : Dyn) : Dyn :=
  if (p.gates.get g).state == .faulted then p else raiseStoreFault c a (some g) p

/-- What an ERROR answer does at once (Table 8-3). Mirrors report at completion, and a forwarded transaction is answered
there. -/
def accessFailed (c : Tables) (j : Job) (a : Access) (p : Dyn) : Dyn :=
  match j with
  | .forwarded _ => p
  | .slot g _ => slotWriteFailed c g a p
  | .refresh _ _ _ g _ => refreshWriteFailed c g a p
  | .portal j k => raiseStoreFault c a (j.echoGate k) p
  | .log _ _ _ => setLogLost p
  | .gateMirror _ _ _ => p
  | .reachMirror _ _ _ => p
  | .summary => p
  | .pass _ _ => { p with passFailed := min 65535 (p.passFailed + 1) }

/-- A mirror job keeps the first access that was answered ERROR (Table 8-3). -/
def Job.answered (j : Job) (a : Access) (ans : StoreAnswer) : Job :=
  match ans, j with
  | .error, .gateMirror g k failed => .gateMirror g k (failed.or (some a))
  | .error, .reachMirror r k failed => .reachMirror r k (failed.or (some a))
  | _, j => j

/-- The RESET record (R133, Table 10-1). -/
def resetRecord (kind : PassKind) (p : Dyn) : LogRecord where
  kind := .reset
  code := match kind with | .powerOn => 0 | .resetLine => 1
  master := 0
  page := 0
  qualifier := 0
  subject := Subject.none.byte
  value := BitVec.ofNat 16 p.passFailed
  tick := p.tick
  detail := 0
  context := .mode .config

/-- The pass ends (R131, R133). -/
def endPass (c : Tables) (kind : PassKind) (p : Dyn) : Dyn :=
  let p1 := { p with passKind := none, powerOnUnfinished := if kind == .powerOn then false else p.powerOnUnfinished }
  let p2 := reevaluateAll c ((List.finRange 6).filter fun d => decide (d.val ≤ c.lastDam.val))
    (formRecord (resetRecord kind p1) p1)
  { p2 with refreshTimer := .running c.refreshInterval.toNat }

/-- The word that a forwarded transaction is answered with (R129). -/
def forwardedAnswer (t : Transaction) (data : Word) : BusResult := if t.write then .doneWrite else .doneRead data

/-- A job's last access has been answered, and the port is free. `data` is what the store returned to a READ. -/
def jobComplete (c : Tables) (j : Job) (a : Access) (ans : StoreAnswer) (data : Word) (p : Dyn) : Dyn :=
  match j with
  | .forwarded t =>
    match ans with
    | .ok => answerWith t.master (forwardedAnswer t data) p
    | .error => refuseTransaction t .storeError 0 p
  | .slot _ _ => p
  | .refresh d _ counts _ _ => refreshComplete c d counts p
  | .portal j _ =>
    { p with portals := Table.put p.portals j.portal { p.portals.get j.portal with busy := false } }
  | .log _ w _ => { p with logWrite := w + 1 }
  | .gateMirror g _ (some f) => raiseStoreFault c f (some g) p
  | .gateMirror _ _ none => p
  | .reachMirror _ _ (some f) => raiseStoreFault c f none p
  | .reachMirror _ _ none => p
  | .summary =>
    match ans with
    | .ok => p
    | .error => raiseStoreFault c a none p
  | .pass kind _ => endPass c kind p

/-- The job goes on with its next access, or is complete. -/
def jobGoesOn (c : Tables) (j : Job) (a : Access) (ans : StoreAnswer) (data : Word) (p : Dyn) : Dyn :=
  match j.next with
  | some j1 => begin c j1 p
  | none => jobComplete c j a ans data { p with running := none }

/-- The job in progress, which an ENTER_HOLD of the same event may have made count toward nothing (R111). So an ERROR to
the last STAMP of the exit pass, with STORE_FAULT linked to ENTER_HOLD, abandons the pass (R119, the action first), and one
to the last STAMP of a refresh of RUN leaves the debt unpaid. DESIGN CHOICE, unsafe (log entry 39). -/
def jobNow (p : Dyn) (j : Job) : Job :=
  match p.running with
  | some r => r.job
  | none => j

/-- The store answers the access in progress (R135 to R140): the ERROR effects with their link actions (log entry 39), the
next access or the completion, and the next grant. -/
def takeAnswer (c : Tables) (r : Running) (ans : StoreAnswer) (data : Word) (p : Dyn) : Dyn :=
  let p1 := match ans with
    | .ok => p
    | .error => accessFailed c r.job r.access p
  arbitrate c false (jobGoesOn c ((jobNow p1 r.job).answered r.access ans) r.access ans data p1)

/-- The transaction of a job, for what a READ returns. -/
def Job.readWord (j : Job) (m : Memory) (moment : Nat) : Word :=
  match j with
  | .forwarded t => readData m t moment
  | _ => 0

/-- The event counter one on. -/
def Dyn.advance (p : Dyn) : Dyn := { p with moment := p.moment + 1 }

/-- The store answers an access of a job that `kind` recognises. An answer that matches no access in progress changes
nothing (log entry 12). -/
def accessDone (kind : Job → Bool) (ans : StoreAnswer) (s : State) : State :=
  match s.dyn.running with
  | none => s
  | some r =>
    if kind r.job then
      let p := s.dyn.advance
      { s with
        store := storeAfter s.store r.job r.access ans p.moment
        dyn := takeAnswer s.tables r ans (r.job.readWord s.store p.moment) p }
    else s

end Sys2Proof.Machine
end

