-- ==== Sys2Proof/Machine/Bus.lean ====
section
/-! DEFINITION. Passage on the station bus (Section 7): the access checks, refusal, dispatch to the handlers of Table
7-6, and how one event is taken whole. -/

namespace Sys2Proof.Machine

/-! ### One event -/

/-- An event that touches no configuration: the event counter advances, the event is taken, and the arbiter grants what
it may. The grants come once the event has been taken whole: a record that it forms stays in the buffer until then, also
at a free port, so that a record which finds eight there is dropped (R153). DESIGN CHOICE, unsafe (log entry 41). -/
def inEvent (f : Tables → Dyn → Dyn) (s : State) : State :=
  { s with dyn := arbitrate s.tables s.dyn.running.isNone (f s.tables s.dyn.advance) }

/-! ### The access checks (R125 to R127) -/

/-- Check 7 (R126): both lanes are on, or the page is PLAIN. -/
def lanesAllowed (t : Transaction) : Bool := (t.hi && t.lo) || pageKind t.page == .plain

/-- The first check of Table 7-4 that a transaction fails, then the level requirement of R127. -/
def accessCheck (c : Tables) (p : Dyn) (t : Transaction) : Option Code :=
  let m := c.masters.get t.master
  let d := c.descriptors.get t.page
  if p.passKind.isSome then some .notReady
  else if !m.enabled then some .masterOff
  else if t.odd then some .misaligned
  else if !d.present then some .notPresent
  else if d.limit.toNat ≤ t.word.val then some .beyondLimit
  else if (if t.write then d.writeLevel else d.readLevel).toNat < m.level.toNat then some .level
  else if t.write && !lanesAllowed t then some .partialWrite
  else if t.write && partOwned t.page t.word then some .partOwned
  else if t.write && needsLevelZero t.page t.word && m.level != 0 then some .level
  else none

/-- A transaction that an access check refuses (R130): NOT_READY makes no record and changes nothing (R131). -/
def refuseAtCheck (t : Transaction) (code : Code) (p : Dyn) : Dyn :=
  if code = .notReady then answerWith t.master (.refused code) p else refuseTransaction t code 0 p

/-- A taken transaction waits for its store access (R129). -/
def takeInHand (t : Transaction) (p : Dyn) : Dyn := { p with hand := some t }

/-! ### Dispatch (R128) -/

/-- A handler: what a block does with the written data. -/
abbrev Handler := Tables → Dyn → Handled

/-- A word with no handler is forwarded at once (R128). -/
def handlePlain (c : Tables) (p : Dyn) : Handled := .taken c p

/-- The handler of a written word (Table 7-6), for the master that wrote it. -/
def handlerOf (m : MasterId) (data : Word) : WriteTarget → Handler
  | .mode => handleMode data
  | .lastDam => handleLastDam data
  | .refreshInterval => handleRefreshInterval data
  | .keepMask => handleKeepMask data
  | .logReadIndex => handleLogReadIndex data
  | .alarmClear => handleAlarmClear data
  | .masterEntry e => handleMasterEntry e data
  | .descriptor q => handleDescriptor q data
  | .serviceControl g => handleServiceControl g data
  | .gateConfig g i => handleGateConfig g i data
  | .damDwell d k => handleDamDwell d k data
  | .holdControl d => handleHoldControl d data
  | .refreshKeep d => handleRefreshKeep d data
  | .reachWord r i => handleReachWord r i data
  | .matrix i => handleMatrix i data
  | .portalConfig q i => handlePortalConfig q i data
  | .condition k i => handleCondition k i data
  | .link l i => handleLink l i data
  | .order g => fun c p => handleOrder g (levelOf c m) data c p
  | .feedback g => handleFeedback g data
  | .sensor r k => handleSensor r k data
  | .statusWord n => handleStatusWord n data
  | .portalHeader q => handlePortalHeader q m data
  | .portalItem q i => handlePortalItem q i data
  | .plain => handlePlain
  | .unreached => handlePlain

/-- ORDER_REFUSED(g) is offered to the links after the refusal's record is formed (R59, log entry 28). -/
def offerOrderRefused (c : Tables) (g : Option GateId) (p : Dyn) : Dyn :=
  match g with
  | some g => offerLinks c .orderRefused (.gate g) p
  | none => p

/-- What follows a handler (R128): the refusal and its record, or the transaction in hand. -/
def afterHandler (t : Transaction) (c : Tables) (h : Handled) : Tables × Dyn :=
  match h with
  | .refused code detail g p => (c, offerOrderRefused c g (refuseTransaction t code detail p))
  | .taken c1 p => (c1, takeInHand t p)

/-- A WRITE that has been presented is examined and, if the checks pass, handled (R121, R125 to R128). -/
def writeTaken (t : Transaction) (h : Handler) (c : Tables) (p : Dyn) : Tables × Dyn :=
  match accessCheck c p t with
  | some code => (c, refuseAtCheck t code p)
  | none => afterHandler t c (h c p)

/-- A transaction arrives: the event counter advances and no answer stands (R121). -/
def presented (p : Dyn) : Dyn := { p.advance with answer := none }

/-- A WRITE is presented. While another transaction is in hand no transaction is presented (R121, log entry 1). -/
def presentWrite (t : Transaction) (h : Handler) (s : State) : State :=
  if s.dyn.hand.isSome then s
  else
    let r := writeTaken t h s.tables (presented s.dyn)
    { s with tables := r.1, dyn := arbitrate r.1 s.dyn.running.isNone r.2 }

/-- A READ is examined: refused, or forwarded (R125). -/
def readTaken (t : Transaction) (c : Tables) (p : Dyn) : Dyn :=
  match accessCheck c p t with
  | some code => refuseAtCheck t code p
  | none => takeInHand t p

/-- A READ is presented (R121, log entry 1). -/
def presentRead (t : Transaction) (s : State) : State :=
  if s.dyn.hand.isSome then s
  else { s with dyn := arbitrate s.tables s.dyn.running.isNone (readTaken t s.tables (presented s.dyn)) }

/-- The WRITE transaction of a row's operands to a page and word. -/
def writeTransaction (q : PageId) (x : WordIdx) (w : BusWrite) : Transaction :=
  ⟨w.master, q, x, w.odd, w.hi, w.lo, true, w.data⟩

/-- A WRITE to the word of a target, handled by that target's handler. -/
def writeTo (target : WriteTarget) (w : BusWrite) (s : State) : State :=
  presentWrite (writeTransaction target.place.1 target.place.2 w) (handlerOf w.master w.data target) s

/-- A WRITE to any byte address, handled by the handler of the word it names (Table 7-6). -/
def writeAt (address : BitVec 16) (m : MasterId) (hi lo : Bool) (data : Word) (s : State) : State :=
  presentWrite ⟨m, addressPage address, addressWord address, addressOdd address, hi, lo, true, data⟩
    (handlerOf m data (targetOf (addressPage address) (addressWord address))) s

/-- A READ of any byte address. -/
def readAt (address : BitVec 16) (m : MasterId) (hi lo : Bool) (s : State) : State :=
  presentRead ⟨m, addressPage address, addressWord address, addressOdd address, hi, lo, false, 0⟩ s

end Sys2Proof.Machine
end

