-- ==== Sys2Proof/Machine/Time.lean ====
section
/-! DEFINITION. The TICK input, the expiries of the timers that count it, the ageing of tick records (R8, R9, R17, R21,
R41, R73, R80, R113), and the two resets (R131, R132, R134). -/

namespace Sys2Proof.Machine

/-! ### Expiries. Each acts only while it is due (log entries 10 and 11). -/

/-- An event that is taken only while a condition holds; else nothing changes. -/
def inEventIf (due : Tables → Dyn → Bool) (f : Tables → Dyn → Dyn) (s : State) : State :=
  if due s.tables s.dyn then inEvent f s else s

/-- Gate g's lag timer has reached its expiry arrival. -/
def lagDue (g : GateId) (_ : Tables) (p : Dyn) : Bool := (p.gates.get g).lagTimer.due

/-- Gate g's recovery timer has reached its expiry arrival. -/
def recoveryDue (g : GateId) (_ : Tables) (p : Dyn) : Bool := (p.gates.get g).recoveryTimer.due

/-- Dam d's dwell timer has reached its expiry arrival. -/
def dwellDue (d : DamId) (_ : Tables) (p : Dyn) : Bool := (p.dams.get d).dwellTimer.due

/-- A sample's freshness timer has reached its expiry arrival. -/
def sampleDue (r : ReachId) (k : Sensor) (_ : Tables) (p : Dyn) : Bool := ((p.reaches.get r).sample k).timer.due

/-- The refresh interval timer has reached its expiry arrival. -/
def refreshDue (_ : Tables) (p : Dyn) : Bool := p.refreshTimer.due

/-- Gate g's last grant tick is 65,535 ticks old (R73). -/
def grantTickDue (g : GateId) (_ : Tables) (p : Dyn) : Bool := aged p.tick (p.gates.get g).lastGrant

/-- An entry of dam d's step history is 65,535 ticks old (R80). -/
def historyDue (d : DamId) (dir : Direction) (_ : Tables) (p : Dyn) : Bool := aged p.tick ((p.dams.get d).lastStep dir)

/-- LAG_TIMER_EXPIRY(g) (R17). -/
def lagExpiry (g : GateId) : State → State := inEventIf (lagDue g) fun c => lagExpires c g

/-- RECOVERY_EXPIRY(g) (R9): a gate that becomes MOVING may join the queue (R75). -/
def recoveryExpiry (g : GateId) : State → State :=
  inEventIf (recoveryDue g) fun c p => schedule c p false (recoveryEnds c g p)

/-- WARNING_DWELL_EXPIRY(d) (R21): gates that become MOVING may join the queue (R75, R76). -/
def warningDwellExpiry (d : DamId) : State → State :=
  inEventIf (dwellDue d) fun c p => schedule c p false (dwellEnds c d p)

/-- SAMPLE_EXPIRY of one sensor of reach r (R41). -/
def sampleExpiry (r : ReachId) (k : Sensor) : State → State := inEventIf (sampleDue r k) fun c => sampleExpires c r k

/-- REFRESH_INTERVAL_EXPIRY (R113). -/
def refreshIntervalExpiry : State → State := inEventIf refreshDue refreshExpires

/-- STEP_INTERVAL_ELAPSED(g) (R73, R75): the gates up to g whose intervals have elapsed and that wait to join do so in
ascending order, and a scan follows (R76, R82, log entry 13). -/
def stepIntervalElapse (g : GateId) : State → State :=
  inEventIf (fun c p => stepIntervalElapsed c p g) fun c => joinAndScan c (fun i => decide (i.val ≤ g.val)) false

/-- Gate g's last grant tick made absent (R73). -/
def dropGrantTick (g : GateId) (p : Dyn) : Dyn :=
  { p with gates := Table.put p.gates g { p.gates.get g with lastGrant := none } }

/-- LAST_GRANT_TICK_AGED(g) (R73). -/
def grantTickAged (g : GateId) : State → State := inEventIf (grantTickDue g) fun _ => dropGrantTick g

/-- A dam's step history with one entry made absent. -/
def Dam.withoutStep (x : Dam) (dir : Direction) : Dam :=
  match dir with
  | .opening => { x with lastOpen := none }
  | .closing => { x with lastClose := none }

/-- STEP_HISTORY_AGED for one entry of dam d (R80). -/
def historyAged (d : DamId) (dir : Direction) : State → State :=
  inEventIf (historyDue d dir) fun _ p => putDam d ((p.dams.get d).withoutStep dir) p

/-! ### TICK (R8) -/

/-- Every expiry still due, in a fixed order, each as an event of its own (log entry 10). -/
def takeDue (s : State) : State :=
  let s := (List.finRange 48).foldl (fun s g => lagExpiry g s) s
  let s := (List.finRange 48).foldl (fun s g => recoveryExpiry g s) s
  let s := (List.finRange 6).foldl (fun s d => warningDwellExpiry d s) s
  let s := (List.finRange 6).foldl (fun s r => sampleExpiry r .b (sampleExpiry r .a s)) s
  let s := refreshIntervalExpiry s
  let s := (List.finRange 6).foldl (fun s d => historyAged d .closing (historyAged d .opening s)) s
  let s := (List.finRange 48).foldl (fun s g => grantTickAged g s) s
  if (List.finRange 48).any fun g => joinable s.tables s.dyn g then
    inEvent (fun c => joinAndScan c (fun _ => true) false) s
  else s

/-- A gate's timers after one arrival. -/
def Gate.counted (x : Gate) : Gate := { x with lagTimer := x.lagTimer.count, recoveryTimer := x.recoveryTimer.count }

/-- A dam's timer after one arrival. -/
def Dam.counted (x : Dam) : Dam := { x with dwellTimer := x.dwellTimer.count }

/-- A sample's timer after one arrival. -/
def Sample.counted (x : Sample) : Sample := { x with timer := x.timer.count }

/-- A reach's timers after one arrival. -/
def Reach.counted (x : Reach) : Reach := { x with a := x.a.counted, b := x.b.counted }

/-- One TICK arrival counted: the tick count and every running timer (R8, R41, R113, R152). -/
def countArrival (p : Dyn) : Dyn :=
  { p with
    tick := p.tick + 1
    gates := Table.tab fun g => (p.gates.get g).counted
    dams := Table.tab fun d => (p.dams.get d).counted
    reaches := Table.tab fun r => (p.reaches.get r).counted
    refreshTimer := p.refreshTimer.count }

/-- A TICK arrival (R8, R82): the count, then a scan while the queue is not empty. -/
def tickArrival (c : Tables) (p : Dyn) : Dyn :=
  let p1 := countArrival p
  if p1.queue.isEmpty then p1 else scan c p1

/-- TICK: what the arrival before left due is taken first (log entry 10). -/
def tickEvent (s : State) : State := inEvent tickArrival (takeDue s)

/-! ### Resets (R131, R132, R134, R142) -/

/-- The answer that a reset gives a transaction in hand (R134). -/
def resetAnswer (hand : Option Transaction) : Option BusAnswer := hand.map fun t => ⟨t.master, .refused .notReady⟩

/-- PORST (R131, R134): every configuration and every dynamic field at its reset value, and the power-on pass begun. -/
def powerOn (s : State) : State :=
  let n := s.dyn.moment + 1
  { s with
    tables := .powerOn
    dyn := .initial .powerOn .powerOn 0 0 (resetAnswer s.dyn.hand) n
    store := storeAbandoned s.store s.dyn.running n }

/-- The pass that a reset line makes (R131): a power-on pass while one is unfinished. -/
def resetLineKind (p : Dyn) : PassKind := if p.powerOnUnfinished then .powerOn else .resetLine

/-- RST_N (R132, R134): the configuration and the log indexes are kept. -/
def resetLine (s : State) : State :=
  let n := s.dyn.moment + 1
  { s with
    dyn := .initial s.tables (resetLineKind s.dyn) s.dyn.logWrite s.dyn.logRead (resetAnswer s.dyn.hand) n
    store := storeAbandoned s.store s.dyn.running n }

/-! ### Output lines (Table 9-3) -/

/-- HOLDd (R24). -/
def holdLine (p : Dyn) (d : DamId) : Bool := (p.dams.get d).hold

/-- WARNd (R20 to R23). -/
def warnLine (p : Dyn) (d : DamId) : Bool := (p.dams.get d).warning != .silent

/-- ALMk (R149). -/
def alarmLine (p : Dyn) (k : AlarmId) : Bool := p.alarms.get k

/-- ALERT (R155): released while a pass runs, then asserted while the log indexes differ. -/
def alertLine (p : Dyn) : Bool := p.passKind.isNone && p.logWrite != p.logRead

end Sys2Proof.Machine
end

