-- ==== Sys2Proof/Machine/Rows.lean ====
section
/-! DEFINITION. The meaning of each command: one definition for each row of spec/opcode_table.json, over the shared
operations, and the transaction that a bus command presents. -/

namespace Sys2Proof.Machine

/-- What a command answers: no command of this hardware stops (INVENTORY, Faults). -/
abbrev Result := Host.Outcome State Fault Refusal

/-! ### Which job an answer is for (R136) -/

/-- A forwarded transaction. -/
def Job.isForwarded : Job → Bool
  | .forwarded _ => true
  | _ => false

/-- A gate slot write. -/
def Job.isSlot : Job → Bool
  | .slot _ _ => true
  | _ => false

/-- A refresh. -/
def Job.isRefresh : Job → Bool
  | .refresh _ _ _ _ _ => true
  | _ => false

/-- A portal job. -/
def Job.isPortal : Job → Bool
  | .portal _ _ => true
  | _ => false

/-- A log record. -/
def Job.isLog : Job → Bool
  | .log _ _ _ => true
  | _ => false

/-- A gate mirror, a reach and dam mirror or the status summary. -/
def Job.isMirror : Job → Bool
  | .gateMirror _ _ _ => true
  | .reachMirror _ _ _ => true
  | .summary => true
  | _ => false

/-- An initialisation pass. -/
def Job.isPass : Job → Bool
  | .pass _ _ => true
  | _ => false

/-! ### Resets (7.7) -/

/-- POWER_ON_RESET (R131, R134). -/
def execPowerOnReset (s : State) : Result := .next (powerOn s)

/-- RESET_LINE (R132, R134). -/
def execResetLine (s : State) : Result := .next (resetLine s)

/-! ### Time (R8) -/

/-- TICK (R8, R82). -/
def execTick (s : State) : Result := .next (tickEvent s)

/-- LAG_TIMER_EXPIRY (R17). -/
def execLagTimerExpiry (g : GateId) (s : State) : Result := .next (lagExpiry g s)

/-- RECOVERY_EXPIRY (R9). -/
def execRecoveryExpiry (g : GateId) (s : State) : Result := .next (recoveryExpiry g s)

/-- WARNING_DWELL_EXPIRY (R21). -/
def execWarningDwellExpiry (d : DamId) (s : State) : Result := .next (warningDwellExpiry d s)

/-- SAMPLE_EXPIRY (R41). -/
def execSampleExpiry (r : ReachId) (k : Sensor) (s : State) : Result := .next (sampleExpiry r k s)

/-- REFRESH_INTERVAL_EXPIRY (R113, R115, R117). -/
def execRefreshIntervalExpiry (s : State) : Result := .next (refreshIntervalExpiry s)

/-- STEP_INTERVAL_ELAPSED (R73, R75). -/
def execStepIntervalElapsed (g : GateId) (s : State) : Result := .next (stepIntervalElapse g s)

/-- LAST_GRANT_TICK_AGED (R73). -/
def execLastGrantTickAged (g : GateId) (s : State) : Result := .next (grantTickAged g s)

/-- STEP_HISTORY_AGED (R80). -/
def execStepHistoryAged (d : DamId) (dir : Direction) (s : State) : Result := .next (historyAged d dir s)

/-! ### Control words of page 0 (R105 to R113, R122, R150, R155) -/

/-- MODE_WRITE_CONFIG (R106, R108). -/
def execModeWriteConfig (w : BusWrite) (s : State) : Result := .next (writeTo .mode w s)

/-- MODE_WRITE_RUN (R106, R107, R110). -/
def execModeWriteRun (w : BusWrite) (s : State) : Result := .next (writeTo .mode w s)

/-- MODE_WRITE_HOLD (R106, R109, R111). -/
def execModeWriteHold (w : BusWrite) (s : State) : Result := .next (writeTo .mode w s)

/-- LAST_DAM_WRITE (R112). -/
def execLastDamWrite (w : BusWrite) (s : State) : Result := .next (writeTo .lastDam w s)

/-- REFRESH_INTERVAL_WRITE (R113). -/
def execRefreshIntervalWrite (w : BusWrite) (s : State) : Result := .next (writeTo .refreshInterval w s)

/-- KEEP_MASK_WRITE (R113). -/
def execKeepMaskWrite (w : BusWrite) (s : State) : Result := .next (writeTo .keepMask w s)

/-- LOG_READ_INDEX_WRITE (R155). -/
def execLogReadIndexWrite (w : BusWrite) (s : State) : Result := .next (writeTo .logReadIndex w s)

/-- ALARM_CLEAR_WRITE (R150). -/
def execAlarmClearWrite (w : BusWrite) (s : State) : Result := .next (writeTo .alarmClear w s)

/-- MASTER_ENTRY_WRITE of the entry of master i + 1 (R122). -/
def execMasterEntryWrite (i : Fin 7) (w : BusWrite) (s : State) : Result :=
  .next (writeTo (.masterEntry ⟨i.val + 1, by omega⟩) w s)

/-! ### Table words (pages 1 to 7) -/

/-- DESCRIPTOR_WRITE (R124). -/
def execDescriptorWrite (p : PageId) (w : BusWrite) (s : State) : Result := .next (writeTo (.descriptor p) w s)

/-- GATE_CONFIG_WRITE of word i + 1 (R1). -/
def execGateConfigWrite (g : GateId) (i : Fin 7) (w : BusWrite) (s : State) : Result :=
  .next (writeTo (.gateConfig g i) w s)

/-- SERVICE_ENTRY (R3, R4). -/
def execServiceEntry (g : GateId) (w : BusWrite) (s : State) : Result := .next (writeTo (.serviceControl g) w s)

/-- SERVICE_EXIT (R5). -/
def execServiceExit (g : GateId) (w : BusWrite) (s : State) : Result := .next (writeTo (.serviceControl g) w s)

/-- DAM_DWELL_WRITE (R19). -/
def execDamDwellWrite (d : DamId) (k : Dwell) (w : BusWrite) (s : State) : Result :=
  .next (writeTo (.damDwell d k) w s)

/-- DAM_HOLD_SET (R19, R24). -/
def execDamHoldSet (d : DamId) (w : BusWrite) (s : State) : Result := .next (writeTo (.holdControl d) w s)

/-- DAM_HOLD_CLEAR (R19, R24). -/
def execDamHoldClear (d : DamId) (w : BusWrite) (s : State) : Result := .next (writeTo (.holdControl d) w s)

/-- REFRESH_KEEP_WRITE (R19). -/
def execRefreshKeepWrite (d : DamId) (w : BusWrite) (s : State) : Result := .next (writeTo (.refreshKeep d) w s)

/-- REACH_RECORD_WRITE (R28). -/
def execReachRecordWrite (r : ReachId) (i : Fin 11) (w : BusWrite) (s : State) : Result :=
  .next (writeTo (.reachWord r i) w s)

/-- STAGGER_MATRIX_WRITE (R79). -/
def execStaggerMatrixWrite (i : Fin 8) (w : BusWrite) (s : State) : Result := .next (writeTo (.matrix i) w s)

/-- PORTAL_CONFIG_WRITE (R91). -/
def execPortalConfigWrite (p : PortalId) (i : Fin 2) (w : BusWrite) (s : State) : Result :=
  .next (writeTo (.portalConfig p i) w s)

/-- INTERLOCK_CONDITION_WRITE (R67, R69). -/
def execInterlockConditionWrite (c : CondId) (i : Fin 2) (w : BusWrite) (s : State) : Result :=
  .next (writeTo (.condition c i) w s)

/-- LINK_ENTRY_WRITE (R145). -/
def execLinkEntryWrite (l : LinkId) (i : Fin 2) (w : BusWrite) (s : State) : Result := .next (writeTo (.link l i) w s)

/-! ### Gate, level, portal and plain words (pages 14 to 255) -/

/-- ORDER (R50 to R60). -/
def execOrder (g : GateId) (w : BusWrite) (s : State) : Result := .next (writeTo (.order g) w s)

/-- FEEDBACK_WRITE (R14). -/
def execFeedbackWrite (g : GateId) (w : BusWrite) (s : State) : Result := .next (writeTo (.feedback g) w s)

/-- SENSOR_WRITE (R39). -/
def execSensorWrite (r : ReachId) (k : Sensor) (w : BusWrite) (s : State) : Result :=
  .next (writeTo (.sensor r k) w s)

/-- STATUS_WORD_WRITE (R68, R69). -/
def execStatusWordWrite (n : StatusId) (w : BusWrite) (s : State) : Result := .next (writeTo (.statusWord n) w s)

/-- PORTAL_ITEM_WRITE of word i + 1 (R92, R94). -/
def execPortalItemWrite (p : PortalId) (i : Fin 125) (w : BusWrite) (s : State) : Result :=
  .next (writeTo (.portalItem p i) w s)

/-- PORTAL_HEADER_WRITE (R93 to R101). -/
def execPortalHeaderWrite (p : PortalId) (w : BusWrite) (s : State) : Result := .next (writeTo (.portalHeader p) w s)

/-- PLAIN_WRITE (R126, R128). -/
def execPlainWrite (address : BitVec 16) (m : MasterId) (hi lo : Bool) (data : Word) (s : State) : Result :=
  .next (writeAt address m hi lo data s)

/-! ### Answers of the store (R135) -/

/-- FORWARDED_ACCESS_COMPLETE (R129). -/
def execForwardedAccessComplete (a : StoreAnswer) (s : State) : Result := .next (accessDone Job.isForwarded a s)

/-- SLOT_WRITE_ACCESS_DONE (R18, R138, R140). -/
def execSlotWriteAccessDone (a : StoreAnswer) (s : State) : Result := .next (accessDone Job.isSlot a s)

/-- REFRESH_ACCESS_DONE (R114 to R118). -/
def execRefreshAccessDone (a : StoreAnswer) (s : State) : Result := .next (accessDone Job.isRefresh a s)

/-- PORTAL_JOB_ACCESS_DONE (R102). -/
def execPortalJobAccessDone (a : StoreAnswer) (s : State) : Result := .next (accessDone Job.isPortal a s)

/-- LOG_RECORD_ACCESS_DONE (R154). -/
def execLogRecordAccessDone (a : StoreAnswer) (s : State) : Result := .next (accessDone Job.isLog a s)

/-- MIRROR_WRITE_ACCESS_DONE (R140, R156 to R158). -/
def execMirrorWriteAccessDone (a : StoreAnswer) (s : State) : Result := .next (accessDone Job.isMirror a s)

/-- PASS_WRITE_ACCESS_DONE (R131 to R133). -/
def execPassWriteAccessDone (a : StoreAnswer) (s : State) : Result := .next (accessDone Job.isPass a s)

/-- STATION_BUS_READ (R125, R129). -/
def execStationBusRead (address : BitVec 16) (m : MasterId) (hi lo : Bool) (s : State) : Result :=
  .next (readAt address m hi lo s)

end Sys2Proof.Machine
end

