-- ==== Sys2Proof/Machine/Dispatch.lean ====
section
/-! DEFINITION. One arm for each command: the call of its meaning. -/

namespace Sys2Proof.Machine

def exec (i : Instr) (s : State) : Host.Outcome State Fault Refusal :=
  match i with
  | .powerOnReset => Sys2Proof.Machine.execPowerOnReset s
  | .resetLine => Sys2Proof.Machine.execResetLine s
  | .tick => Sys2Proof.Machine.execTick s
  | .lagTimerExpiry g => Sys2Proof.Machine.execLagTimerExpiry g s
  | .recoveryExpiry g => Sys2Proof.Machine.execRecoveryExpiry g s
  | .warningDwellExpiry d => Sys2Proof.Machine.execWarningDwellExpiry d s
  | .sampleExpiry r k => Sys2Proof.Machine.execSampleExpiry r k s
  | .refreshIntervalExpiry => Sys2Proof.Machine.execRefreshIntervalExpiry s
  | .stepIntervalElapsed g => Sys2Proof.Machine.execStepIntervalElapsed g s
  | .lastGrantTickAged g => Sys2Proof.Machine.execLastGrantTickAged g s
  | .stepHistoryAged d dir => Sys2Proof.Machine.execStepHistoryAged d dir s
  | .modeWriteConfig w => Sys2Proof.Machine.execModeWriteConfig w s
  | .modeWriteRun w => Sys2Proof.Machine.execModeWriteRun w s
  | .modeWriteHold w => Sys2Proof.Machine.execModeWriteHold w s
  | .lastDamWrite w => Sys2Proof.Machine.execLastDamWrite w s
  | .refreshIntervalWrite w => Sys2Proof.Machine.execRefreshIntervalWrite w s
  | .keepMaskWrite w => Sys2Proof.Machine.execKeepMaskWrite w s
  | .logReadIndexWrite w => Sys2Proof.Machine.execLogReadIndexWrite w s
  | .alarmClearWrite w => Sys2Proof.Machine.execAlarmClearWrite w s
  | .masterEntryWrite n w => Sys2Proof.Machine.execMasterEntryWrite n w s
  | .descriptorWrite p w => Sys2Proof.Machine.execDescriptorWrite p w s
  | .gateConfigWrite g n w => Sys2Proof.Machine.execGateConfigWrite g n w s
  | .serviceEntry g w => Sys2Proof.Machine.execServiceEntry g w s
  | .serviceExit g w => Sys2Proof.Machine.execServiceExit g w s
  | .damDwellWrite d k w => Sys2Proof.Machine.execDamDwellWrite d k w s
  | .damHoldSet d w => Sys2Proof.Machine.execDamHoldSet d w s
  | .damHoldClear d w => Sys2Proof.Machine.execDamHoldClear d w s
  | .refreshKeepWrite d w => Sys2Proof.Machine.execRefreshKeepWrite d w s
  | .reachRecordWrite r n w => Sys2Proof.Machine.execReachRecordWrite r n w s
  | .staggerMatrixWrite n w => Sys2Proof.Machine.execStaggerMatrixWrite n w s
  | .portalConfigWrite p n w => Sys2Proof.Machine.execPortalConfigWrite p n w s
  | .interlockConditionWrite c n w => Sys2Proof.Machine.execInterlockConditionWrite c n w s
  | .linkEntryWrite l n w => Sys2Proof.Machine.execLinkEntryWrite l n w s
  | .order g w => Sys2Proof.Machine.execOrder g w s
  | .feedbackWrite g w => Sys2Proof.Machine.execFeedbackWrite g w s
  | .sensorWrite r k w => Sys2Proof.Machine.execSensorWrite r k w s
  | .statusWordWrite n w => Sys2Proof.Machine.execStatusWordWrite n w s
  | .portalItemWrite p n w => Sys2Proof.Machine.execPortalItemWrite p n w s
  | .portalHeaderWrite p w => Sys2Proof.Machine.execPortalHeaderWrite p w s
  | .plainWrite address m hi lo data => Sys2Proof.Machine.execPlainWrite address m hi lo data s
  | .forwardedAccessComplete a => Sys2Proof.Machine.execForwardedAccessComplete a s
  | .slotWriteAccessDone a => Sys2Proof.Machine.execSlotWriteAccessDone a s
  | .refreshAccessDone a => Sys2Proof.Machine.execRefreshAccessDone a s
  | .portalJobAccessDone a => Sys2Proof.Machine.execPortalJobAccessDone a s
  | .logRecordAccessDone a => Sys2Proof.Machine.execLogRecordAccessDone a s
  | .mirrorWriteAccessDone a => Sys2Proof.Machine.execMirrorWriteAccessDone a s
  | .passWriteAccessDone a => Sys2Proof.Machine.execPassWriteAccessDone a s
  | .stationBusRead address m hi lo => Sys2Proof.Machine.execStationBusRead address m hi lo s

end Sys2Proof.Machine
end

