-- ==== Sys2Proof/Safety.lean ====
section
/-! DEFINITION. The vocabulary of the claims: which transaction a bus command presents, when it passes the access
checks, what a command gives when only the store port acts beside it, and the invariants of the part. -/

namespace Sys2Proof

/-- The word that a row's WRITE addresses, by its handler, with the row's operands; none for the rows that are not a
write of one handled word. -/
def Instr.write? : Instr → Option (Machine.WriteTarget × BusWrite)
  | .modeWriteConfig w => some (.mode, w)
  | .modeWriteRun w => some (.mode, w)
  | .modeWriteHold w => some (.mode, w)
  | .lastDamWrite w => some (.lastDam, w)
  | .refreshIntervalWrite w => some (.refreshInterval, w)
  | .keepMaskWrite w => some (.keepMask, w)
  | .logReadIndexWrite w => some (.logReadIndex, w)
  | .alarmClearWrite w => some (.alarmClear, w)
  | .masterEntryWrite i w => some (.masterEntry ⟨i.val + 1, by omega⟩, w)
  | .descriptorWrite p w => some (.descriptor p, w)
  | .gateConfigWrite g i w => some (.gateConfig g i, w)
  | .serviceEntry g w => some (.serviceControl g, w)
  | .serviceExit g w => some (.serviceControl g, w)
  | .damDwellWrite d k w => some (.damDwell d k, w)
  | .damHoldSet d w => some (.holdControl d, w)
  | .damHoldClear d w => some (.holdControl d, w)
  | .refreshKeepWrite d w => some (.refreshKeep d, w)
  | .reachRecordWrite r i w => some (.reachWord r i, w)
  | .staggerMatrixWrite i w => some (.matrix i, w)
  | .portalConfigWrite p i w => some (.portalConfig p i, w)
  | .interlockConditionWrite c i w => some (.condition c i, w)
  | .linkEntryWrite l i w => some (.link l i, w)
  | .order g w => some (.order g, w)
  | .feedbackWrite g w => some (.feedback g, w)
  | .sensorWrite r k w => some (.sensor r k, w)
  | .statusWordWrite n w => some (.statusWord n, w)
  | .portalItemWrite p i w => some (.portalItem p i, w)
  | .portalHeaderWrite p w => some (.portalHeader p, w)
  | _ => none

/-- The transaction that a bus command presents (Table 7-1). -/
def Instr.transaction? (i : Instr) : Option Machine.Transaction :=
  match i with
  | .plainWrite address m hi lo data =>
    some ⟨m, Machine.addressPage address, Machine.addressWord address, Machine.addressOdd address, hi, lo, true, data⟩
  | .stationBusRead address m hi lo =>
    some ⟨m, Machine.addressPage address, Machine.addressWord address, Machine.addressOdd address, hi, lo, false, 0⟩
  | i => i.write?.map fun x => Machine.writeTransaction x.1.place.1 x.1.place.2 x.2

/-- The byte address of a word (00_scope.md), odd where the transaction names its high byte. -/
def byteAddress (q : PageId) (w : WordIdx) (odd : Bool) : BitVec 16 :=
  BitVec.ofNat 16 (256 * q.val + 2 * w.val + odd.toNat)

namespace Machine

/-! ### Passing the access checks (Table 7-4, R127) -/

/-- A transaction passes every access check and the level requirement of R127. -/
structure Passes (c : Tables) (p : Dyn) (t : Transaction) : Prop where
  ready : p.passKind = none
  enabled : (c.masters.get t.master).enabled = true
  even : t.odd = false
  present : (c.descriptors.get t.page).present = true
  withinLimit : t.word.val < (c.descriptors.get t.page).limit.toNat
  level : (c.masters.get t.master).level.toNat ≤
    (if t.write then (c.descriptors.get t.page).writeLevel else (c.descriptors.get t.page).readLevel).toNat
  lanes : t.write = true → (t.hi = true ∧ t.lo = true) ∨ pageKind t.page = .plain
  owned : t.write = true → partOwned t.page t.word = false
  trusted : t.write = true → needsLevelZero t.page t.word = true → (c.masters.get t.master).level = 0

/-- The command presents a transaction at a port that holds none, and the transaction passes. -/
structure Accepted (i : Instr) (s : State) (t : Transaction) : Prop where
  presents : i.transaction? = some t
  noneInHand : s.dyn.hand = none
  passes : Passes s.tables s.dyn t

/-! ### What a command gives -/

/-- No job waits for the store port. -/
def noJobWaits (p : Dyn) : Bool := (waitingHeads p).isEmpty

/-- Whenever the port is free no job waits (R136): the invariant of the arbiter. -/
def PortIdle (s : State) : Prop := s.dyn.running = none → noJobWaits s.dyn = true

/-- The grants by class at the end of an event (R136, R137): nothing while a job holds the port or none waits; else the
waiting job of highest class is granted, and the grants go on from there. One grant that begins an access holds the port;
a refresh with no gate to write completes within its grant, and the next grant follows (R114; log entry 30). -/
inductive GrantedByClass (c : Tables) : Dyn → Dyn → Prop
  | busy (p : Dyn) : p.running.isSome = true → GrantedByClass c p p
  | idle (p : Dyn) : p.running = none → noJobWaits p = true → GrantedByClass c p p
  | grants (p q : Dyn) (w : Waiting) : p.running = none → (waitingHeads p).head? = some w →
    GrantedByClass c (grantJob c w p) q → GrantedByClass c p q

/-- What the arbiter may make of a state p that an event taken whole has left (that no grant comes before its end is the
model's choice, log entry 41): nothing while a job holds the port or none waits; else
one of the jobs offered together is granted (R136), and, where that was a refresh with no gate to write, the next by
class. -/
def Granted (c : Tables) (p q : Dyn) : Prop :=
  (q = p ∧ (p.running.isSome = true ∨ noJobWaits p = true)) ∨
    (p.running = none ∧ ∃ w ∈ offeredTogether p, GrantedByClass c (grantJob c w p) q)

/-- Command i at state s gives the tables c and the dynamic state p, and beside that the arbiter may grant a waiting
job. The store and the queue of commands are as they were. -/
def Gives (i : Instr) (s : State) (c : Tables) (p : Dyn) : Prop :=
  ∃ q, Granted c p q ∧ exec i s = .next { s with tables := c, dyn := q }

/-- The state after an event that changes nothing of the part's own: only the model's event counter has advanced. -/
def counted (s : State) : Dyn := { s.dyn with moment := s.dyn.moment + 1 }

/-- The state with a WRITE or READ taken and waiting for its store access, and nothing else changed. -/
def held (s : State) (t : Transaction) : Dyn := { counted s with hand := some t, answer := none }

/-- The state with a transaction refused: answered, and its REFUSAL record formed (R130); nothing else changed. -/
def refusedWith (s : State) (t : Transaction) (code : Code) (detail : Nat) : Dyn :=
  formRecord (refusalRecord t code detail s.dyn)
    { counted s with hand := none, answer := some ⟨t.master, .refused code⟩ }

/-! ### Tables of checks -/

/-- The code of the first check of a table that fails; none where none does. -/
def firstFailing (checks : List (Bool × Code)) : Option Code := (checks.find? (·.1)).map (·.2)

/-- The access checks of Table 7-4 and the level requirement of R127, in order, each with what fails it. -/
def accessTable (c : Tables) (p : Dyn) (t : Transaction) : List (Bool × Code) :=
  [(p.passKind.isSome, .notReady),
    (!(c.masters.get t.master).enabled, .masterOff),
    (t.odd, .misaligned),
    (!(c.descriptors.get t.page).present, .notPresent),
    (decide ((c.descriptors.get t.page).limit.toNat ≤ t.word.val), .beyondLimit),
    (decide ((if t.write then (c.descriptors.get t.page).writeLevel else (c.descriptors.get t.page).readLevel).toNat <
      (c.masters.get t.master).level.toNat), .level),
    (t.write && !(t.hi && t.lo) && pageKind t.page != .plain, .partialWrite),
    (t.write && partOwned t.page t.word, .partOwned),
    (t.write && needsLevelZero t.page t.word && (c.masters.get t.master).level != 0, .level)]

/-- The checks of R124 on a written descriptor of page q, in order. -/
def descriptorTable (q : PageId) (w : Word) : List (Bool × Code) :=
  [(decide (q.val ≤ 20) && (!w.getLsbD 15 || (w.extractLsb' 0 8).toNat != fixedLimit q), .fixedField),
    (w.getLsbD 10 && !(decide (14 ≤ q.val) && decide (q.val ≤ 16)), .badConfig),
    (decide (21 ≤ q.val) && (decide ((w.extractLsb' 0 8).toNat < 1) || decide (128 < (w.extractLsb' 0 8).toNat)),
      .badConfig)]

/-- The cases in which R145 refuses a link entry, by its two codes, its index and its target. -/
def linkRefused (kind index action target : Nat) : Bool :=
  decide (10 < kind) || (index != 63 && decide (kind ≤ 4) && decide (5 < index)) ||
    (index != 63 && decide (5 ≤ kind) && decide (kind ≤ 8) && decide (47 < index)) || (index != 63 && kind == 9) ||
    (index != 63 && kind == 10 && decide (3 < index)) || decide (4 < action) || (action == 1 && decide (5 < target)) ||
    (action == 4 && decide (3 < target))

/-- A bound of reach d is in force and does not hold (R30, R37). -/
def Violated (c : Tables) (totals : Vector Word 6) (reaches : Vector Reach 6) (d : ReachId) : Bound → Prop
  | .ceiling => d.val ≤ c.lastDam.val ∧ (reaches.get d).ceff.toNat < (totals.get d).toNat
  | .floor => d.val ≤ c.lastDam.val ∧ (totals.get d).toNat < (c.reaches.get d).floor.toNat
  | .surplus => ∃ n : DamId, n.val = d.val + 1 ∧ d.val < c.lastDam.val ∧
      ((c.reaches.get d).surplus.toNat : Int) < (totals.get d).toNat - (totals.get n).toNat
  | .draw => ∃ n : DamId, n.val = d.val + 1 ∧ d.val < c.lastDam.val ∧
      ((reaches.get d).deff.toNat : Int) < (totals.get n).toNat - (totals.get d).toNat

/-- A gate's configuration passes the seven checks of R3. -/
structure RecordFits (x : GateConfig) (lastDam : DamId) : Prop where
  stepSize : 1 ≤ x.stepSize.toNat ∧ x.stepSize.toNat ≤ 1000
  stepInterval : x.stepInterval ≠ 0
  lagLimit : x.lagLimit ≠ 0
  tolerance : x.tolerance.toNat ≤ 1000
  dam : x.dam.toNat ≤ lastDam.val
  openRef : x.openRef = 63 ∨ x.openRef.toNat ≤ 31
  closeRef : x.closeRef = 63 ∨ x.closeRef.toNat ≤ 31

/-- The checks of Table 5-3 on a request as a whole (R96), in order. -/
def requestTable (cfg : PortalConfig) (mode : Mode) (level : Nat) (header : Word) (x : Portal) : List (Bool × Code) :=
  [(!cfg.enabled, .portalFormat),
    (mode != .run, .notRunning),
    (decide (cfg.invokeLevel.toNat < level), .portalLevel),
    (headerCount header == 0 || decide (cfg.maxCount.toNat < headerCount header), .portalFormat),
    (crc (requestWords header x (headerCount header)) != x.word (headerCount header), .crc)]

/-- The seven checks of item w of a request (R97), in order; `named` is the gates that the earlier items name. A gate
field above 47 fails the first, and the rest are examined at gate 0, which does not matter. -/
def itemTable (c : Tables) (p : Dyn) (cfg : PortalConfig) (header : Word) (named : List Nat) (w : Word) :
    List (Bool × Code) :=
  let g : GateId := if h : itemGate w < 48 then ⟨itemGate w, h⟩ else 0
  let x := p.gates.get g
  [(decide (47 < itemGate w), .portalFormat),
    (!cfg.damMask.getLsbD (c.gates.get g).dam.toNat, .damMask),
    (named.contains (itemGate w), .duplicateGate),
    (decide (1000 < itemOpening w), .badDigit),
    (x.state == .outOfService || x.state == .faulted, .gateState),
    (decide ((c.gates.get g).orderLevel.toNat < max cfg.grantedLevel.toNat (headerLevel header).toNat), .orderLevel),
    (itemOpening w != x.target && itemOpening w != x.command &&
      (falseCondition c p.statusWords g (directionTo x.command (itemOpening w))).isSome, .interlock)]

/-- The outcome of the items in order: the code and index of the first that fails (R97). -/
def itemsOutcome (c : Tables) (p : Dyn) (cfg : PortalConfig) (header : Word) :
    List Word → List Nat → Option (Code × Nat)
  | [], _ => none
  | w :: ws, named =>
    match firstFailing (itemTable c p cfg header named w) with
    | some code => some (code, named.length + 1)
    | none => itemsOutcome c p cfg header ws (named ++ [itemGate w])

/-- The items of a request, in order (R95, R97). -/
def itemWords (header : Word) (x : Portal) : List Word := (List.range (headerCount header)).map fun i => x.word i

/-- Word w names gate g with an opening other than its target (R98, R99). -/
def changesGate (p : Dyn) (g : GateId) (w : Word) : Bool :=
  itemGate w == g.val && itemOpening w != (p.gates.get g).target

/-- The totals that a batch would leave (R99): each dam's total with the release changes of the items of that dam. -/
def batchTotals (c : Tables) (p : Dyn) (ws : List Word) : Vector Word 6 :=
  Table.tab fun d =>
    ws.foldl
      (fun t w =>
        if h : itemGate w < 48 then
          if (c.gates.get ⟨itemGate w, h⟩).inDam d && changesGate p ⟨itemGate w, h⟩ w then
            t + BitVec.ofNat 16 (releaseOf c ⟨itemGate w, h⟩ (itemOpening w)) -
              BitVec.ofNat 16 (releaseOf c ⟨itemGate w, h⟩ (p.gates.get ⟨itemGate w, h⟩).target)
          else t
        else t)
      (p.totals.get d)

/-- The totals that an order of gate g to v would leave (R58). -/
def orderTotals (c : Tables) (p : Dyn) (g : GateId) (v : Nat) : Vector Word 6 :=
  Table.tab fun d =>
    if (c.gates.get g).inDam d then
      p.totals.get d + BitVec.ofNat 16 (releaseOf c g v) - BitVec.ofNat 16 (releaseOf c g (p.gates.get g).target)
    else p.totals.get d

/-- How a request ends that is refused (R96, R97, R99): the code and the index reported. -/
def requestOutcome (c : Tables) (p : Dyn) (q : PortalId) (m : MasterId) (header : Word) : Option (Code × Nat) :=
  match firstFailing (requestTable (c.portals.get q) p.mode (c.masters.get m).level.toNat header (p.portals.get q)) with
  | some code => some (code, 0)
  | none =>
    match itemsOutcome c p (c.portals.get q) header (itemWords header (p.portals.get q)) [] with
    | some x => some x
    | none =>
      (admissionCheck c p.reaches p.totals (batchTotals c p (itemWords header (p.portals.get q)))).map
        fun x => (x.1, x.2.val)

/-- The checks of an order before the budget (Table 3-2, stages 1 to 4 and 6), in order, with the interlock check made
only of an order that stage 5 lets go on. The decoding of stage 2 gives the new target. -/
def orderTable (c : Tables) (p : Dyn) (m : MasterId) (g : GateId) (v : Option Nat) : List (Bool × Code) :=
  [(match p.mode with
      | .config => true
      | .run => false
      | .hold => (c.masters.get m).level != 0
      | .exiting => (c.masters.get m).level != 0, .notRunning),
    (v.isNone, .badDigit),
    ((p.gates.get g).state == .outOfService || (p.gates.get g).state == .faulted, .gateState),
    (decide ((c.gates.get g).orderLevel.toNat < (c.masters.get m).level.toNat), .orderLevel),
    (match v with
      | none => false
      | some v =>
        v != (p.gates.get g).target && v != (p.gates.get g).command &&
          (falseCondition c p.statusWords g (directionTo (p.gates.get g).command v)).isSome, .interlock)]

/-! ### What a claim says of the gates that a command does not name -/

/-- A gate is as it was, or is in service and has gained MODE or DAM, its state following the set (R7, R12). -/
def Gate.OnlyHolds (x y : Gate) : Prop :=
  y = x ∨
    (x.inService = true ∧ ∃ cs : Causes, cs.interlock = x.causes.interlock ∧ (x.causes.mode = true → cs.mode = true) ∧
      (x.causes.dam = true → cs.dam = true) ∧ y = x.withCauses cs)

/-- Every gate but the one given is as it was, or has gained MODE or DAM. -/
def OthersOnlyHeld (s t : State) (g : GateId) : Prop :=
  ∀ h, h ≠ g → (s.dyn.gates.get h).OnlyHolds (t.dyn.gates.get h)

/-- A gate record but for what a step, a hold or a dwell moves: the target, the feedback and the two causes of refusal
and fault. -/
def Gate.sameOrder (x y : Gate) : Prop :=
  y.target = x.target ∧ y.feedback = x.feedback ∧ y.feedbackKnown = x.feedbackKnown ∧ y.faultCause = x.faultCause ∧
    y.lastRefusal = x.lastRefusal

/-- The fields of the part that no gate, dam, reach, link or scheduler event touches: the station status words, the
portals and their queue of jobs, the debt, the rotation pointer, the refresh interval timer, the log indexes, the pass and
the tick count. -/
structure SameSurroundings (s t : State) : Prop where
  statusWords : t.dyn.statusWords = s.dyn.statusWords
  portals : t.dyn.portals = s.dyn.portals
  portalJobs : t.dyn.portalJobs = s.dyn.portalJobs
  debt : t.dyn.debt = s.dyn.debt
  pointer : t.dyn.pointer = s.dyn.pointer
  pointerReset : t.dyn.pointerReset = s.dyn.pointerReset
  refreshTimer : t.dyn.refreshTimer = s.dyn.refreshTimer
  logWrite : t.dyn.logWrite = s.dyn.logWrite
  logRead : t.dyn.logRead = s.dyn.logRead
  passKind : t.dyn.passKind = s.dyn.passKind
  passFailed : t.dyn.passFailed = s.dyn.passFailed
  powerOnUnfinished : t.dyn.powerOnUnfinished = s.dyn.powerOnUnfinished
  tick : t.dyn.tick = s.dyn.tick

/-- The store and the queue of commands are as they were: no access of the store has been answered. -/
def StoreKept (s t : State) : Prop := t.store = s.store ∧ t.pending = s.pending

/-- The transaction in hand and the answer of the station bus are as they were. -/
def BusKept (s t : State) : Prop := t.dyn.hand = s.dyn.hand ∧ t.dyn.answer = s.dyn.answer

/-- The log buffer and LOG_LOST are as they were: no record has been formed. -/
def LogKept (s t : State) : Prop := t.dyn.logBuffer = s.dyn.logBuffer ∧ t.dyn.logLost = s.dyn.logLost

/-- What a link can act on beside dams and gates is as it was: the mode with the offered refresh and the exit-pass
progress, and the alarm flags. -/
structure SameControl (s t : State) : Prop where
  mode : t.dyn.mode = s.dyn.mode
  offer : t.dyn.offer = s.dyn.offer
  progress : t.dyn.progress = s.dyn.progress
  alarms : t.dyn.alarms = s.dyn.alarms

/-- The mode, the offered refresh and the exit-pass progress are as they were, or a link whose action is ENTER_HOLD has
put the mode into HOLD (R109, R111, R148); and an alarm flag has changed only to set, by a link whose action is ALARM on
it (R149). -/
structure ControlByLinks (s t : State) : Prop where
  mode :
    (t.dyn.mode = s.dyn.mode ∧ t.dyn.offer = s.dyn.offer ∧ t.dyn.progress = s.dyn.progress) ∨
      (t.dyn.mode = .hold ∧ (s.dyn.mode = .run ∨ s.dyn.mode = .exiting) ∧ t.dyn.offer = none ∧
        t.dyn.progress = (if s.dyn.mode = .exiting then 0 else s.dyn.progress) ∧
        ∃ l, (s.tables.links.get l).action = .enterHold)
  alarms : ∀ k, t.dyn.alarms.get k = s.dyn.alarms.get k ∨
    (t.dyn.alarms.get k = true ∧
      ∃ l, (s.tables.links.get l).action = .alarm ∧ (s.tables.links.get l).target.toNat = k.val)

/-- A link entry has taken its action on an event's subject (R147 to R149): the flag it names is set, or the mode is one
that ENTER_HOLD leaves. -/
def LinkActed (c : Tables) (l : Link) (sub : Subject) (p : Dyn) : Prop :=
  match l.action with
  | .none => True
  | .holdDam => ∀ d : DamId, l.target.toNat = d.val → (p.dams.get d).hold = true
  | .holdSourceDam => ∀ d : DamId, sourceDam c sub = some d → (p.dams.get d).hold = true
  | .enterHold => p.mode = .hold ∨ p.mode = .config
  | .alarm => ∀ k : AlarmId, l.target.toNat = k.val → p.alarms.get k = true

/-- An event has been offered to the links (R146): every entry whose source kind is the event's, and whose source index is
ANY or the subject's, has acted. -/
def LinksActed (c : Tables) (kind : EventKind) (sub : Subject) (p : Dyn) : Prop :=
  ∀ l, (c.links.get l).kind = kind → ((c.links.get l).index = 63 ∨ sub.index = some (c.links.get l).index.toNat) →
    LinkActed c (c.links.get l) sub p

/-- A record has been formed (R153): it is in the buffer, or is being written into the ring, or it was dropped and LOG_LOST
is set. -/
def Recorded (r : LogRecord) (p : Dyn) : Prop :=
  r ∈ p.logBuffer ∨ (∃ w k a, p.running = some ⟨.log r w k, a⟩) ∨ p.logLost = true

/-- An event has been raised in the command that led from s to t (R144): its record has been formed, as Table 10-1 gives
it and with the tick count of s (R152), and it has been offered to the links. -/
def Raised (e : Event) (s t : State) : Prop :=
  Recorded (e.record s.dyn.tick) t.dyn ∧ LinksActed t.tables e.kind e.subject t.dyn

/-- The event of reach r's level state, as Table 10-1 gives it: its detail is the new effective limit. -/
def levelStateEvent (k : EventKind) (r : ReachId) (detail : Word) (mode : Mode) (p : Dyn) : Event where
  kind := k
  subject := .reach r
  master := 0
  page := 16
  qualifier := 0
  value := BitVec.ofNat 16 (p.reaches.get r).level
  detail := detail
  context := .mode mode

/-- The events of a change of reach r's level part (R43, R45): SENSOR_SPLIT where the split flag rose, and the level event
where the level state changed to another than NORMAL. The mode that the level event shows is that of before or of after
the command: the links may have acted on SENSOR_SPLIT by then (log entry 36). -/
def LevelEventsRaised (s t : State) (r : ReachId) : Prop :=
  ((s.dyn.reaches.get r).split = false → (t.dyn.reaches.get r).split = true →
    Raised
      { kind := .sensorSplit, subject := .reach r, master := 0, page := 16, qualifier := 0
        value := BitVec.ofNat 16 (t.dyn.reaches.get r).a.value, detail := BitVec.ofNat 16 (t.dyn.reaches.get r).b.value
        context := .mode s.dyn.mode } s t) ∧
  ((t.dyn.reaches.get r).levelState ≠ (s.dyn.reaches.get r).levelState →
    ∃ m, (m = s.dyn.mode ∨ m = t.dyn.mode) ∧
      match (t.dyn.reaches.get r).levelState with
      | .high => Raised (levelStateEvent .levelHigh r (t.dyn.reaches.get r).ceff m t.dyn) s t
      | .low => Raised (levelStateEvent .levelLow r (t.dyn.reaches.get r).deff m t.dyn) s t
      | .unknown => Raised (levelStateEvent .levelUnknown r (t.dyn.reaches.get r).ceff m t.dyn) s t
      | .normal => True)

/-- Every EXCEEDED flag that rose has raised BOUND_EXCEEDED (R37, Tables 10-1 and 11-9): a record with the reach, the
first bound that does not hold, its limit and its expression, and the links' actions. The value of an expression outside
sixteen-bit two's complement is open (log entry 35), and the mode shown is that of before or of after the command (log
entry 36). -/
def BoundsReported (s t : State) : Prop :=
  ∀ r, (s.dyn.reaches.get r).exceeded = false → (t.dyn.reaches.get r).exceeded = true →
    LinksActed t.tables .boundExceeded (.reach r) t.dyn ∧
      ∃ b, firstViolated t.tables t.dyn.totals t.dyn.reaches r = some b ∧
        ∃ x, Recorded x t.dyn ∧ x.kind = .event ∧ x.code = 4 ∧ x.master = 0 ∧ x.page = 6 ∧
          x.qualifier = BitVec.ofNat 8 b.number ∧ x.subject = BitVec.ofNat 8 r.val ∧ x.tick = s.dyn.tick ∧
          x.detail = b.limit (t.tables.reaches.get r) (t.dyn.reaches.get r) ∧
          (x.context = .mode s.dyn.mode ∨ x.context = .mode t.dyn.mode) ∧
          (-32768 ≤ b.expression t.dyn.totals r → b.expression t.dyn.totals r ≤ 32767 →
            x.value = BitVec.ofInt 16 (b.expression t.dyn.totals r))

/-- What a command may change beside its own effect where the events it raises act through the links, and the EXCEEDED
flags follow: hold flags and alarms set, the mode put into HOLD, EXCEEDED flags with their events. The configuration, the
store, the queue of commands and the surroundings are as they were. -/
structure OnlyEventsBeside (s t : State) : Prop where
  tables : t.tables = s.tables
  store : StoreKept s t
  surroundings : SameSurroundings s t
  control : ControlByLinks s t
  dams : ∀ d, ∃ h, t.dyn.dams.get d = { s.dyn.dams.get d with hold := (s.dyn.dams.get d).hold || h }
  reaches : ∀ r, ∃ b, t.dyn.reaches.get r = { s.dyn.reaches.get r with exceeded := b }
  bounds : BoundsReported s t
  queue : t.dyn.queue.Sublist s.dyn.queue

/-- STORE_FAULT has been raised as event e for an access of a job of the part's own, and nothing else has happened yet
(R118, R140): state r is s with the event recorded and offered to the links, and the job stands, but that an entry into
HOLD makes a refresh in progress count toward nothing (R111). -/
structure FaultReported (e : Event) (s r : State) : Prop where
  beside : OnlyEventsBeside s r
  bus : BusKept s r
  raised : Raised e s r
  running : r.dyn.running = if r.dyn.mode = s.dyn.mode then s.dyn.running else (uncredit s.dyn).running
  moment : r.dyn.moment = s.dyn.moment

/-- The total of dam d alone has a release replaced by another; with none, every total stands (R26, R27). -/
def TotalsMoved (s t : State) (dam : BitVec 3) (old new : Nat) : Prop :=
  ∀ d, t.dyn.totals.get d =
    if dam.toNat = d.val then s.dyn.totals.get d + BitVec.ofNat 16 new - BitVec.ofNat 16 old else s.dyn.totals.get d

/-- Gate record y is x after a step granted at a tick (R85 to R87), with its dam's recovery dwell: the command one step
nearer the target, the tick recorded, tracking begun, and the gate MOVING still or settled (R6). -/
structure Gate.Stepped (c : GateConfig) (dwell : Nat) (tick : BitVec 32) (x y : Gate) : Prop where
  orders : x.sameOrder y
  command : y.command =
    if x.command < x.target then x.command + min c.stepSize.toNat (x.target - x.command)
    else x.command - min c.stepSize.toNat (x.command - x.target)
  lastGrant : y.lastGrant = some tick
  awaiting : y.awaiting = if 0 < c.tolerance.toNat then true else x.awaiting
  lagTimer : y.lagTimer = if 0 < c.tolerance.toNat then .running c.lagLimit.toNat else x.lagTimer
  causes : y.causes = if y.command = y.target then { x.causes with interlock := false } else x.causes
  state : y.state =
    if y.command ≠ y.target then x.state
    else if c.kind = .flood ∧ y.command = 0 then (if dwell = 0 then .closed else .recovering) else .settled
  recoveryTimer : y.recoveryTimer =
    if y.command = y.target ∧ c.kind = .flood ∧ y.command = 0 then (if dwell = 0 then .stopped else .running dwell)
    else x.recoveryTimer

/-- A portal job has joined the queue of portal jobs at its tail, or the port has taken it up at once. -/
def JobQueued (j : PortalJob) (s t : State) : Prop :=
  t.dyn.portalJobs = s.dyn.portalJobs ++ [j] ∨
    (t.dyn.portalJobs = s.dyn.portalJobs ∧ ∃ a, t.dyn.running = some ⟨.portal j 0, a⟩)

/-- The exit pass has ended with its refresh of dam d (R110, R114, R116, R119), in a state q that the end has made of p: RUN
with debt 0 and progress 0, the pointer one on, the first RUN offer at the pointer, and MODE gone from every in-service
gate; no order, total or reach has changed, and no gate out of service. -/
structure PassEnded (c : Tables) (d : DamId) (p q : Dyn) : Prop where
  mode : q.mode = .run
  debt : q.debt = 0
  progress : q.progress = 0
  pointer : q.pointer = if p.pointerReset then 0 else nextDam c.lastDam d
  offer : q.offer = some q.pointer
  totals : q.totals = p.totals
  reaches : q.reaches = p.reaches
  orders : ∀ h, (p.gates.get h).sameOrder (q.gates.get h)
  service : ∀ h, (p.gates.get h).inService = true →
    (q.gates.get h).inService = true ∧ (q.gates.get h).causes.mode = false
  out : ∀ h, (p.gates.get h).inService = false → q.gates.get h = p.gates.get h

/-- A WRITE has been taken: it waits for its store access, and its master has no answer yet (R128, R129). -/
def Taken (tr : Transaction) (t : State) : Prop := t.dyn.hand = some tr ∧ t.dyn.answer = none

/-- A transaction has been refused: answered with a code, nothing in hand, and its REFUSAL record formed (R128, R130). -/
def Refused (s : State) (tr : Transaction) (code : Code) (detail : Nat) (t : State) : Prop :=
  t.dyn.hand = none ∧ t.dyn.answer = some ⟨tr.master, .refused code⟩ ∧
    Recorded (refusalRecord tr code detail s.dyn) t.dyn

/-- The other sensor of a reach. -/
def otherSensor : Sensor → Sensor
  | .a => .b
  | .b => .a

/-- Reach record y is x with one sample replaced and the level derived afresh (R42 to R44) and the limits recomputed
(R31). -/
def LevelDerived (c : ReachConfig) (x y : Reach) (k : Sensor) (new : Sample) : Prop :=
  y.sample k = new ∧ y.sample (otherSensor k) = x.sample (otherSensor k) ∧
    (match derivedLevel y.a y.b with
      | some v => y.level = v ∧ y.levelState = nextLevelState c x.levelState v
      | none => y.level = x.level ∧ y.levelState = .unknown) ∧
    y.split = splitFlag c y.a y.b ∧
    y.ceff = effectiveCeiling c y.levelState ∧ y.deff = effectiveDraw c y.levelState

/-- The EXCEEDED flag of reach r after an event that changed its limits or not: it agrees with the bounds where a limit
changed, and stands otherwise (R31, R37). -/
def ExceededFollows (c : Tables) (s t : State) (r : ReachId) : Prop :=
  (t.dyn.reaches.get r).exceeded =
    if (t.dyn.reaches.get r).ceff = (s.dyn.reaches.get r).ceff ∧ (t.dyn.reaches.get r).deff = (s.dyn.reaches.get r).deff
    then (s.dyn.reaches.get r).exceeded
    else (firstViolated c t.dyn.totals t.dyn.reaches r).isSome

/-- The dynamic state that either reset leaves (R2, R19, R49, R68, R74, R80, R103, R120, R142, R149, R155), with the first
write of its pass begun. -/
def DynamicsCleared (c : Tables) (kind : PassKind) (p : Dyn) : Prop :=
  (∀ g, p.gates.get g =
    { state := .outOfService, target := 0, command := 0, causes := ⟨false, false, false⟩, feedback := 0,
      feedbackKnown := false, awaiting := false, lagTimer := .stopped, recoveryTimer := .stopped, lastGrant := none,
      faultCause := none, lastRefusal := none }) ∧
  (∀ d, p.dams.get d =
    { warning := .silent, dwellTimer := .stopped, hold := false, sequence := 0, lastOpen := none,
      lastClose := none }) ∧
  (∀ d, p.totals.get d = 0) ∧
  (∀ r, p.reaches.get r =
    { a := ⟨0, .never, .stopped⟩, b := ⟨0, .never, .stopped⟩, level := 0, levelState := .unknown, split := false,
      exceeded := false, ceff := minWord (c.reaches.get r).ceiling (c.reaches.get r).cutCeiling,
      deff := (c.reaches.get r).draw }) ∧
  (∀ n, p.statusWords.get n = 0) ∧ p.queue = [] ∧
  (∀ q, (p.portals.get q).busy = false ∧ ∀ i, (p.portals.get q).buffer.get i = 0) ∧
  (p.mode = .config ∧ p.debt = 0 ∧ p.pointer = 0 ∧ p.pointerReset = false ∧ p.progress = 0 ∧ p.offer = none ∧
    p.refreshTimer = .stopped) ∧
  (∀ k, p.alarms.get k = false) ∧ (p.logBuffer = [] ∧ p.logLost = false) ∧
  (∀ g, p.slotMarks.get g = none) ∧ (∀ g, p.gateMirrorMarks.get g = none) ∧ (∀ r, p.reachMirrorMarks.get r = none) ∧
  p.summaryMark = none ∧ p.portalJobs = [] ∧ p.hand = none ∧ p.tick = 0 ∧ p.passFailed = 0 ∧
  p.passKind = some kind ∧ p.powerOnUnfinished = (kind == .powerOn) ∧
  p.running = some ⟨.pass kind 0, partWrite 0 1 0⟩

/-- Every output line is released: the hold, warning and alarm lines and ALERT (R19, R24, R149, R155). -/
def LinesReleased (p : Dyn) : Prop :=
  (∀ d, holdLine p d = false ∧ warnLine p d = false) ∧ (∀ k, alarmLine p k = false) ∧ alertLine p = false

/-- Every configuration copy at its value after a power-on reset (R2, R19, R29, R67, R79, R91, R112, R113, R122, R123,
R145, Table 7-3). -/
structure TablesAtPowerOn (c : Tables) : Prop where
  gates : ∀ g, c.gates.get g =
    { dam := 0, kind := .wicket, coefficient := 0, stepSize := 0, stepInterval := 0, lagLimit := 0, tolerance := 0,
      orderLevel := 0, openRef := 63, closeRef := 63 }
  dams : ∀ d, c.dams.get d = { warningDwell := 0, recoveryDwell := 0, keep := false }
  reaches : ∀ r i, (c.reaches.get r).word i = 0
  matrix : ∀ i, c.matrix.get i = 0
  portals : ∀ q, c.portals.get q =
    { enabled := false, invokeLevel := 0, grantedLevel := 0, maxCount := 0, damMask := 0 }
  conditions : ∀ k, c.conditions.get k = { source := 0, test := .allSet, mask := 0 }
  links : ∀ l, c.links.get l = { kind := .levelHigh, index := 0, action := .none, target := 0 }
  masters : ∀ m : MasterId, c.masters.get m = if m.val = 0 then ⟨true, 0⟩ else ⟨false, 3⟩
  descriptors : ∀ q : PageId, c.descriptors.get q =
    { present := true, readLevel := if q.val ≤ 20 then 3 else 0,
      writeLevel := if 14 ≤ q.val ∧ q.val ≤ 20 then 3 else 0, decimal := false,
      limit := BitVec.ofNat 8 (fixedLimit q) }
  lastDam : c.lastDam.val = 0
  refreshInterval : c.refreshInterval = 10

/-- The store is as it was, or the access in progress has been made (R134). -/
def AccessAbandoned (s t : State) : Prop :=
  t.store = s.store ∨
    ∃ r, s.dyn.running = some r ∧ r.access.write = true ∧
      t.store = Memory.setWord s.store r.access.page r.access.word r.access.hi r.access.lo r.access.data

/-- The state that a set of hold causes gives a gate with a move outstanding (R7). -/
def Causes.moveState (cs : Causes) : GateState := if cs.mode || cs.dam || cs.interlock then .held else .moving

/-- Gate record x after an order or an item to a new target v is committed (R60 to R64, Table 3-3), in a dam with the two
dwells and the warning state given; v differs from the target that stood. -/
def Gate.committed (x : Gate) (kind : GateKind) (warningDwell recoveryDwell : Nat) (warning : Warning) (v : Nat) : Gate :=
  let cs := if v = x.command then x.causes else { x.causes with interlock := false }
  let ended := { x with
    target := v
    causes := { x.causes with interlock := false }
    state := if kind = .flood ∧ x.command = 0 then (if recoveryDwell = 0 then .closed else .recovering) else .settled
    recoveryTimer :=
      if kind = .flood ∧ x.command = 0 then (if recoveryDwell = 0 then .stopped else .running recoveryDwell)
      else x.recoveryTimer }
  match x.state with
  | .recovering => { x with target := v }
  | .warning => { x with target := v, state := if v = 0 then .closed else .warning }
  | .closed =>
    { x with
      target := v
      state :=
        match warning with
        | .sounded => cs.moveState
        | .sounding => .warning
        | .silent => if warningDwell = 0 then cs.moveState else .warning }
  | .settled => { x with target := v, state := cs.moveState }
  | .moving | .held => if v = x.command then ended else { x with target := v, causes := cs, state := cs.moveState }
  | .outOfService | .faulted => x

/-- Dam record x after a flood gate of it in state `before` has been committed to a state `after` (R20, R64), given
whether all its flood gates are then CLOSED or OUT_OF_SERVICE (R23). -/
def Dam.committed (x : Dam) (before after : GateState) (warningDwell : Nat) (allClosed : Prop) (y : Dam) : Prop :=
  (before = .closed ∧ x.warning = .silent ∧ after ≠ .closed →
    y = { x with
      warning := if warningDwell = 0 then .sounded else .sounding
      dwellTimer := if warningDwell = 0 then .stopped else .running warningDwell }) ∧
  (before ≠ .closed ∧ after = .closed ∧ allClosed → y = { x with warning := .silent, dwellTimer := .stopped }) ∧
  (¬(before = .closed ∧ x.warning = .silent ∧ after ≠ .closed) → ¬(before ≠ .closed ∧ after = .closed ∧ allClosed) →
    y = x)

/-- The gates and the dams after the commit of one item, or of an order, that names a gate and an opening (R60 to R64, R100);
at the gate's current target nothing changes. The gate's dam starts its warning as R20 gives, and is silenced where the
gate enters CLOSED and finds every flood gate of the dam CLOSED or OUT_OF_SERVICE (R23). -/
def itemCommitted (c : Tables) (x : Vector Gate 48 × Vector Dam 6) (item : GateId × Nat) :
    Vector Gate 48 × Vector Dam 6 :=
  let old := x.1.get item.1
  match (c.gates.get item.1).dam? with
  | none => x
  | some d =>
    if item.2 = old.target then x
    else
      let dam := x.2.get d
      let dwell := (c.dams.get d).warningDwell.toNat
      let new := old.committed (c.gates.get item.1).kind dwell (c.dams.get d).recoveryDwell.toNat dam.warning item.2
      let gates := Table.put x.1 item.1 new
      let shut := (List.finRange 48).all fun g =>
        (c.gates.get g).kind == .wicket || !(c.gates.get g).inDam d || (gates.get g).state == .closed ||
          (gates.get g).state == .outOfService
      (gates, Table.put x.2 d
        (if old.state = .closed ∧ dam.warning = .silent ∧ new.state ≠ .closed then
          { dam with
            warning := if dwell = 0 then .sounded else .sounding
            dwellTimer := if dwell = 0 then .stopped else .running dwell }
        else if old.state ≠ .closed ∧ new.state = .closed ∧ shut = true then
          { dam with warning := .silent, dwellTimer := .stopped }
        else dam))

/-- The gates and the dams after the commits of a request's items, in item order (R100; the order is the model's choice but
for flood gates that leave CLOSED, log entry 43). -/
def batchCommitted (c : Tables) (p : Dyn) (items : List (GateId × Nat)) : Vector Gate 48 × Vector Dam 6 :=
  items.foldl (itemCommitted c) (p.gates, p.dams)

/-- Every flood gate of dam d is CLOSED or OUT_OF_SERVICE (R23). -/
def AllShut (c : Tables) (p : Dyn) (d : DamId) : Prop :=
  ∀ g, (c.gates.get g).kind = .flood → (c.gates.get g).inDam d = true →
    (p.gates.get g).state = .closed ∨ (p.gates.get g).state = .outOfService

/-- Two dam records but for the hold flag. -/
def Dam.sameButHold (x y : Dam) : Prop := y = { x with hold := y.hold }

/-- The EXCEEDED flags of some reaches agree with the bounds, and those of the others stand (R27, R35, R37). -/
def ExceededAgrees (c : Tables) (s t : State) (touched : ReachId → Bool) : Prop :=
  ∀ r, t.dyn.reaches.get r =
    { s.dyn.reaches.get r with
      exceeded :=
        if touched r then (firstViolated c t.dyn.totals t.dyn.reaches r).isSome else (s.dyn.reaches.get r).exceeded }

/-- The reaches with a bound expression in the total of the dam of gate g (R27). -/
def reachOfGate (c : GateConfig) (r : ReachId) : Bool :=
  decide (c.dam.toNat < 6) && (c.dam.toNat == r.val || c.dam.toNat == r.val + 1)

/-- The reaches whose EXCEEDED flag a fault of gate g re-evaluates (R16, R27): those of its dam, where the release at its
command is another than at its target. -/
def reachOfFault (s : State) (g : GateId) (r : ReachId) : Bool :=
  releaseOf s.tables g (s.dyn.gates.get g).target != releaseOf s.tables g (s.dyn.gates.get g).command &&
    reachOfGate (s.tables.gates.get g) r

/-- Gate g can join the pending step queue at no event of this tick, if it is or becomes MOVING (R75). -/
def NotYet (s : State) (g : GateId) : Prop :=
  s.dyn.mode ≠ .run ∨ (s.dyn.gates.get g).awaiting = true ∨ stepIntervalElapsed s.tables s.dyn g = false

/-- The store port has answered an access (R135): of an OK write, the bytes of the lanes that are on are as written; the
other words, and on a read every word, are as they were. -/
def StoreAnswered (s t : State) (a : Access) (ans : StoreAnswer) : Prop :=
  (∀ q w, q ≠ a.page ∨ w ≠ a.word → Memory.word t.store q w = Memory.word s.store q w) ∧
  (a.write = false → t.store = s.store) ∧
  (a.write = true → ans = .ok →
    Memory.word t.store a.page a.word = laneMerge a.hi a.lo a.data (Memory.word s.store a.page a.word)) ∧
  t.pending = s.pending ∧ t.tables = s.tables

/-- The access of a store write of the part's own, both lanes on (R135). -/
def ownWrite (q : PageId) (w : WordIdx) (data : Word) : Access :=
  { page := q, word := w, write := true, hi := true, lo := true, data := data }

/-- The store answers an access with another of the same job to make: the job goes on with its next access, and nothing
else of the part changes. -/
def GoesOn (s t : State) (j : Job) (a : Access) : Prop :=
  t.dyn = { counted s with running := some ⟨j, a⟩ }

/-- An ERROR acts as its report and then as an OK (R18, R118, R140): there is a state r with the report made, from which
the answer OK gives the dynamic state that the answer ERROR gives from s. The word that the access addressed is open
(R135). -/
def ErrorReportedThenOk (answer : StoreAnswer → Instr) (s : State) (a : Access) (report : State → Prop) : Prop :=
  ∃ r t u, report r ∧ exec (answer .error) s = .next t ∧ StoreAnswered s t a .error ∧ exec (answer .ok) r = .next u ∧
    u.dyn = t.dyn

/-! ### The scan of the pending step queue -/

/-- A scan (R83): the first entry of the queue that is eligible is taken up, granted a step if its interlock passes and
else held by INTERLOCK, and the queue is examined again, until no entry is eligible. The gates held are listed in order. -/
inductive Scanned (c : Tables) : Dyn → List GateId → Dyn → Prop
  | done (p : Dyn) : (∀ g ∈ p.queue, eligible c p g = false) → Scanned c p [] p
  | grants (p q : Dyn) (g : GateId) (before after lost : List GateId) : p.queue = before ++ g :: after →
    (∀ h ∈ before, eligible c p h = false) → eligible c p g = true →
    falseCondition c p.statusWords g (directionTo (p.gates.get g).command (p.gates.get g).target) = none →
    Scanned c (grant c g p) lost q → Scanned c p lost q
  | holds (p q : Dyn) (g : GateId) (k : CondId) (before after lost : List GateId) : p.queue = before ++ g :: after →
    (∀ h ∈ before, eligible c p h = false) → eligible c p g = true →
    falseCondition c p.statusWords g (directionTo (p.gates.get g).command (p.gates.get g).target) = some k →
    Scanned c (loseInterlock c g (directionTo (p.gates.get g).command (p.gates.get g).target) k p) lost q →
    Scanned c p (g :: lost) q

/-- The INTERLOCK_LOST events of a scan, offered to the links one after the other (R83, R146, log entry 14). -/
def offerLost (c : Tables) (lost : List GateId) (p : Dyn) : Dyn :=
  lost.foldl (fun p g => offerLinks c .interlockLost (.gate g) p) p

/-! ### The words of the initialisation passes -/

/-- The words that a pass writes beside the two writes of the status summary (R131, R132). -/
def PassKind.covers (kind : PassKind) (q : PageId) (w : WordIdx) : Bool :=
  match kind with
  | .powerOn =>
    (q.val = 0 && w.val < 16 && w.val != 1) || (1 ≤ q.val && q.val ≤ 9 && w.val < fixedLimit q) ||
      (14 ≤ q.val && q.val ≤ 15 && w.val < fixedLimit q) || (17 ≤ q.val && q.val ≤ 20 && 126 ≤ w.val)
  | .resetLine =>
    (q.val = 0 && w.val < 16 && w.val != 1) || (8 ≤ q.val && q.val ≤ 9 && w.val < fixedLimit q) ||
      (14 ≤ q.val && q.val ≤ 15 && w.val < fixedLimit q && w.val % 4 = 2)

/-- No expiry is due, no record has aged and no gate waits to join: a TICK arrival finds only its own count to make. -/
structure NothingDue (s : State) : Prop where
  lag : ∀ g, lagDue g s.tables s.dyn = false
  recovery : ∀ g, recoveryDue g s.tables s.dyn = false
  dwell : ∀ d, dwellDue d s.tables s.dyn = false
  sample : ∀ r k, sampleDue r k s.tables s.dyn = false
  refresh : refreshDue s.tables s.dyn = false
  grantTick : ∀ g, grantTickDue g s.tables s.dyn = false
  history : ∀ d dir, historyDue d dir s.tables s.dyn = false
  joins : ∀ g, joinable s.tables s.dyn g = false

/-! ### Invariants -/

/-- The store keeps its canonical form. -/
def StoreCanonical (s : State) : Prop := Memory.wf s.store = true

/-- A gate's dynamic fields agree with its state and its kind (R5 to R7, R16, R20, R72). -/
structure Gate.Sound (x : Gate) (kind : GateKind) : Prop where
  rest : x.state = .outOfService → x.target = x.command ∧ x.causes.isEmpty = true ∧ x.lagTimer = .stopped
  closed : x.state = .closed → kind = .flood ∧ x.target = 0 ∧ x.command = 0
  settled : x.state = .settled → x.target = x.command ∧ (kind = .flood → 0 < x.command)
  moving : x.state = .moving → x.target ≠ x.command ∧ x.causes.isEmpty = true
  held : x.state = .held → x.target ≠ x.command ∧ x.causes.isEmpty = false
  warning : x.state = .warning → kind = .flood ∧ x.command = 0 ∧ 0 < x.target
  recovering : x.state = .recovering → kind = .flood ∧ x.command = 0
  faulted : x.state = .faulted → x.target = x.command
  interlock : x.causes.interlock = true → x.state = .held
  recovery : x.recoveryTimer ≠ .stopped → x.state = .recovering

/-- The pending step queue holds no gate twice, and every gate it holds is MOVING with an empty hold-cause set while the
mode is RUN (R74). -/
def QueueSound (s : State) : Prop :=
  s.dyn.queue.Nodup ∧
    ∀ g ∈ s.dyn.queue,
      (s.dyn.gates.get g).state = .moving ∧ (s.dyn.gates.get g).causes.isEmpty = true ∧ s.dyn.mode = .run

/-- Every gate record agrees with its state, and the queue is sound. -/
def GatesSound (s : State) : Prop :=
  QueueSound s ∧ ∀ g, (s.dyn.gates.get g).Sound (s.tables.gates.get g).kind

/-- The MODE and DAM causes of in-service gates follow the mode and the hold flags (R12). -/
def CausesFollow (s : State) : Prop :=
  ∀ g, (s.dyn.gates.get g).inService = true →
    (s.dyn.gates.get g).causes.mode = (s.dyn.mode == .hold || s.dyn.mode == .exiting) ∧
      ∀ d, (s.tables.gates.get g).inDam d = true → (s.dyn.gates.get g).causes.dam = (s.dyn.dams.get d).hold

/-- A gate carries INTERLOCK only while the condition for the direction from its command to its target is false (R66). -/
def InterlockSound (s : State) : Prop :=
  ∀ g, (s.dyn.gates.get g).causes.interlock = true →
    (falseCondition s.tables s.dyn.statusWords g
      (directionTo (s.dyn.gates.get g).command (s.dyn.gates.get g).target)).isSome = true

/-- A flood gate in service with its command above 0, or with a move outstanding, settled or recovering, stands at a dam
whose warning is SOUNDED, and one that waits in WARNING at a dam whose warning is SOUNDING (R20, R23). -/
def FloodGatesWarned (s : State) : Prop :=
  ∀ g d, (s.tables.gates.get g).kind = .flood → (s.tables.gates.get g).inDam d = true →
    (s.dyn.gates.get g).inService = true →
      (0 < (s.dyn.gates.get g).command → (s.dyn.dams.get d).warning = .sounded) ∧
      ((s.dyn.gates.get g).state = .settled ∨ (s.dyn.gates.get g).state = .moving ∨
        (s.dyn.gates.get g).state = .held ∨ (s.dyn.gates.get g).state = .recovering →
          (s.dyn.dams.get d).warning = .sounded) ∧
      ((s.dyn.gates.get g).state = .warning → (s.dyn.dams.get d).warning = .sounding)

/-- A refresh that counts toward the debt is in progress in RUN. -/
def countsInRun (p : Dyn) : Bool :=
  match p.running with
  | some ⟨.refresh _ _ counts _ _, _⟩ => counts && p.mode == .run
  | _ => false

/-- The refresh debt stands between -4 and +7 (R115), and above -4 while a refresh that will lower it is in progress
(R116). -/
def DebtInRange (s : State) : Prop :=
  -4 ≤ s.dyn.debt ∧ s.dyn.debt ≤ 7 ∧ (countsInRun s.dyn = true → -3 ≤ s.dyn.debt)

/-- What gate g counts in the total of dam d (R26): its release at its target, if it is configured to the dam and in
service. -/
def countedRelease (s : State) (d : DamId) (g : GateId) : Nat :=
  if (s.dyn.gates.get g).inService && (s.tables.gates.get g).inDam d then
    releaseOf s.tables g (s.dyn.gates.get g).target
  else 0

/-- Each total is the sum of the releases of the in-service gates of its dam at their targets, as a sixteen-bit value
(R26). -/
def TotalsExact (s : State) : Prop :=
  ∀ d, s.dyn.totals.get d = BitVec.ofNat 16 ((List.finRange 48).map (countedRelease s d)).sum

/-- The target, the command and the feedback of every gate are openings, 0 to 1000 (R14, R51). -/
def OpeningsInRange (s : State) : Prop :=
  ∀ g, (s.dyn.gates.get g).target ≤ 1000 ∧ (s.dyn.gates.get g).command ≤ 1000 ∧ (s.dyn.gates.get g).feedback ≤ 1000

/-- The samples and the derived level of every reach are levels, 0 to 9999 (R39, R42). -/
def LevelsInRange (s : State) : Prop :=
  ∀ r, (s.dyn.reaches.get r).a.value ≤ 9999 ∧ (s.dyn.reaches.get r).b.value ≤ 9999 ∧ (s.dyn.reaches.get r).level ≤ 9999

/-- The effective limits of every reach follow its record and its level state (R31). -/
def LimitsFollowLevel (s : State) : Prop :=
  ∀ r,
    (s.dyn.reaches.get r).ceff = effectiveCeiling (s.tables.reaches.get r) (s.dyn.reaches.get r).levelState ∧
      (s.dyn.reaches.get r).deff = effectiveDraw (s.tables.reaches.get r) (s.dyn.reaches.get r).levelState

/-- The entry of master 0 is enabled at level 0 (R122), and the present and limit fields of pages 0 to 20 are those of
Table 7-3 (R124). -/
def FixedEntries (s : State) : Prop :=
  s.tables.masters.get 0 = ⟨true, 0⟩ ∧
    ∀ q : PageId, q.val ≤ 20 →
      (s.tables.descriptors.get q).present = true ∧
        (s.tables.descriptors.get q).limit.toNat = fixedLimit q

/-- The portals of the portal jobs queued and in progress. -/
def portalsAtWork (p : Dyn) : List PortalId :=
  p.portalJobs.map (·.portal) ++
    (match p.running with
      | some ⟨.portal j _, _⟩ => [j.portal]
      | _ => [])

/-- A portal is busy exactly while one portal job of it is queued or in progress, and it never has two (R93, R94). -/
def PortalsSound (s : State) : Prop :=
  (portalsAtWork s.dyn).Nodup ∧ ∀ q, (s.dyn.portals.get q).busy = true ↔ q ∈ portalsAtWork s.dyn

/-- A forwarded transaction in progress is the one in hand (R121, R129). -/
def HandSound (s : State) : Prop :=
  ∀ t a, s.dyn.running = some ⟨.forwarded t, a⟩ → s.dyn.hand = some t

/-- Every link entry is one that R145 lets in. -/
def LinksValid (s : State) : Prop := ∀ l, (s.tables.links.get l).valid = true

end Machine

end Sys2Proof
end

