-- ==== Sys2Proof/WellFormed.lean ====
section
/-! DEFINITION. Which operands make a command an instance of its row: the data of the rows that are a write of
one value, and the address of a PLAIN_WRITE, which is a word no other row writes (log entry 19). The meanings
are total: what they do with a word depends on the word, as on the part itself. -/

namespace Sys2Proof

/-- The mode field of a mode word (Table 11-2, bits 2 to 0). -/
def modeField (w : Word) : BitVec 3 := w.extractLsb' 0 3

/-- A write that has no row of its own: its word has no handler, or is refused before dispatch. -/
def noRowOfItsOwn (address : BitVec 16) : Bool :=
  match Machine.targetOf (Machine.addressPage address) (Machine.addressWord address) with
  | .plain => true
  | .unreached => true
  | _ => false

/-- The operands fit the command's row. -/
def Instr.wellFormed : Instr → Bool
  | .modeWriteConfig w => modeField w.data != 1 && modeField w.data != 2
  | .modeWriteRun w => modeField w.data == 1
  | .modeWriteHold w => modeField w.data == 2
  | .serviceEntry _ w => w.data != 0
  | .serviceExit _ w => w.data == 0
  | .damHoldSet _ w => w.data != 0
  | .damHoldClear _ w => w.data == 0
  | .plainWrite address _ _ _ _ => noRowOfItsOwn address
  | .powerOnReset | .resetLine | .tick | .refreshIntervalExpiry => true
  | .lagTimerExpiry _ | .recoveryExpiry _ | .warningDwellExpiry _ | .sampleExpiry _ _ => true
  | .stepIntervalElapsed _ | .lastGrantTickAged _ | .stepHistoryAged _ _ => true
  | .lastDamWrite _ | .refreshIntervalWrite _ | .keepMaskWrite _ | .logReadIndexWrite _ => true
  | .alarmClearWrite _ | .masterEntryWrite _ _ | .descriptorWrite _ _ | .gateConfigWrite _ _ _ => true
  | .damDwellWrite _ _ _ | .refreshKeepWrite _ _ | .reachRecordWrite _ _ _ => true
  | .staggerMatrixWrite _ _ | .portalConfigWrite _ _ _ | .interlockConditionWrite _ _ _ => true
  | .linkEntryWrite _ _ _ | .order _ _ | .feedbackWrite _ _ | .sensorWrite _ _ _ => true
  | .statusWordWrite _ _ | .portalItemWrite _ _ _ | .portalHeaderWrite _ _ => true
  | .forwardedAccessComplete _ | .slotWriteAccessDone _ | .refreshAccessDone _ => true
  | .portalJobAccessDone _ | .logRecordAccessDone _ | .mirrorWriteAccessDone _ => true
  | .passWriteAccessDone _ | .stationBusRead _ _ _ _ => true

end Sys2Proof
end

