-- ==== Sys2Proof/Certificates/Slice0/Obligations.lean ====
section
/-! DEFINITION. The statements for the provers, in the order of OBLIGATIONS.json. A command's state after it is t, and
`Gives i s T P` says that command i at s gives tables T and dynamic state P, beside which the store port arbiter may
grant one of the jobs that wait (R136). `PortIdle s`, that no job waits while the port is free, is itself kept by every
step (the last statement), as are the other invariants used as premises. -/

open Sys2Proof Sys2Proof.Machine

/-! ### The step -/

/-- The step takes the command at the front of the queue and gives it its meaning on the state with the queue's rest; with
no command waiting the block idles (the model's choice, log entry 2). -/
def Obligations.StepTakesTheFrontCommand : Prop :=
  (∀ (i : Instr) (rest : List Instr) (s : State),
    step { s with pending := i :: rest } = exec i { s with pending := rest }) ∧
  ∀ s : State, s.pending = [] → step s = .next s

/-- Every command is answered with a next state, which does not depend on the commands that wait and leaves them as they
were: no command of this hardware faults or is refused by the model. -/
def Obligations.EveryCommandIsAnswered : Prop :=
  ∀ (i : Instr) (s : State), ∃ t : State, ∀ q : List Instr,
    exec i { s with pending := q } = .next { t with pending := q }

/-! ### Resets -/

/-- A power-on reset puts every configuration copy and every dynamic field at its reset value, answers a transaction in
hand with NOT_READY, abandons the access in progress, begins the power-on pass and releases every
output line. -/
def Obligations.PowerOnResetClearsThePart : Prop :=
  ∀ s : State, ∃ t, exec .powerOnReset s = .next t ∧ TablesAtPowerOn t.tables ∧
    DynamicsCleared t.tables .powerOn t.dyn ∧ t.dyn.logWrite = 0 ∧ t.dyn.logRead = 0 ∧
    t.dyn.answer = s.dyn.hand.map (fun x => ⟨x.master, .refused .notReady⟩) ∧ AccessAbandoned s t ∧ LinesReleased t.dyn ∧
    t.pending = s.pending

/-- The reset line keeps every configuration copy and the log indexes, and clears the rest as a power-on reset does; its
pass is a power-on pass while one is unfinished. Every output line is released. -/
def Obligations.ResetLineKeepsTheConfiguration : Prop :=
  ∀ s : State, ∃ t, exec .resetLine s = .next t ∧ t.tables = s.tables ∧
    DynamicsCleared s.tables (if s.dyn.powerOnUnfinished then .powerOn else .resetLine) t.dyn ∧
    t.dyn.logWrite = s.dyn.logWrite ∧ t.dyn.logRead = s.dyn.logRead ∧
    t.dyn.answer = s.dyn.hand.map (fun x => ⟨x.master, .refused .notReady⟩) ∧ AccessAbandoned s t ∧ LinesReleased t.dyn ∧
    t.pending = s.pending

/-- The state of the model right after reset is that of a power-on reset, and it meets every invariant stated below. The
empty store list is the model's choice (log entry 8). -/
def Obligations.ResetStateMeetsTheInvariants : Prop :=
  TablesAtPowerOn State.reset.tables ∧ DynamicsCleared State.reset.tables .powerOn State.reset.dyn ∧
    LinesReleased State.reset.dyn ∧ State.reset.pending = [] ∧ State.reset.store = [] ∧ StoreCanonical State.reset ∧ GatesSound State.reset ∧
    CausesFollow State.reset ∧ InterlockSound State.reset ∧ FloodGatesWarned State.reset ∧
    DebtInRange State.reset ∧ TotalsExact State.reset ∧ OpeningsInRange State.reset ∧
    LevelsInRange State.reset ∧ LimitsFollowLevel State.reset ∧ FixedEntries State.reset ∧
    LinksValid State.reset ∧ PortalsSound State.reset ∧ HandSound State.reset ∧ PortIdle State.reset

/-! ### Time -/

/-- A TICK arrival advances the 32-bit tick count by one from every state, and touches no configuration, no store word, no
station status word, no portal, no log index and no transaction in hand.

With nothing due and an empty queue, a TICK arrival counts and does nothing else: the tick count and every running
timer advance by one arrival. -/
def Obligations.TickCountsTheArrival : Prop :=
  (∀ s : State, ∃ t, exec .tick s = .next t ∧ t.dyn.tick = s.dyn.tick + 1 ∧ t.tables = s.tables ∧ StoreKept s t ∧
    t.dyn.statusWords = s.dyn.statusWords ∧ t.dyn.portals = s.dyn.portals ∧ t.dyn.logWrite = s.dyn.logWrite ∧
    t.dyn.logRead = s.dyn.logRead ∧ t.dyn.hand = s.dyn.hand ∧ t.dyn.answer = s.dyn.answer ∧
    t.dyn.passKind = s.dyn.passKind ∧ t.dyn.passFailed = s.dyn.passFailed ∧
    t.dyn.powerOnUnfinished = s.dyn.powerOnUnfinished) ∧
  ∀ s : State, PortIdle s → NothingDue s → s.dyn.queue = [] →
    exec .tick s = .next { s with
      dyn := { counted s with
        tick := s.dyn.tick + 1
        gates := Table.tab fun g => { s.dyn.gates.get g with
          lagTimer := (s.dyn.gates.get g).lagTimer.count, recoveryTimer := (s.dyn.gates.get g).recoveryTimer.count }
        dams := Table.tab fun d => { s.dyn.dams.get d with dwellTimer := (s.dyn.dams.get d).dwellTimer.count }
        reaches := Table.tab fun r => { s.dyn.reaches.get r with
          a := { (s.dyn.reaches.get r).a with timer := (s.dyn.reaches.get r).a.timer.count }
          b := { (s.dyn.reaches.get r).b with timer := (s.dyn.reaches.get r).b.timer.count } }
        refreshTimer := s.dyn.refreshTimer.count } }

/-- A TICK arrival with nothing due counts, and then scans the queue at the new tick count: the first eligible entry is
granted a step if its interlock passes and else held, and the queue is examined again from its head, until no entry is
eligible; only then do the links take the INTERLOCK_LOST events, oldest first. That they wait for the end of the scan is
the model's choice (log entry 14, DEDUCED), and so is it that the store port takes up no record before then (log entry 41,
DESIGN CHOICE).

The same with one gate in the queue, in its own terms: an eligible gate whose interlock condition passes is granted a step
at the new tick count and leaves the queue, and one that is not eligible keeps its place; every other gate only has its
timers counted. Eligible with its condition k false it is held by INTERLOCK and leaves the queue, with no step, and
INTERLOCK_LOST is raised; every other gate is only held by links. -/
def Obligations.TickScansTheQueue : Prop :=
  (∀ s : State, PortIdle s → NothingDue s → GatesSound s →
    ∃ q lost, Scanned s.tables (countArrival (counted s)) lost q ∧ Gives .tick s s.tables (offerLost s.tables lost q)) ∧
  (∀ (s : State) (g : GateId), PortIdle s → NothingDue s → s.dyn.queue = [g] →
    (s.dyn.gates.get g).state = .moving →
    falseCondition s.tables s.dyn.statusWords g
      (directionTo (s.dyn.gates.get g).command (s.dyn.gates.get g).target) = none →
    ∃ t, exec .tick s = .next t ∧ t.tables = s.tables ∧ StoreKept s t ∧ t.dyn.tick = s.dyn.tick + 1 ∧
      t.dyn.totals = s.dyn.totals ∧ SameControl s t ∧ BusKept s t ∧ LogKept s t ∧
      (∀ h, h ≠ g → t.dyn.gates.get h = (s.dyn.gates.get h).counted) ∧
      (if eligible s.tables { s.dyn with tick := s.dyn.tick + 1 } g then
        t.dyn.queue = [] ∧
          Gate.Stepped (s.tables.gates.get g) (recoveryDwellOf s.tables g) (s.dyn.tick + 1)
            (s.dyn.gates.get g).counted (t.dyn.gates.get g) ∧
          ∀ d, (s.tables.gates.get g).inDam d = true →
            (t.dyn.dams.get d).lastStep (directionTo (s.dyn.gates.get g).command (s.dyn.gates.get g).target) =
              some (s.dyn.tick + 1)
      else t.dyn.queue = [g] ∧ t.dyn.gates.get g = (s.dyn.gates.get g).counted)) ∧
  ∀ (s : State) (g : GateId) (k : CondId), PortIdle s → NothingDue s → s.dyn.queue = [g] →
    (s.dyn.gates.get g).state = .moving → eligible s.tables { s.dyn with tick := s.dyn.tick + 1 } g = true →
    falseCondition s.tables s.dyn.statusWords g
      (directionTo (s.dyn.gates.get g).command (s.dyn.gates.get g).target) = some k →
    ∃ t, exec .tick s = .next t ∧ t.tables = s.tables ∧ StoreKept s t ∧ t.dyn.tick = s.dyn.tick + 1 ∧
      t.dyn.totals = s.dyn.totals ∧ t.dyn.queue = [] ∧ ControlByLinks s t ∧ BusKept s t ∧
      (∀ h, h ≠ g → Gate.OnlyHolds (s.dyn.gates.get h).counted (t.dyn.gates.get h)) ∧
      Gate.OnlyHolds
        { (s.dyn.gates.get g).counted with
          state := .held, causes := { (s.dyn.gates.get g).causes with interlock := true } }
        (t.dyn.gates.get g) ∧
      Raised
        { interlockLostEvent s.tables g (directionTo (s.dyn.gates.get g).command (s.dyn.gates.get g).target) k s.dyn with
          context := .gate .held }
        { s with dyn := { s.dyn with tick := s.dyn.tick + 1 } } t

/-- The lag timer of an in-service gate that has reached its expiry arrival makes the gate FAULTED with cause LAG: its
target becomes its command, its timers stop, awaiting settle and INTERLOCK are cleared, it leaves the queue, its dam's
total takes the change of release with the EXCEEDED flags following where there is one, and FEEDBACK_LAG is raised. Every
other gate is only held by links. -/
def Obligations.LagExpiryFaultsTheGate : Prop :=
  ∀ (s : State) (g : GateId), PortIdle s → (s.dyn.gates.get g).lagTimer = .running 0 →
    (s.dyn.gates.get g).inService = true →
    ∃ t, exec (.lagTimerExpiry g) s = .next t ∧ OnlyEventsBeside s t ∧ OthersOnlyHeld s t g ∧ BusKept s t ∧
      Gate.OnlyHolds
        { s.dyn.gates.get g with
          state := .faulted, faultCause := some .lag, target := (s.dyn.gates.get g).command
          lagTimer := .stopped, recoveryTimer := .stopped, awaiting := false
          causes := { (s.dyn.gates.get g).causes with interlock := false } }
        (t.dyn.gates.get g) ∧
      g ∉ t.dyn.queue ∧
      TotalsMoved s t (s.tables.gates.get g).dam (releaseOf s.tables g (s.dyn.gates.get g).target)
        (releaseOf s.tables g (s.dyn.gates.get g).command) ∧
      ExceededAgrees s.tables s t (reachOfFault s g) ∧
      Raised (feedbackLagEvent g (s.dyn.gates.get g).state s.dyn) s t

/-- The recovery timer of a RECOVERING gate that has reached its expiry arrival: at target 0 the gate is CLOSED, and its
dam is silenced where every flood gate of the dam is then CLOSED or OUT_OF_SERVICE; nothing else changes but
dirty marks and the job that the port takes up.

The same expiry at a target above 0: the gate is HELD where a hold cause stands in its set, and nothing else changes in
the same sense; else it moves (and may be granted its first step, or be held by a false interlock, within the event). -/
def Obligations.RecoveryExpiryEndsTheDwell : Prop :=
  (∀ (s : State) (g : GateId), PortIdle s → (s.dyn.gates.get g).state = .recovering →
    (s.dyn.gates.get g).recoveryTimer = .running 0 → (s.dyn.gates.get g).target = 0 →
    (s.tables.gates.get g).kind = .flood →
    ∃ t, exec (.recoveryExpiry g) s = .next t ∧ t.tables = s.tables ∧ StoreKept s t ∧ SameSurroundings s t ∧
      SameControl s t ∧ BusKept s t ∧ LogKept s t ∧ (GatesSound s → t.dyn.queue = s.dyn.queue) ∧ t.dyn.totals = s.dyn.totals ∧ t.dyn.reaches = s.dyn.reaches ∧
      t.dyn.gates.get g = { s.dyn.gates.get g with state := .closed, recoveryTimer := .stopped } ∧
      (∀ h, h ≠ g → t.dyn.gates.get h = s.dyn.gates.get h) ∧
      ∀ d, t.dyn.dams.get d =
        if (s.tables.gates.get g).inDam d = true ∧
            ∀ h, (s.tables.gates.get h).kind = .flood → (s.tables.gates.get h).inDam d = true →
              (t.dyn.gates.get h).state = .closed ∨ (t.dyn.gates.get h).state = .outOfService
        then { s.dyn.dams.get d with warning := .silent, dwellTimer := .stopped }
        else s.dyn.dams.get d) ∧
  ∀ (s : State) (g : GateId), PortIdle s → GatesSound s → (s.dyn.gates.get g).state = .recovering →
    (s.dyn.gates.get g).recoveryTimer = .running 0 → 0 < (s.dyn.gates.get g).target →
    ∃ t, exec (.recoveryExpiry g) s = .next t ∧ t.tables = s.tables ∧ StoreKept s t ∧ SameSurroundings s t ∧
      ControlByLinks s t ∧ BusKept s t ∧ t.dyn.totals = s.dyn.totals ∧ t.dyn.reaches = s.dyn.reaches ∧
      (s.dyn.gates.get g).sameOrder (t.dyn.gates.get g) ∧ (t.dyn.gates.get g).recoveryTimer = .stopped ∧
      (if (s.dyn.gates.get g).causes.isEmpty then
        (t.dyn.gates.get g).state = .moving ∨ (t.dyn.gates.get g).state = .held ∨
          (t.dyn.gates.get g).state = .settled
      else
        t.dyn.gates.get g = { s.dyn.gates.get g with state := .held, recoveryTimer := .stopped } ∧
          SameControl s t ∧ LogKept s t ∧ t.dyn.dams = s.dyn.dams ∧ t.dyn.queue = s.dyn.queue ∧ ∀ h, h ≠ g → t.dyn.gates.get h = s.dyn.gates.get h)

/-- The warning dwell of dam d that has reached its expiry arrival, while nothing can join the queue (a mode other than
RUN, or no gate of the dam in WARNING without a hold cause): the dam is SOUNDED, and every gate of the dam in WARNING
becomes MOVING or HELD by its own hold-cause set. Nothing else changes
but dirty marks and the job that the port takes up.

The same expiry in RUN with no queued or joining gate eligible: the gates released join the queue at its tail in ascending
gate number, those awaiting settle and those whose step interval has not elapsed excepted, and none is granted a step; the dam
is SOUNDED and the other dams stand.

The same expiry in RUN: the dam is SOUNDED, and every other dam's warning stands, but that a dam is silenced where the scan
of this event closes the last flood gate of it, a queued one. No gate of the dam stays in WARNING, each keeps its target
and stays in service. A gate that was in WARNING with a hold cause is HELD; a gate that was neither in WARNING at the dam
nor in the queue is only held by links. -/
def Obligations.WarningDwellExpirySoundsTheDam : Prop :=
  (∀ (s : State) (d : DamId), PortIdle s → (s.dyn.dams.get d).dwellTimer = .running 0 →
    (s.dyn.mode ≠ .run ∨ ∀ g, (s.tables.gates.get g).inDam d = true → (s.dyn.gates.get g).state = .warning →
      (s.dyn.gates.get g).causes.isEmpty = false) →
    ∃ t, exec (.warningDwellExpiry d) s = .next t ∧ t.tables = s.tables ∧ StoreKept s t ∧ SameSurroundings s t ∧
      SameControl s t ∧ BusKept s t ∧ LogKept s t ∧ (GatesSound s → t.dyn.queue = s.dyn.queue) ∧
      warnLine t.dyn d = true ∧ t.dyn.totals = s.dyn.totals ∧ t.dyn.reaches = s.dyn.reaches ∧
      t.dyn.dams.get d = { s.dyn.dams.get d with warning := .sounded, dwellTimer := .stopped } ∧
      (∀ e, e ≠ d → t.dyn.dams.get e = s.dyn.dams.get e) ∧
      ∀ g, t.dyn.gates.get g =
        if (s.tables.gates.get g).inDam d = true ∧ (s.dyn.gates.get g).state = .warning then
          { s.dyn.gates.get g with
            state := if (s.dyn.gates.get g).causes.isEmpty then .moving else .held }
        else s.dyn.gates.get g) ∧
  (∀ (s : State) (d : DamId), PortIdle s → GatesSound s → (s.dyn.dams.get d).dwellTimer = .running 0 →
    s.dyn.mode = .run →
    (∀ g, g ∈ s.dyn.queue ∨ ((s.tables.gates.get g).inDam d = true ∧ (s.dyn.gates.get g).state = .warning) →
      eligible s.tables s.dyn g = false) →
    ∃ t, exec (.warningDwellExpiry d) s = .next t ∧ t.tables = s.tables ∧ StoreKept s t ∧ SameSurroundings s t ∧
      SameControl s t ∧ BusKept s t ∧ LogKept s t ∧ t.dyn.totals = s.dyn.totals ∧ t.dyn.reaches = s.dyn.reaches ∧
      t.dyn.dams.get d = { s.dyn.dams.get d with warning := .sounded, dwellTimer := .stopped } ∧
      (∀ e, e ≠ d → t.dyn.dams.get e = s.dyn.dams.get e) ∧
      t.dyn.queue = s.dyn.queue ++ (List.finRange 48).filter (fun g =>
        (s.tables.gates.get g).inDam d && (s.dyn.gates.get g).state == .warning &&
          (s.dyn.gates.get g).causes.isEmpty && !(s.dyn.gates.get g).awaiting && stepIntervalElapsed s.tables s.dyn g) ∧
      ∀ g, t.dyn.gates.get g =
        if (s.tables.gates.get g).inDam d = true ∧ (s.dyn.gates.get g).state = .warning then
          { s.dyn.gates.get g with
            state := if (s.dyn.gates.get g).causes.isEmpty then .moving else .held }
        else s.dyn.gates.get g) ∧
  ∀ (s : State) (d : DamId), PortIdle s → GatesSound s → (s.dyn.dams.get d).dwellTimer = .running 0 →
    s.dyn.mode = .run →
    ∃ t, exec (.warningDwellExpiry d) s = .next t ∧ t.tables = s.tables ∧ StoreKept s t ∧ SameSurroundings s t ∧
      ControlByLinks s t ∧ BusKept s t ∧ t.dyn.totals = s.dyn.totals ∧ t.dyn.reaches = s.dyn.reaches ∧
      (t.dyn.dams.get d).warning ≠ .sounding ∧ (t.dyn.dams.get d).dwellTimer = .stopped ∧
      (∀ e, (t.dyn.dams.get e).warning = (if e = d then .sounded else (s.dyn.dams.get e).warning) ∨
        ((t.dyn.dams.get e).warning = .silent ∧ AllShut s.tables t.dyn e ∧
          ∃ g ∈ s.dyn.queue, (s.tables.gates.get g).kind = .flood ∧ (s.tables.gates.get g).inDam e = true ∧
            (t.dyn.gates.get g).state = .closed)) ∧
      ∀ g, (s.dyn.gates.get g).sameOrder (t.dyn.gates.get g) ∧
        (if (s.tables.gates.get g).inDam d = true ∧ (s.dyn.gates.get g).state = .warning then
          (t.dyn.gates.get g).inService = true ∧ (t.dyn.gates.get g).state ≠ .warning ∧
            ((s.dyn.gates.get g).causes.isEmpty = false → (t.dyn.gates.get g).state = .held)
        else g ∉ s.dyn.queue → Gate.OnlyHolds (s.dyn.gates.get g) (t.dyn.gates.get g))

/-- A sample's freshness timer that has reached its expiry arrival makes the sample STALE with its value kept, and the
level, the level state, the split flag, the limits and the EXCEEDED flag of the reach follow; its events are recorded and offered to the links. The
other reaches and every total are as they were, and gates are only held by links. -/
def Obligations.SampleExpiryDerivesTheLevel : Prop :=
  ∀ (s : State) (r : ReachId) (k : Sensor), PortIdle s → ((s.dyn.reaches.get r).sample k).timer = .running 0 →
    ∃ t, exec (.sampleExpiry r k) s = .next t ∧ t.tables = s.tables ∧ StoreKept s t ∧ SameSurroundings s t ∧
      ControlByLinks s t ∧ BusKept s t ∧ t.dyn.totals = s.dyn.totals ∧
      LevelDerived (s.tables.reaches.get r) (s.dyn.reaches.get r) (t.dyn.reaches.get r) k
        ⟨((s.dyn.reaches.get r).sample k).value, .stale, .stopped⟩ ∧
      ExceededFollows s.tables s t r ∧ LevelEventsRaised s t r ∧ BoundsReported s t ∧
      (∀ x, x ≠ r → t.dyn.reaches.get x = s.dyn.reaches.get x) ∧
      ∀ g, Gate.OnlyHolds (s.dyn.gates.get g) (t.dyn.gates.get g)

/-- The refresh interval timer that has reached its expiry arrival is restarted with the interval in force, in every mode;
in CONFIG and EXITING nothing else happens. In HOLD one refresh of the first kept dam in rotation order is offered, unless
one of HOLD is offered or in progress.

In RUN an expiry below debt 7 adds one to the debt and, where none is offered or in progress and the debt is then -3 or
more, offers a refresh of the dam at the pointer. At debt 7 the debt stands and REFRESH_OVERRUN is recorded. A refresh
offered at a free port is granted there; with no gate to write it completes within its grant, and the next grant follows
(log entry 30, DEDUCED). -/
def Obligations.RefreshIntervalExpiry : Prop :=
  (∀ s : State, PortIdle s → s.dyn.refreshTimer = .running 0 →
    (s.dyn.mode = .config ∨ s.dyn.mode = .exiting →
      exec .refreshIntervalExpiry s =
        .next { s with dyn := { counted s with refreshTimer := .running s.tables.refreshInterval.toNat } }) ∧
    (s.dyn.mode = .hold → s.dyn.offer.isSome = true ∨ holdRefreshRunning s.dyn = true →
      exec .refreshIntervalExpiry s =
        .next { s with dyn := { counted s with refreshTimer := .running s.tables.refreshInterval.toNat } }) ∧
    (s.dyn.mode = .hold → s.dyn.offer = none → holdRefreshRunning s.dyn = false →
      Gives .refreshIntervalExpiry s s.tables
        { counted s with
          refreshTimer := .running s.tables.refreshInterval.toNat, offer := keptDam s.tables s.dyn })) ∧
  ∀ s : State, PortIdle s → s.dyn.refreshTimer = .running 0 → s.dyn.mode = .run →
    (s.dyn.debt < 7 →
      Gives .refreshIntervalExpiry s s.tables
        { counted s with
          refreshTimer := .running s.tables.refreshInterval.toNat
          debt := s.dyn.debt + 1
          summaryMark := some (match s.dyn.summaryMark with | some m => m | none => s.dyn.moment + 1)
          offer :=
            if s.dyn.offer = none ∧ refreshRunning s.dyn = false ∧ -3 ≤ s.dyn.debt + 1 then some s.dyn.pointer
            else s.dyn.offer }) ∧
    (s.dyn.debt = 7 → ∃ t, exec .refreshIntervalExpiry s = .next t ∧
      OnlyEventsBeside
        { s with dyn := { s.dyn with refreshTimer := .running s.tables.refreshInterval.toNat } } t ∧ BusKept s t ∧
      Recorded ((overrunEvent s.dyn).record s.dyn.tick) t.dyn ∧ LinksActed s.tables .refreshOverrun .none t.dyn ∧
      t.dyn.totals = s.dyn.totals ∧ t.dyn.reaches = s.dyn.reaches ∧
      ∀ g, Gate.OnlyHolds (s.dyn.gates.get g) (t.dyn.gates.get g))

/-- The step interval of a gate that meets the other conditions of joining has elapsed, with the queue empty and no gate
below it waiting to join: the gate joins; eligible with its interlock true it is granted one step at the standing tick and
leaves the queue, and not eligible it stays in the queue. Nothing else changes but dirty marks and the job
that the port takes up. -/
def Obligations.StepIntervalElapsedStartsAStep : Prop :=
  ∀ (s : State) (g : GateId), PortIdle s → s.dyn.queue = [] → joinable s.tables s.dyn g = true →
    (∀ h : GateId, h.val < g.val → joinable s.tables s.dyn h = false) →
    falseCondition s.tables s.dyn.statusWords g
      (directionTo (s.dyn.gates.get g).command (s.dyn.gates.get g).target) = none →
    ∃ t, exec (.stepIntervalElapsed g) s = .next t ∧ t.tables = s.tables ∧ StoreKept s t ∧ SameSurroundings s t ∧
      SameControl s t ∧ BusKept s t ∧ LogKept s t ∧ t.dyn.totals = s.dyn.totals ∧ t.dyn.reaches = s.dyn.reaches ∧
      (∀ h, h ≠ g → t.dyn.gates.get h = s.dyn.gates.get h) ∧
      (if eligible s.tables s.dyn g then
        t.dyn.queue = [] ∧
          Gate.Stepped (s.tables.gates.get g) (recoveryDwellOf s.tables g) s.dyn.tick (s.dyn.gates.get g)
            (t.dyn.gates.get g) ∧
          ∀ d, if (s.tables.gates.get g).inDam d then
              (t.dyn.dams.get d).lastStep (directionTo (s.dyn.gates.get g).command (s.dyn.gates.get g).target) =
                some s.dyn.tick ∧ (t.dyn.dams.get d).hold = (s.dyn.dams.get d).hold
            else t.dyn.dams.get d = s.dyn.dams.get d
      else t.dyn.queue = [g] ∧ t.dyn.gates.get g = s.dyn.gates.get g ∧ t.dyn.dams = s.dyn.dams)

/-- The same with the gate eligible and its interlock condition k for its direction false: no step; the gate gains
INTERLOCK, is HELD and leaves the queue, INTERLOCK_LOST is recorded and offered to the links, and no command, grant tick,
step history or total changes. -/
def Obligations.FalseInterlockHoldsTheGate : Prop :=
  ∀ (s : State) (g : GateId) (k : CondId), PortIdle s → s.dyn.queue = [] → joinable s.tables s.dyn g = true →
    (∀ h : GateId, h.val < g.val → joinable s.tables s.dyn h = false) → eligible s.tables s.dyn g = true →
    falseCondition s.tables s.dyn.statusWords g
      (directionTo (s.dyn.gates.get g).command (s.dyn.gates.get g).target) = some k →
    ∃ t, exec (.stepIntervalElapsed g) s = .next t ∧ OnlyEventsBeside s t ∧ OthersOnlyHeld s t g ∧ BusKept s t ∧
      Gate.OnlyHolds
        { s.dyn.gates.get g with state := .held, causes := { (s.dyn.gates.get g).causes with interlock := true } }
        (t.dyn.gates.get g) ∧
      t.dyn.queue = [] ∧ t.dyn.totals = s.dyn.totals ∧
      Raised
        { interlockLostEvent s.tables g (directionTo (s.dyn.gates.get g).command (s.dyn.gates.get g).target) k s.dyn with
          context := .gate .held } s t

/-- A recorded tick that is 65,535 ticks old is made absent by its own command, and nothing else changes: a gate's last
grant tick, and either entry of a dam's step history. -/
def Obligations.AgedTickRecordsAreDropped : Prop :=
  (∀ (s : State) (g : GateId), PortIdle s → aged s.dyn.tick (s.dyn.gates.get g).lastGrant = true →
    exec (.lastGrantTickAged g) s = .next { s with
      dyn := { counted s with gates := Table.put s.dyn.gates g { s.dyn.gates.get g with lastGrant := none } } }) ∧
  (∀ (s : State) (d : DamId), PortIdle s → aged s.dyn.tick (s.dyn.dams.get d).lastOpen = true →
    exec (.stepHistoryAged d .opening) s = .next { s with
      dyn := { counted s with dams := Table.put s.dyn.dams d { s.dyn.dams.get d with lastOpen := none } } }) ∧
  ∀ (s : State) (d : DamId), PortIdle s → aged s.dyn.tick (s.dyn.dams.get d).lastClose = true →
    exec (.stepHistoryAged d .closing) s = .next { s with
      dyn := { counted s with dams := Table.put s.dyn.dams d { s.dyn.dams.get d with lastClose := none } } }

/-- The model's choices for commands that the protocol excludes: a transaction presented while one is in hand (log entry
1), an expiry or ageing that is not due (log entry 11), and a store answer for a job that is not in progress (log entry
12) change nothing. -/
def Obligations.UntimelyCommandsChangeNothing : Prop :=
  ∀ s : State,
    (∀ (i : Instr) (tr : Transaction), i.transaction? = some tr → s.dyn.hand.isSome = true → exec i s = .next s) ∧
    (∀ g, (s.dyn.gates.get g).lagTimer ≠ .running 0 → exec (.lagTimerExpiry g) s = .next s) ∧
    (∀ g, (s.dyn.gates.get g).recoveryTimer ≠ .running 0 → exec (.recoveryExpiry g) s = .next s) ∧
    (∀ d, (s.dyn.dams.get d).dwellTimer ≠ .running 0 → exec (.warningDwellExpiry d) s = .next s) ∧
    (∀ r k, ((s.dyn.reaches.get r).sample k).timer ≠ .running 0 → exec (.sampleExpiry r k) s = .next s) ∧
    (s.dyn.refreshTimer ≠ .running 0 → exec .refreshIntervalExpiry s = .next s) ∧
    (∀ g, stepIntervalElapsed s.tables s.dyn g = false → exec (.stepIntervalElapsed g) s = .next s) ∧
    (∀ g, aged s.dyn.tick (s.dyn.gates.get g).lastGrant = false → exec (.lastGrantTickAged g) s = .next s) ∧
    (∀ d dir, aged s.dyn.tick ((s.dyn.dams.get d).lastStep dir) = false →
      exec (.stepHistoryAged d dir) s = .next s) ∧
    ∀ (kind : Job → Bool) (i : StoreAnswer → Instr),
      (kind = Job.isForwarded ∧ i = .forwardedAccessComplete) ∨ (kind = Job.isSlot ∧ i = .slotWriteAccessDone) ∨
        (kind = Job.isRefresh ∧ i = .refreshAccessDone) ∨ (kind = Job.isPortal ∧ i = .portalJobAccessDone) ∨
        (kind = Job.isLog ∧ i = .logRecordAccessDone) ∨ (kind = Job.isMirror ∧ i = .mirrorWriteAccessDone) ∨
        (kind = Job.isPass ∧ i = .passWriteAccessDone) →
      (∀ r, s.dyn.running = some r → kind r.job = false) → ∀ a, exec (i a) s = .next s

/-! ### Passage on the station bus -/

/-- Each row that is a write of one word does what a WRITE of that word's byte address does: the address names the
row. That the meaning of a write depends on its address alone, whichever row carries it, is the model's choice (log entry
19). -/
def Obligations.EachWriteRowIsTheWriteOfItsAddress : Prop :=
  ∀ (i : Instr) (x : WriteTarget) (w : BusWrite) (s : State), i.write? = some (x, w) →
    targetOf x.place.1 x.place.2 = x ∧
    exec (.plainWrite (byteAddress x.place.1 x.place.2 w.odd) w.master w.hi w.lo w.data) s = exec i s

/-- A transaction that fails a check is refused with the code of the first check it fails, in the order of Table 7-4 and
then R127, and one REFUSAL record is formed; one refused with NOT_READY makes no record. It touches no configuration, no
store word and nothing else of the part. -/
def Obligations.AccessChecksRefuseInOrder : Prop :=
  ∀ (i : Instr) (s : State) (tr : Transaction) (code : Code), PortIdle s → i.transaction? = some tr →
    s.dyn.hand = none → firstFailing (accessTable s.tables s.dyn tr) = some code →
    (code = .notReady → exec i s = .next { s with
      dyn := { counted s with answer := some ⟨tr.master, .refused .notReady⟩ } }) ∧
    (code ≠ .notReady → Gives i s s.tables (refusedWith s tr code 0))

/-- A READ that passes the checks, and a WRITE that passes them to a word with no row of its own, is taken and waits for
its store access; nothing else changes. -/
def Obligations.ForwardedTransactionsWaitForTheStore : Prop :=
  (∀ (address : BitVec 16) (m : MasterId) (hi lo : Bool) (s : State) (tr : Transaction), PortIdle s →
    Accepted (.stationBusRead address m hi lo) s tr →
    Gives (.stationBusRead address m hi lo) s s.tables (held s tr)) ∧
  ∀ (address : BitVec 16) (m : MasterId) (hi lo : Bool) (data : Word) (s : State) (tr : Transaction), PortIdle s →
    (Instr.plainWrite address m hi lo data).wellFormed = true → Accepted (.plainWrite address m hi lo data) s tr →
    Gives (.plainWrite address m hi lo data) s s.tables (held s tr)

/-! ### Configuration and control words -/

/-- R1: a write to word i + 1 of a gate's configuration must pass the access checks; it is taken while the gate is
OUT_OF_SERVICE, when the record's word is replaced, and refused with IN_SERVICE in any other state. Nothing else of the
part changes. -/
def Obligations.GateConfigurationWrite : Prop :=
  ∀ (s : State) (g : GateId) (i : Fin 7) (w : BusWrite) (tr : Transaction), PortIdle s →
    (Instr.gateConfigWrite g i w).transaction? = some tr →
    (¬ Passes s.tables s.dyn tr →
      ∃ t, exec (.gateConfigWrite g i w) s = .next t ∧ t.tables = s.tables ∧ t.dyn.hand = s.dyn.hand) ∧
    (Accepted (.gateConfigWrite g i w) s tr → (s.dyn.gates.get g).state = .outOfService →
      Gives (.gateConfigWrite g i w) s
        { s.tables with gates := Table.put s.tables.gates g ((s.tables.gates.get g).withWord i w.data) }
        (held s tr)) ∧
    (Accepted (.gateConfigWrite g i w) s tr → (s.dyn.gates.get g).state ≠ .outOfService →
      Gives (.gateConfigWrite g i w) s s.tables (refusedWith s tr .inService 0))

/-- The dam dwells take every value; the refresh keep word takes 0 and 1; the keep mask sets the six keep flags from bits
5 to 0. A taken write replaces the copy and waits for the store, and changes nothing else.

The refresh interval takes any value but 0; the log read index takes 0 to 63 and clears LOG_LOST, and a change of
that marks the status summary, and ALERT then says whether the two indexes differ; the entry of a master 1 to 7 takes every value. -/
def Obligations.DamAndControlWordWrites : Prop :=
  (∀ (s : State) (d : DamId) (w : BusWrite) (tr : Transaction), PortIdle s →
    (Accepted (.damDwellWrite d .warning w) s tr → Gives (.damDwellWrite d .warning w) s
      { s.tables with dams := Table.put s.tables.dams d { s.tables.dams.get d with warningDwell := w.data } }
      (held s tr)) ∧
    (Accepted (.damDwellWrite d .recovery w) s tr → Gives (.damDwellWrite d .recovery w) s
      { s.tables with dams := Table.put s.tables.dams d { s.tables.dams.get d with recoveryDwell := w.data } }
      (held s tr)) ∧
    (Accepted (.refreshKeepWrite d w) s tr → w.data.toNat ≤ 1 → Gives (.refreshKeepWrite d w) s
      { s.tables with dams := Table.put s.tables.dams d { s.tables.dams.get d with keep := w.data == 1 } }
      (held s tr)) ∧
    (Accepted (.refreshKeepWrite d w) s tr → 1 < w.data.toNat →
      Gives (.refreshKeepWrite d w) s s.tables (refusedWith s tr .badConfig 0)) ∧
    (Accepted (.keepMaskWrite w) s tr → Gives (.keepMaskWrite w) s
      { s.tables with dams := Table.tab fun e => { s.tables.dams.get e with keep := w.data.getLsbD e.val } }
      (held s tr))) ∧
  ∀ (s : State) (i : Fin 7) (w : BusWrite) (tr : Transaction), PortIdle s →
    (Accepted (.refreshIntervalWrite w) s tr → w.data ≠ 0 →
      Gives (.refreshIntervalWrite w) s { s.tables with refreshInterval := w.data } (held s tr)) ∧
    (Accepted (.refreshIntervalWrite w) s tr → w.data = 0 →
      Gives (.refreshIntervalWrite w) s s.tables (refusedWith s tr .badConfig 0)) ∧
    (Accepted (.logReadIndexWrite w) s tr → w.data.toNat ≤ 63 → Gives (.logReadIndexWrite w) s s.tables
      { held s tr with
        logRead := BitVec.ofNat 6 w.data.toNat
        logLost := false
        summaryMark :=
          if s.dyn.logLost then some (s.dyn.summaryMark.getD (s.dyn.moment + 1)) else s.dyn.summaryMark }) ∧
    (Accepted (.logReadIndexWrite w) s tr → w.data.toNat ≤ 63 → ∀ t, exec (.logReadIndexWrite w) s = .next t →
      alertLine t.dyn = decide (s.dyn.logWrite ≠ BitVec.ofNat 6 w.data.toNat)) ∧
    (Accepted (.logReadIndexWrite w) s tr → 63 < w.data.toNat →
      Gives (.logReadIndexWrite w) s s.tables (refusedWith s tr .badConfig 0)) ∧
    (Accepted (.masterEntryWrite i w) s tr → Gives (.masterEntryWrite i w) s
      { s.tables with
        masters := Table.put s.tables.masters ⟨i.val + 1, by omega⟩ ⟨w.data.getLsbD 15, w.data.extractLsb' 0 2⟩ }
      (held s tr))

/-- R150: the alarm clear word clears the flags that its bits 3 to 0 name, releases their lines and leaves the others; the
write is forwarded
under page 0's descriptor alone, and each of the two passes writes the word, with 0. -/
def Obligations.AlarmClearWrite : Prop :=
  (∀ (s : State) (w : BusWrite) (tr : Transaction), PortIdle s → Accepted (.alarmClearWrite w) s tr →
    Gives (.alarmClearWrite w) s s.tables
      { held s tr with alarms := Table.tab fun k => s.dyn.alarms.get k && !w.data.getLsbD k.val } ∧
    ∀ t, exec (.alarmClearWrite w) s = .next t →
      ∀ k, alarmLine t.dyn k = (alarmLine s.dyn k && !w.data.getLsbD k.val)) ∧
  needsLevelZero 0 7 = false ∧
  (∀ kind : PassKind, ∃ k, k < kind.length ∧ ∀ (c : Tables) (p : Dyn), passAccess c p kind k = ownWrite 0 7 0) ∧
  ∀ (c : Tables) (p : Dyn) (kind : PassKind) (k : Nat), (passAccess c p kind k).page = 0 →
    (passAccess c p kind k).word = 7 → (passAccess c p kind k).data = 0

/-- R124: a descriptor write is examined in the order of the rule; refused, it leaves every descriptor, and taken it
replaces the descriptor and is forwarded. -/
def Obligations.DescriptorWrite : Prop :=
  ∀ (s : State) (q : PageId) (w : BusWrite) (tr : Transaction), PortIdle s →
    (¬ Passes s.tables s.dyn tr → (Instr.descriptorWrite q w).transaction? = some tr →
      ∃ t, exec (.descriptorWrite q w) s = .next t ∧ t.tables = s.tables ∧ t.dyn.hand = s.dyn.hand) ∧
    (Accepted (.descriptorWrite q w) s tr → ∀ code, firstFailing (descriptorTable q w.data) = some code →
      Gives (.descriptorWrite q w) s s.tables (refusedWith s tr code 0)) ∧
    (Accepted (.descriptorWrite q w) s tr → firstFailing (descriptorTable q w.data) = none →
      Gives (.descriptorWrite q w) s
        { s.tables with
          descriptors := Table.put s.tables.descriptors q
            { present := w.data.getLsbD 15, readLevel := w.data.extractLsb' 13 2
              writeLevel := w.data.extractLsb' 11 2, decimal := w.data.getLsbD 10
              limit := w.data.extractLsb' 0 8 } }
        (held s tr))

/-- The first word of a portal's configuration refuses a maximum count of 0 and takes every other value; the second takes
every dam mask.

A write to words 1 to 16 of a portal's page, while the portal is not busy, goes into the buffer and is forwarded; one
to words 17 to 125 is forwarded and changes nothing. -/
def Obligations.PortalWordWrites : Prop :=
  (∀ (s : State) (q : PortalId) (w : BusWrite) (tr : Transaction), PortIdle s →
    (Accepted (.portalConfigWrite q 0 w) s tr → w.data.extractLsb' 0 4 = 0 →
      Gives (.portalConfigWrite q 0 w) s s.tables (refusedWith s tr .badConfig 0)) ∧
    (Accepted (.portalConfigWrite q 0 w) s tr → w.data.extractLsb' 0 4 ≠ 0 → Gives (.portalConfigWrite q 0 w) s
      { s.tables with
        portals := Table.put s.tables.portals q
          { s.tables.portals.get q with
            enabled := w.data.getLsbD 15, invokeLevel := w.data.extractLsb' 12 2
            grantedLevel := w.data.extractLsb' 10 2, maxCount := w.data.extractLsb' 0 4 } }
      (held s tr)) ∧
    (Accepted (.portalConfigWrite q 1 w) s tr → Gives (.portalConfigWrite q 1 w) s
      { s.tables with
        portals := Table.put s.tables.portals q
          { s.tables.portals.get q with damMask := w.data.extractLsb' 0 6 } }
      (held s tr))) ∧
  ∀ (s : State) (q : PortalId) (i : Fin 125) (w : BusWrite) (tr : Transaction), PortIdle s →
    Accepted (.portalItemWrite q i w) s tr → (s.dyn.portals.get q).busy = false →
    (∀ k : Fin 16, i.val = k.val → Gives (.portalItemWrite q i w) s s.tables
      { held s tr with
        portals := Table.put s.dyn.portals q
          { s.dyn.portals.get q with buffer := Table.put (s.dyn.portals.get q).buffer k w.data } }) ∧
    (16 ≤ i.val → Gives (.portalItemWrite q i w) s s.tables (held s tr))

/-- R145: a link entry write is refused with BAD_CONFIG where the entry as it would be left, with its other word as it
stands, is one that the rule names; else the written word's fields replace the entry's and the write is forwarded. The
entries after the two resets are the rule's. -/
def Obligations.LinkEntryWrite : Prop :=
  (∀ (s : State) (l : LinkId) (i : Fin 2) (w : BusWrite) (tr : Transaction), PortIdle s →
    Accepted (.linkEntryWrite l i w) s tr →
    (linkRefused
        (if i = 0 then (w.data.extractLsb' 8 4).toNat else (s.tables.links.get l).kind.code)
        (if i = 0 then (w.data.extractLsb' 0 6).toNat else (s.tables.links.get l).index.toNat)
        (if i = 0 then (s.tables.links.get l).action.code else (w.data.extractLsb' 8 3).toNat)
        (if i = 0 then (s.tables.links.get l).target.toNat else (w.data.extractLsb' 0 3).toNat) = true →
      Gives (.linkEntryWrite l i w) s s.tables (refusedWith s tr .badConfig 0)) ∧
    (linkRefused
        (if i = 0 then (w.data.extractLsb' 8 4).toNat else (s.tables.links.get l).kind.code)
        (if i = 0 then (w.data.extractLsb' 0 6).toNat else (s.tables.links.get l).index.toNat)
        (if i = 0 then (s.tables.links.get l).action.code else (w.data.extractLsb' 8 3).toNat)
        (if i = 0 then (s.tables.links.get l).target.toNat else (w.data.extractLsb' 0 3).toNat) = false →
      ∃ e : Link, e.word i = w.data &&& (if i = 0 then 0x0F3F else 0x0707) ∧
        (∀ j, j ≠ i → e.word j = (s.tables.links.get l).word j) ∧
        Gives (.linkEntryWrite l i w) s { s.tables with links := Table.put s.tables.links l e } (held s tr))) ∧
  (∀ s : State, ∃ t, exec .powerOnReset s = .next t ∧
    ∀ l, t.tables.links.get l = { kind := .levelHigh, index := 0, action := .none, target := 0 }) ∧
  ∀ s : State, ∃ t, exec .resetLine s = .next t ∧ t.tables.links = s.tables.links

/-- The internal copy of a written word keeps the named fields and nothing else: encoded again it is the written data
with its unused bits 0, and the other words of the record stand. A packed decimal word decodes to the number it spells.

The part's own words hold the fields of their tables and 0 elsewhere: STAMP, the gate, reach and summary mirrors, the log
record, the two result words. The CRC starts at FFFFh and takes each word from its bit 15 to its bit 0. Each output line
follows its flags, and ALERT the log indexes outside a pass. The code tables are those of Sections 1, 6, 7 and 11, and a
packed decimal word with a digit above 9 decodes to nothing.

The records are those of Table 10-1, field by field: REFUSAL (its Value on a lane that is off: log entry 40, DESIGN CHOICE),
every event kind (BOUND_EXCEEDED's Value outside sixteen-bit two's complement: free, log entry 35), and RESET. -/
def Obligations.WrittenWordsKeepTheirFields : Prop :=
  (∀ (c : GateConfig) (i j : Fin 7) (w : Word), (c.withWord i w).word j =
    if j = i then w &&& (if i = 0 then 0x0107 else if i = 1 then 0x00FF else if i = 6 then 0xFF3F else 0xFFFF)
    else c.word j) ∧
  (∀ (c : ReachConfig) (i j : Fin 11) (w : Word), (c.withWord i w).word j = if j = i then w else c.word j) ∧
  (∀ (c : PortalConfig) (i j : Fin 2) (w : Word), (c.withWord i w).word j =
    if j = i then w &&& (if i = 0 then 0xBC0F else 0x003F) else c.word j) ∧
  (∀ (c : Condition) (i j : Fin 2) (w : Word), (c.withWord i w).word j =
    if j = i then w &&& (if i = 0 then 0x030F else 0xFFFF) else c.word j) ∧
  (∀ w : Word, masterWord (masterOfWord w) = w &&& 0x8003) ∧
  (∀ w : Word, descriptorWord (descriptorOfWord w) = w &&& 0xFCFF) ∧
  (∀ (c : Tables) (w : Word),
    Tables.keepMask { c with dams := Table.tab fun d => { c.dams.get d with keep := w.getLsbD d.val } } = w &&& 0x003F) ∧
  (∀ (max : Nat) (w : Word), decodeValue false max w = if w.toNat ≤ max then some w.toNat else none) ∧
  (∀ n max : Nat, n ≤ 9999 → decodeValue true max (bcdWord n) = if n ≤ max then some n else none) ∧
  (∀ (max : Nat) (w : Word) (n : Fin 4), 9 < (w.extractLsb' (4 * n.val) 4).toNat → decodeValue true max w = none) ∧
  (∀ (c : GateConfig) (w : Word), (c.withWord 0 w).kind = if w.getLsbD 8 then .flood else .wicket) ∧
  (∀ (n : BitVec 8) (g : Gate), (stampWord n g).toNat =
    256 * n.toNat + 128 * (g.causes.mode || g.causes.dam || g.causes.interlock).toNat + g.state.code) ∧
  (∀ (decimal : Bool) (g : Gate),
    (gateMirrorValue decimal g 0).toNat =
      256 * (match g.faultCause with | none => 0 | some .lag => 1 | some .store => 2) +
        64 * g.causes.interlock.toNat + 32 * g.causes.dam.toNat + 16 * g.causes.mode.toNat + g.state.code ∧
    gateMirrorValue decimal g 1 = (if decimal then bcdWord g.target else BitVec.ofNat 16 g.target) ∧
    gateMirrorValue decimal g 2 = (if decimal then bcdWord g.command else BitVec.ofNat 16 g.command) ∧
    gateMirrorValue decimal g 3 = (match g.lastRefusal with | none => 0 | some x => BitVec.ofNat 16 x.number)) ∧
  (∀ (c : Tables) (p : Dyn) (r : ReachId),
    reachMirrorValue c p r 0 = p.totals.get r ∧ reachMirrorValue c p r 1 = (p.reaches.get r).ceff ∧
    reachMirrorValue c p r 2 = (p.reaches.get r).deff ∧
    reachMirrorValue c p r 3 =
      (if (c.descriptors.get 16).decimal then bcdWord (p.reaches.get r).level
        else BitVec.ofNat 16 (p.reaches.get r).level) ∧
    (reachMirrorValue c p r 4).toNat =
      1024 * (p.reaches.get r).b.freshness.code + 256 * (p.reaches.get r).a.freshness.code +
        32 * (p.reaches.get r).exceeded.toNat + 16 * (p.reaches.get r).split.toNat +
        (p.reaches.get r).levelState.code ∧
    (reachMirrorValue c p r 5).toNat = 16 * (p.dams.get r).hold.toNat + (p.dams.get r).warning.code ∧
    (reachMirrorValue c p r 6).toNat = (p.dams.get r).sequence.toNat ∧
    (reachMirrorValue c p r 7).toNat =
      ((List.finRange 48).filter fun g => (p.gates.get g).state != .outOfService && (c.gates.get g).inDam r).length) ∧
  (∀ (done : Bool) (p : Dyn), (summaryWord done p).toNat =
    32768 * done.toNat + 16384 * p.logLost.toNat + 4 * (p.debt % 16).toNat + p.mode.code) ∧
  (∀ r : LogRecord,
    (r.word 0).toNat = 16384 * r.kind.code + r.code.toNat ∧ (r.word 1).toNat = 256 * r.master.val + r.page.val ∧
    (r.word 2).toNat = 256 * r.qualifier.toNat + r.subject.toNat ∧ r.word 3 = r.value ∧
    (r.word 4).toNat = r.tick.toNat % 65536 ∧ (r.word 5).toNat = r.tick.toNat / 65536 ∧ r.word 6 = r.detail ∧
    (r.word 7).toNat = (match r.context with | .gate x => x.code | .mode x => 32768 + x.code)) ∧
  (∀ j : PortalJob,
    (resultWord0 j).toNat = 256 * j.status.code + j.sequence.toNat ∧
    (j.index < 16 →
      (resultWord1 j).toNat = 256 * (match j.code with | none => 0 | some x => x.number) + j.index)) ∧
  (crc [] = 0xFFFF ∧ (∀ (ws : List Word) (w : Word), crc (ws ++ [w]) = crcWord (crc ws) w) ∧
    (∀ x w : Word, crcWord x w = (List.range 16).foldl (fun y n => crcBit y (w.getLsbD (15 - n))) x) ∧
    ∀ (x : Word) (b : Bool) (n : Fin 16), (crcBit x b).getLsbD n.val =
      ((decide (0 < n.val) && x.getLsbD (n.val - 1)) !=
        ((x.getLsbD 15 != b) && (n == 12 || n == 5 || n == 0)))) ∧
  (∀ p : Dyn,
    (∀ d, (holdLine p d = true ↔ (p.dams.get d).hold = true) ∧
      (warnLine p d = true ↔ (p.dams.get d).warning = .sounding ∨ (p.dams.get d).warning = .sounded)) ∧
    (∀ k, alarmLine p k = true ↔ p.alarms.get k = true) ∧
    (alertLine p = true ↔ p.passKind = none ∧ p.logWrite ≠ p.logRead)) ∧
  [GateState.outOfService, .closed, .settled, .moving, .held, .warning, .recovering, .faulted].map GateState.code =
    [0, 1, 2, 3, 4, 5, 6, 7] ∧
  [Mode.config, .run, .hold, .exiting].map Mode.code = [0, 1, 2, 3] ∧
  [Freshness.never, .fresh, .stale].map Freshness.code = [0, 1, 2] ∧
  [LevelState.unknown, .low, .normal, .high].map LevelState.code = [0, 1, 2, 3] ∧
  [Warning.silent, .sounding, .sounded].map Warning.code = [0, 1, 2] ∧
  [PortalStatus.none, .done, .refused].map PortalStatus.code = [0, 1, 2] ∧
  [RecordKind.refusal, .event, .reset].map RecordKind.code = [0, 1, 2] ∧
  [EventKind.levelHigh, .levelLow, .levelUnknown, .sensorSplit, .boundExceeded, .feedbackLag, .interlockLost,
    .orderRefused, .storeFault, .refreshOverrun, .portalRefused, .reset].map EventKind.code =
    [0, 1, 2, 3, 4, 5, 6, 7, 8, 9, 10, 11] ∧
  (List.range 16).map EventKind.ofCode =
    [some .levelHigh, some .levelLow, some .levelUnknown, some .sensorSplit, some .boundExceeded, some .feedbackLag,
      some .interlockLost, some .orderRefused, some .storeFault, some .refreshOverrun, some .portalRefused, some .reset,
      none, none, none, none] ∧
  [Action.none, .holdDam, .holdSourceDam, .enterHold, .alarm].map Action.code = [0, 1, 2, 3, 4] ∧
  (List.range 8).map Action.ofCode =
    [some .none, some .holdDam, some .holdSourceDam, some .enterHold, some .alarm, none, none, none] ∧
  [Test.allSet, .anySet, .allClear, .anyClear].map Test.code = [0, 1, 2, 3] ∧
  (List.range 4).map Test.ofCode = [.allSet, .anySet, .allClear, .anyClear] ∧
  (∀ (t : Transaction) (x : Code) (detail : Nat) (p : Dyn), ∃ context : Context,
    refusalRecord t x detail p =
      { kind := .refusal, code := BitVec.ofNat 5 x.number, master := t.master, page := t.page
        qualifier := if t.write then 1 else 0, subject := BitVec.ofNat 8 t.word.val
        value := if t.write then t.data else 0, tick := p.tick, detail := BitVec.ofNat 16 detail, context := context } ∧
    (∀ g : GateId, (∃ i, (t.page, t.word) = (gateConfigPage g, gateConfigWord g i)) ∨
        (∃ i, (t.page, t.word) = (slotPage g, slotWord g i)) → context = .gate (p.gates.get g).state) ∧
    ((∀ (g : GateId), (∀ i, (t.page, t.word) ≠ (gateConfigPage g, gateConfigWord g i)) ∧
        ∀ i, (t.page, t.word) ≠ (slotPage g, slotWord g i)) → context = .mode p.mode)) ∧
  (∀ g : GateId, (gateConfigPage g).val = 3 + g.val / 16 ∧ (slotPage g).val = 14 + g.val / 32 ∧
    (∀ i, (gateConfigWord g i).val = 8 * (g.val % 16) + i.val) ∧ ∀ i, (slotWord g i).val = 4 * (g.val % 32) + i.val) ∧
  (∀ (e : Event) (tick : BitVec 32), e.record tick =
    { kind := .event, code := BitVec.ofNat 5 e.kind.code, master := e.master, page := e.page
      qualifier := BitVec.ofNat 8 e.qualifier
      subject := BitVec.ofNat 8
        (match e.subject with | .reach r => r.val | .gate g => g.val | .portal q => q.val | .none => 255)
      value := e.value, tick := tick, detail := e.detail, context := e.context }) ∧
  (∀ (c : Tables) (p : Dyn) (r : ReachId),
    splitEvent r p =
      ⟨.sensorSplit, .reach r, 0, 16, 0, BitVec.ofNat 16 (p.reaches.get r).a.value,
        BitVec.ofNat 16 (p.reaches.get r).b.value, .mode p.mode⟩ ∧
    levelEvent r .high p =
      some ⟨.levelHigh, .reach r, 0, 16, 0, BitVec.ofNat 16 (p.reaches.get r).level, (p.reaches.get r).ceff, .mode p.mode⟩ ∧
    levelEvent r .unknown p =
      some ⟨.levelUnknown, .reach r, 0, 16, 0, BitVec.ofNat 16 (p.reaches.get r).level, (p.reaches.get r).ceff,
        .mode p.mode⟩ ∧
    levelEvent r .low p =
      some ⟨.levelLow, .reach r, 0, 16, 0, BitVec.ofNat 16 (p.reaches.get r).level, (p.reaches.get r).deff, .mode p.mode⟩ ∧
    levelEvent r .normal p = none ∧
    ∀ b : Bound, ∃ value : Word,
      boundEvent c r b p =
        ⟨.boundExceeded, .reach r, 0, 6, match b with | .ceiling => 0 | .floor => 1 | .surplus => 2 | .draw => 3, value,
          match b with
            | .ceiling => (p.reaches.get r).ceff
            | .floor => (c.reaches.get r).floor
            | .surplus => (c.reaches.get r).surplus
            | .draw => (p.reaches.get r).deff,
          .mode p.mode⟩ ∧
      (-32768 ≤ b.expression p.totals r → b.expression p.totals r ≤ 32767 →
        value = BitVec.ofInt 16 (b.expression p.totals r))) ∧
  (∀ (c : Tables) (p : Dyn) (g : GateId) (before : GateState) (dir : Direction) (k : CondId),
    feedbackLagEvent g before p =
      ⟨.feedbackLag, .gate g, 0, slotPage g, 0, BitVec.ofNat 16 (p.gates.get g).feedback,
        BitVec.ofNat 16 (p.gates.get g).command, .gate before⟩ ∧
    interlockLostEvent c g dir k p =
      ⟨.interlockLost, .gate g, 0, slotPage g, match dir with | .opening => 0 | .closing => 1,
        p.statusWords.get (c.conditions.get k).source, BitVec.ofNat 16 k.val, .gate (p.gates.get g).state⟩) ∧
  (∀ (p : Dyn) (a : Access),
    storeFaultEvent a none p = ⟨.storeFault, .none, 0, a.page, 0, a.data, BitVec.ofNat 16 a.word.val, .mode p.mode⟩ ∧
    (∀ g, storeFaultEvent a (some g) p =
      ⟨.storeFault, .gate g, 0, a.page, 0, a.data, BitVec.ofNat 16 a.word.val, .gate (p.gates.get g).state⟩) ∧
    overrunEvent p = ⟨.refreshOverrun, .none, 0, 0, 0, BitVec.ofNat 16 p.pointer.val, 7, .mode p.mode⟩) ∧
  (∀ (p : Dyn) (q : PortalId) (m : MasterId) (header : Word) (x : Code) (index : Nat),
    portalRefusedEvent q m header x index p =
      ⟨.portalRefused, .portal q, m, portalPage q, x.number, BitVec.ofNat 16 (header.toNat % 256),
        BitVec.ofNat 16 index, .mode p.mode⟩ ∧ (portalPage q).val = 17 + q.val) ∧
  (∀ (kind : PassKind) (p : Dyn), resetRecord kind p =
    { kind := .reset, code := match kind with | .powerOn => 0 | .resetLine => 1, master := 0, page := 0, qualifier := 0
      subject := 0xFF, value := BitVec.ofNat 16 p.passFailed, tick := p.tick, detail := 0, context := .mode .config }) ∧
  [Code.notReady, .masterOff, .misaligned, .notPresent, .beyondLimit, .level, .partialWrite, .partOwned, .fixedField,
    .badConfig, .inService, .noFeedback, .badDigit, .notRunning, .gateState, .orderLevel, .interlock, .ceiling, .floor,
    .surplus, .draw, .portalBusy, .portalFormat, .crc, .damMask, .duplicateGate, .storeError, .portalLevel,
    .modeChange].map Code.number = (List.range 29).map (· + 1)

/-! ### Gates and dams -/

/-- A write of ON for an OUT_OF_SERVICE gate whose record passes R3's checks and whose feedback is known: the gate adopts
its feedback value, takes MODE and DAM as they stand, and its release counts; EXCEEDED follows; an open flood gate puts
its dam into SOUNDED at once. Unless that releases gates of a SOUNDING dam, the other gates are only held by links. -/
def Obligations.ServiceEntryAdoptsTheFeedback : Prop :=
  ∀ (s : State) (g : GateId) (w : BusWrite) (tr : Transaction), PortIdle s → GatesSound s →
    Accepted (.serviceEntry g w) s tr → w.data = 1 → (s.dyn.gates.get g).state = .outOfService →
    RecordFits (s.tables.gates.get g) s.tables.lastDam → (s.dyn.gates.get g).feedbackKnown = true →
    ∃ t, exec (.serviceEntry g w) s = .next t ∧ t.tables = s.tables ∧ StoreKept s t ∧ SameSurroundings s t ∧
      Taken tr t ∧ ControlByLinks s t ∧ BoundsReported s t ∧
      (∀ d, (s.tables.gates.get g).inDam d = true →
        Gate.OnlyHolds
          { s.dyn.gates.get g with
            state :=
              if (s.tables.gates.get g).kind = .flood ∧ (s.dyn.gates.get g).feedback = 0 then .closed else .settled
            target := (s.dyn.gates.get g).feedback
            command := (s.dyn.gates.get g).feedback
            causes := ⟨s.dyn.mode == .hold || s.dyn.mode == .exiting, (s.dyn.dams.get d).hold, false⟩ }
          (t.dyn.gates.get g)) ∧
      TotalsMoved s t (s.tables.gates.get g).dam 0 (releaseOf s.tables g (s.dyn.gates.get g).feedback) ∧
      ExceededAgrees s.tables s t (reachOfGate (s.tables.gates.get g)) ∧
      (∀ d, (s.tables.gates.get g).inDam d = true → (s.tables.gates.get g).kind = .flood →
        0 < (s.dyn.gates.get g).feedback → (t.dyn.dams.get d).warning = .sounded ∧
          ∀ h, (s.tables.gates.get h).inDam d = true → (t.dyn.gates.get h).state ≠ .warning ∨
            (s.dyn.dams.get d).warning ≠ .sounding) ∧
      ((∀ d, (s.tables.gates.get g).inDam d = true → (s.tables.gates.get g).kind = .flood →
          0 < (s.dyn.gates.get g).feedback → (s.dyn.dams.get d).warning ≠ .sounding) →
        OthersOnlyHeld s t g ∧
        ∀ d, (t.dyn.dams.get d).sequence = (s.dyn.dams.get d).sequence ∧
          ((s.tables.gates.get g).inDam d = false ∨ (s.tables.gates.get g).kind = .wicket ∨
              (s.dyn.gates.get g).feedback = 0 →
            Dam.sameButHold (s.dyn.dams.get d) (t.dyn.dams.get d)))

/-- The other service control writes, whichever of the two rows carries them (the model's choice, log entry
19): a value that is neither ON nor OFF, and ON
for a gate whose record fails a check of R3 or whose feedback is not known, are refused with the code R3 gives; ON in
service and OFF out of service are taken with no change. -/
def Obligations.ServiceControlWithoutEffect : Prop :=
  ∀ (i : Instr) (s : State) (g : GateId) (w : BusWrite) (tr : Transaction),
    i = .serviceEntry g w ∨ i = .serviceExit g w → PortIdle s → Accepted i s tr →
    (1 < w.data.toNat → Gives i s s.tables (refusedWith s tr .badConfig 0)) ∧
    (w.data = 1 → (s.dyn.gates.get g).state ≠ .outOfService → Gives i s s.tables (held s tr)) ∧
    (w.data = 0 → (s.dyn.gates.get g).state = .outOfService → Gives i s s.tables (held s tr)) ∧
    (w.data = 1 → (s.dyn.gates.get g).state = .outOfService →
      ¬ RecordFits (s.tables.gates.get g) s.tables.lastDam → Gives i s s.tables (refusedWith s tr .badConfig 0)) ∧
    (w.data = 1 → (s.dyn.gates.get g).state = .outOfService → RecordFits (s.tables.gates.get g) s.tables.lastDam →
      (s.dyn.gates.get g).feedbackKnown = false → Gives i s s.tables (refusedWith s tr .noFeedback 0))

/-- A write of OFF for an in-service gate, in whichever state: the gate's record as R5 leaves it, out of the queue, its
release no longer counted, EXCEEDED following, and its dam silenced where every flood gate of it is then CLOSED or
OUT_OF_SERVICE. The other gates are only held by links. -/
def Obligations.ServiceExitLeavesTheGateOut : Prop :=
  ∀ (s : State) (g : GateId) (w : BusWrite) (tr : Transaction), PortIdle s → Accepted (.serviceExit g w) s tr →
    w.data = 0 → (s.dyn.gates.get g).state ≠ .outOfService →
    ∃ t, exec (.serviceExit g w) s = .next t ∧ t.tables = s.tables ∧ StoreKept s t ∧ SameSurroundings s t ∧
      Taken tr t ∧ ControlByLinks s t ∧ BoundsReported s t ∧
      t.dyn.gates.get g =
        { s.dyn.gates.get g with
          state := .outOfService, target := (s.dyn.gates.get g).command, lagTimer := .stopped
          recoveryTimer := .stopped, awaiting := false, causes := ⟨false, false, false⟩, faultCause := none } ∧
      OthersOnlyHeld s t g ∧ g ∉ t.dyn.queue ∧ t.dyn.queue.Sublist s.dyn.queue ∧
      TotalsMoved s t (s.tables.gates.get g).dam (releaseOf s.tables g (s.dyn.gates.get g).target) 0 ∧
      ExceededAgrees s.tables s t (reachOfGate (s.tables.gates.get g)) ∧
      ∀ d,
        ((s.tables.gates.get g).inDam d = true → (s.tables.gates.get g).kind = .flood → AllShut s.tables t.dyn d →
          Dam.sameButHold { s.dyn.dams.get d with warning := .silent, dwellTimer := .stopped } (t.dyn.dams.get d)) ∧
        (¬((s.tables.gates.get g).inDam d = true ∧ (s.tables.gates.get g).kind = .flood ∧ AllShut s.tables t.dyn d) →
          Dam.sameButHold (s.dyn.dams.get d) (t.dyn.dams.get d))

/-- A write of 1 to dam d's hold control word sets the hold flag and asserts the line: every in-service gate of the dam gains DAM, its move
outstanding HELD and out of the queue. Set already, nothing changes. A value above 1 is refused with BAD_CONFIG, on either
row (the model's choice, log entry 19).

A write of 0 to dam d's hold control word clears the hold flag, releases the line and removes DAM from the dam's in-service gates: a
HELD gate whose set is then empty is MOVING. Stated in full where no released gate joins the queue at once, and where no
link acts for any state of the queue. Clear already, nothing changes. -/
def Obligations.DamHold : Prop :=
  (∀ (s : State) (d : DamId) (w : BusWrite) (tr : Transaction), PortIdle s →
    (∀ i, i = .damHoldSet d w ∨ i = .damHoldClear d w → Accepted i s tr → 1 < w.data.toNat →
      Gives i s s.tables (refusedWith s tr .badConfig 0)) ∧
    (Accepted (.damHoldSet d w) s tr → w.data = 1 → (s.dyn.dams.get d).hold = true →
      Gives (.damHoldSet d w) s s.tables (held s tr)) ∧
    (Accepted (.damHoldSet d w) s tr → w.data = 1 → (s.dyn.dams.get d).hold = false →
      ∃ t, exec (.damHoldSet d w) s = .next t ∧ t.tables = s.tables ∧ StoreKept s t ∧ SameSurroundings s t ∧
        Taken tr t ∧ SameControl s t ∧ LogKept s t ∧ t.dyn.totals = s.dyn.totals ∧
        t.dyn.reaches = s.dyn.reaches ∧ t.dyn.dams = Table.put s.dyn.dams d { s.dyn.dams.get d with hold := true } ∧
        (∀ e, holdLine t.dyn e = (e == d || holdLine s.dyn e)) ∧
        (∀ g, t.dyn.gates.get g =
          if (s.dyn.gates.get g).inService ∧ (s.tables.gates.get g).inDam d then
            { s.dyn.gates.get g with
              causes := { (s.dyn.gates.get g).causes with dam := true }
              state :=
                if (s.dyn.gates.get g).state = .moving ∨ (s.dyn.gates.get g).state = .held then .held
                else (s.dyn.gates.get g).state }
          else s.dyn.gates.get g) ∧
        t.dyn.queue =
          s.dyn.queue.filter fun g => !((s.dyn.gates.get g).inService && (s.tables.gates.get g).inDam d))) ∧
  ∀ (s : State) (d : DamId) (w : BusWrite) (tr : Transaction), PortIdle s → GatesSound s →
    Accepted (.damHoldClear d w) s tr → w.data = 0 →
    ((s.dyn.dams.get d).hold = false → Gives (.damHoldClear d w) s s.tables (held s tr)) ∧
    ((s.dyn.dams.get d).hold = true →
      (∀ g, (s.tables.gates.get g).inDam d = true → (s.dyn.gates.get g).state = .held →
        (s.dyn.gates.get g).causes.mode = false → (s.dyn.gates.get g).causes.interlock = false → NotYet s g) →
      ∃ t, exec (.damHoldClear d w) s = .next t ∧ t.tables = s.tables ∧ StoreKept s t ∧ SameSurroundings s t ∧
        Taken tr t ∧ SameControl s t ∧ LogKept s t ∧ t.dyn.totals = s.dyn.totals ∧
        t.dyn.reaches = s.dyn.reaches ∧ t.dyn.dams = Table.put s.dyn.dams d { s.dyn.dams.get d with hold := false } ∧
        (∀ e, holdLine t.dyn e = (e != d && holdLine s.dyn e)) ∧
        t.dyn.queue = s.dyn.queue ∧
        ∀ g, t.dyn.gates.get g =
          if (s.dyn.gates.get g).inService ∧ (s.tables.gates.get g).inDam d then
            { s.dyn.gates.get g with
              causes := { (s.dyn.gates.get g).causes with dam := false }
              state :=
                if (s.dyn.gates.get g).state = .moving ∨ (s.dyn.gates.get g).state = .held then
                  (if (s.dyn.gates.get g).causes.mode || (s.dyn.gates.get g).causes.interlock then .held else .moving)
                else (s.dyn.gates.get g).state }
          else s.dyn.gates.get g) ∧
    ((s.dyn.dams.get d).hold = true → (∀ l, (s.tables.links.get l).action = .none) →
      ∃ t, exec (.damHoldClear d w) s = .next t ∧ t.tables = s.tables ∧ StoreKept s t ∧ SameSurroundings s t ∧
        Taken tr t ∧ SameControl s t ∧ t.dyn.totals = s.dyn.totals ∧ t.dyn.reaches = s.dyn.reaches ∧
        (∀ e, holdLine t.dyn e = (e != d && holdLine s.dyn e)) ∧
        ∀ g, (s.dyn.gates.get g).sameOrder (t.dyn.gates.get g) ∧
          ((s.dyn.gates.get g).inService = true → (s.tables.gates.get g).inDam d = true →
            (t.dyn.gates.get g).inService = true ∧ (t.dyn.gates.get g).causes.dam = false) ∧
          ((s.tables.gates.get g).inDam d = false → g ∉ s.dyn.queue → t.dyn.gates.get g = s.dyn.gates.get g))

/-- A FEEDBACK write is refused with BAD_DIGIT where the word does not decode in the slot page's format to 0 to 1000; else
the value is stored and known, and it agrees if an in-service gate awaits settle and it differs from the command by at
most the tolerance, when awaiting settle ends and the lag timer stops. A gate that this lets join does so at the tail of
the queue, and a scan from its head follows (the links after it, log entry 14, DEDUCED; the store port after that, log
entry 41, DESIGN CHOICE). Joining an empty queue it is granted a step where it is eligible with its interlock true, is
HELD with INTERLOCK_LOST where it is eligible with its condition false, and else waits in the queue; with no queued gate
eligible, and not itself, it waits at the tail. Otherwise nothing else changes. -/
def Obligations.FeedbackWrite : Prop :=
  ∀ (s : State) (g : GateId) (w : BusWrite) (tr : Transaction), PortIdle s → GatesSound s →
    Accepted (.feedbackWrite g w) s tr →
    match decodeValue (s.tables.descriptors.get (slotPage g)).decimal 1000 w.data with
    | none => Gives (.feedbackWrite g w) s s.tables (refusedWith s tr .badDigit 0)
    | some v =>
      (¬((s.dyn.gates.get g).inService = true ∧ (s.dyn.gates.get g).awaiting = true ∧
          v ≤ (s.dyn.gates.get g).command + (s.tables.gates.get g).tolerance.toNat ∧
          (s.dyn.gates.get g).command ≤ v + (s.tables.gates.get g).tolerance.toNat) →
        Gives (.feedbackWrite g w) s s.tables
          { held s tr with
            gates := Table.put s.dyn.gates g { s.dyn.gates.get g with feedback := v, feedbackKnown := true } }) ∧
      ((s.dyn.gates.get g).inService = true → (s.dyn.gates.get g).awaiting = true →
        v ≤ (s.dyn.gates.get g).command + (s.tables.gates.get g).tolerance.toNat →
        (s.dyn.gates.get g).command ≤ v + (s.tables.gates.get g).tolerance.toNat →
        ((s.dyn.gates.get g).state ≠ .moving ∨ s.dyn.mode ≠ .run ∨ stepIntervalElapsed s.tables s.dyn g = false →
          Gives (.feedbackWrite g w) s s.tables
            { held s tr with
              gates := Table.put s.dyn.gates g
                { s.dyn.gates.get g with
                  feedback := v, feedbackKnown := true, awaiting := false, lagTimer := .stopped } }) ∧
        ((s.dyn.gates.get g).state = .moving → s.dyn.mode = .run → stepIntervalElapsed s.tables s.dyn g = true →
          g ∉ s.dyn.queue → ∀ p : Dyn,
          p =
            { counted s with
              answer := none, queue := s.dyn.queue ++ [g]
              gates := Table.put s.dyn.gates g
                { s.dyn.gates.get g with
                  feedback := v, feedbackKnown := true, awaiting := false, lagTimer := .stopped } } →
          (∃ q lost, Scanned s.tables p lost q ∧
            Gives (.feedbackWrite g w) s s.tables { offerLost s.tables lost q with hand := some tr }) ∧
          ((∀ h, h ∈ s.dyn.queue ∨ h = g → eligible s.tables s.dyn h = false) →
            Gives (.feedbackWrite g w) s s.tables { p with hand := some tr })) ∧
        (∀ k, (s.dyn.gates.get g).state = .moving → s.dyn.mode = .run → stepIntervalElapsed s.tables s.dyn g = true →
          s.dyn.queue = [] → eligible s.tables s.dyn g = true →
          falseCondition s.tables s.dyn.statusWords g
            (directionTo (s.dyn.gates.get g).command (s.dyn.gates.get g).target) = some k →
          ∃ t, exec (.feedbackWrite g w) s = .next t ∧ OnlyEventsBeside s t ∧ OthersOnlyHeld s t g ∧ Taken tr t ∧
            Gate.OnlyHolds
              { s.dyn.gates.get g with
                feedback := v, feedbackKnown := true, awaiting := false, lagTimer := .stopped, state := .held
                causes := { (s.dyn.gates.get g).causes with interlock := true } }
              (t.dyn.gates.get g) ∧
            t.dyn.queue = [] ∧ t.dyn.totals = s.dyn.totals ∧
            Raised
              { interlockLostEvent s.tables g (directionTo (s.dyn.gates.get g).command (s.dyn.gates.get g).target) k
                  s.dyn with
                context := .gate .held } s t) ∧
        ((s.dyn.gates.get g).state = .moving → s.dyn.mode = .run → stepIntervalElapsed s.tables s.dyn g = true →
          s.dyn.queue = [] →
          falseCondition s.tables s.dyn.statusWords g
            (directionTo (s.dyn.gates.get g).command (s.dyn.gates.get g).target) = none →
          ∃ t, exec (.feedbackWrite g w) s = .next t ∧ t.tables = s.tables ∧ StoreKept s t ∧ SameSurroundings s t ∧
            Taken tr t ∧ SameControl s t ∧ LogKept s t ∧ t.dyn.totals = s.dyn.totals ∧ t.dyn.reaches = s.dyn.reaches ∧
            (∀ h, h ≠ g → t.dyn.gates.get h = s.dyn.gates.get h) ∧
            (if eligible s.tables s.dyn g then
              t.dyn.queue = [] ∧
                Gate.Stepped (s.tables.gates.get g) (recoveryDwellOf s.tables g) s.dyn.tick
                  { s.dyn.gates.get g with
                    feedback := v, feedbackKnown := true, awaiting := false, lagTimer := .stopped }
                  (t.dyn.gates.get g)
            else
              t.dyn.queue = [g] ∧
                t.dyn.gates.get g =
                  { s.dyn.gates.get g with
                    feedback := v, feedbackKnown := true, awaiting := false, lagTimer := .stopped })))

/-! ### Levels and the last dam -/

/-- A sensor write is refused with BAD_DIGIT where the word does not decode in page 16's format to 0 to 9999; else the
sample is FRESH with its timer started, or STALE where the timeout is 0, and the level, the level state, the split flag,
the limits and the EXCEEDED flag of the reach follow; its events are recorded and offered to the links. -/
def Obligations.SensorWrite : Prop :=
  ∀ (s : State) (r : ReachId) (k : Sensor) (w : BusWrite) (tr : Transaction), PortIdle s →
    Accepted (.sensorWrite r k w) s tr →
    match decodeValue (s.tables.descriptors.get 16).decimal 9999 w.data with
    | none => Gives (.sensorWrite r k w) s s.tables (refusedWith s tr .badDigit 0)
    | some v =>
      ∃ t, exec (.sensorWrite r k w) s = .next t ∧ t.tables = s.tables ∧ StoreKept s t ∧ SameSurroundings s t ∧
        Taken tr t ∧ ControlByLinks s t ∧ t.dyn.totals = s.dyn.totals ∧
        LevelDerived (s.tables.reaches.get r) (s.dyn.reaches.get r) (t.dyn.reaches.get r) k
          (if (s.tables.reaches.get r).sampleTimeout = 0 then ⟨v, .stale, .stopped⟩
            else ⟨v, .fresh, .running (s.tables.reaches.get r).sampleTimeout.toNat⟩) ∧
        ExceededFollows s.tables s t r ∧ LevelEventsRaised s t r ∧ BoundsReported s t ∧
        (∀ x, x ≠ r → t.dyn.reaches.get x = s.dyn.reaches.get x) ∧
        ∀ g, Gate.OnlyHolds (s.dyn.gates.get g) (t.dyn.gates.get g)

/-- R44: the level state of a known level from the state being left, with the marks and the hysteresis in signed
arithmetic; with no level known the state becomes UNKNOWN.

R81: a gate is eligible exactly when, at its dam with the same-dam intervals and at the dams one above and one below
within 0 to 5 with the adjacent intervals, the interval for each earlier direction has passed since that dam's last step
in it; an absent entry satisfies every interval. The matrix word of each pair of directions is that of Table 4-1.

And what the levels rest on: the level derived from the fresh samples, the split flag, and the effective ceiling and draw
of each level state. -/
def Obligations.LevelStateAndEligibilityRules : Prop :=
  ((∀ (c : ReachConfig) (v : Nat) (state : LevelState), state = .unknown ∨ state = .normal →
    nextLevelState c state v =
      if c.highMark.toNat ≤ v then .high else if v < c.lowMark.toNat then .low else .normal) ∧
  (∀ (c : ReachConfig) (v : Nat), nextLevelState c .high v =
    if (c.highMark.toNat : Int) - (c.hysteresis.toNat : Int) ≤ (v : Int) then .high
    else nextLevelState c .normal v) ∧
  (∀ (c : ReachConfig) (v : Nat), nextLevelState c .low v =
    if (v : Int) < (c.lowMark.toNat : Int) + (c.hysteresis.toNat : Int) then .low else nextLevelState c .normal v) ∧
  ∀ (c : ReachConfig) (x : Reach),
    (∀ v, derivedLevel x.a x.b = some v → (x.derived c).levelState = nextLevelState c x.levelState v) ∧
    (derivedLevel x.a x.b = none → (x.derived c).levelState = .unknown)) ∧
  (∀ a b : Sample, derivedLevel a b =
    if a.freshness = .fresh ∧ b.freshness = .fresh then some (max a.value b.value)
    else if a.freshness = .fresh then some a.value
    else if b.freshness = .fresh then some b.value
    else none) ∧
  (∀ (c : ReachConfig) (a b : Sample), splitFlag c a b = true ↔
    a.freshness = .fresh ∧ b.freshness = .fresh ∧
      (a.value + c.splitTolerance.toNat < b.value ∨ b.value + c.splitTolerance.toNat < a.value)) ∧
  (∀ (c : ReachConfig) (x : LevelState),
    (effectiveCeiling c x).toNat =
      (if x = .high ∨ x = .unknown then min c.ceiling.toNat c.cutCeiling.toNat else c.ceiling.toNat) ∧
    (effectiveDraw c x).toNat = (if x = .low then min c.draw.toNat c.lowDraw.toNat else c.draw.toNat)) ∧
  (∀ (relation : Fin 2) (earlier later : Direction), (matrixIndex relation earlier later).val =
    4 * relation.val + (if earlier = .closing then 2 else 0) + (if later = .closing then 1 else 0)) ∧
  ∀ (c : Tables) (p : Dyn) (g : GateId) (dir : Direction),
    eligibleFor c p g dir = true ↔
      ∀ (n : DamId) (earlier : Direction) (since : BitVec 32), (p.dams.get n).lastStep earlier = some since →
        (n.val = (c.gates.get g).dam.toNat →
          (c.matrix.get (matrixIndex 0 earlier dir)).toNat ≤ (p.tick - since).toNat) ∧
        (n.val + 1 = (c.gates.get g).dam.toNat ∨ n.val = (c.gates.get g).dam.toNat + 1 →
          (c.matrix.get (matrixIndex 1 earlier dir)).toNat ≤ (p.tick - since).toNat)

/-- A write to a reach record word: words 6 to 9 refuse a value above 9999; else the word is replaced, and words 0 to 5
recompute the limits and EXCEEDED, words 6 to 8 the level state of a known level with what follows from it, word 9 the
split flag, and word 10 nothing; the events are recorded and offered to the links. The totals, the samples and the other reaches are as they were. -/
def Obligations.ReachRecordWrite : Prop :=
  ∀ (s : State) (r : ReachId) (i : Fin 11) (w : BusWrite) (tr : Transaction) (c : Tables), PortIdle s →
    Accepted (.reachRecordWrite r i w) s tr →
    c = { s.tables with reaches := Table.put s.tables.reaches r ((s.tables.reaches.get r).withWord i w.data) } →
    (6 ≤ i.val ∧ i.val ≤ 9 ∧ 9999 < w.data.toNat →
      Gives (.reachRecordWrite r i w) s s.tables (refusedWith s tr .badConfig 0)) ∧
    (i.val = 10 → Gives (.reachRecordWrite r i w) s c (held s tr)) ∧
    (i.val ≤ 5 ∨ (i.val ≤ 9 ∧ w.data.toNat ≤ 9999) →
      ∃ t, exec (.reachRecordWrite r i w) s = .next t ∧ t.tables = c ∧ StoreKept s t ∧ SameSurroundings s t ∧
        Taken tr t ∧ ControlByLinks s t ∧ t.dyn.totals = s.dyn.totals ∧
        t.dyn.reaches.get r =
          { s.dyn.reaches.get r with
            levelState :=
              if 6 ≤ i.val ∧ i.val ≤ 8 ∧ (s.dyn.reaches.get r).levelState ≠ .unknown then
                nextLevelState (c.reaches.get r) (s.dyn.reaches.get r).levelState (s.dyn.reaches.get r).level
              else (s.dyn.reaches.get r).levelState
            split :=
              if i.val = 9 then splitFlag (c.reaches.get r) (s.dyn.reaches.get r).a (s.dyn.reaches.get r).b
              else (s.dyn.reaches.get r).split
            ceff := effectiveCeiling (c.reaches.get r) (t.dyn.reaches.get r).levelState
            deff := effectiveDraw (c.reaches.get r) (t.dyn.reaches.get r).levelState
            exceeded := (t.dyn.reaches.get r).exceeded } ∧
        (i.val ≤ 5 → (t.dyn.reaches.get r).exceeded = (firstViolated c t.dyn.totals t.dyn.reaches r).isSome) ∧
        (6 ≤ i.val → ExceededFollows c s t r) ∧ LevelEventsRaised s t r ∧ BoundsReported s t ∧
        (∀ x, x ≠ r → t.dyn.reaches.get x = s.dyn.reaches.get x) ∧
        ∀ g, Gate.OnlyHolds (s.dyn.gates.get g) (t.dyn.gates.get g))

/-- R112: the outcomes of a write of the last dam L; a change of L makes EXCEEDED agree with the bounds for reaches 0 to
the new L and clears it above, and moves neither the rotation pointer nor a step history. L is 0 after a power-on reset
and kept by the reset line. -/
def Obligations.LastDamWrite : Prop :=
  (∀ (s : State) (w : BusWrite) (tr : Transaction), PortIdle s → Accepted (.lastDamWrite w) s tr →
    (5 < (w.data.extractLsb' 0 3).toNat → Gives (.lastDamWrite w) s s.tables (refusedWith s tr .badConfig 0)) ∧
    ((w.data.extractLsb' 0 3).toNat = s.tables.lastDam.val → Gives (.lastDamWrite w) s s.tables (held s tr)) ∧
    ((w.data.extractLsb' 0 3).toNat ≤ 5 → (w.data.extractLsb' 0 3).toNat ≠ s.tables.lastDam.val →
      s.dyn.mode ≠ .config → Gives (.lastDamWrite w) s s.tables (refusedWith s tr .modeChange 0)) ∧
    ((w.data.extractLsb' 0 3).toNat ≤ 5 → (w.data.extractLsb' 0 3).toNat ≠ s.tables.lastDam.val →
      s.dyn.mode = .config →
      (∃ g, (s.dyn.gates.get g).inService = true ∧
        (w.data.extractLsb' 0 3).toNat < (s.tables.gates.get g).dam.toNat) →
      Gives (.lastDamWrite w) s s.tables (refusedWith s tr .inService 0)) ∧
    (∀ l : DamId, (w.data.extractLsb' 0 3).toNat = l.val → l ≠ s.tables.lastDam → s.dyn.mode = .config →
      (∀ g, (s.dyn.gates.get g).inService = true → (s.tables.gates.get g).dam.toNat ≤ l.val) →
      ∃ t, exec (.lastDamWrite w) s = .next t ∧ t.tables = { s.tables with lastDam := l } ∧ StoreKept s t ∧
        SameSurroundings s t ∧ Taken tr t ∧ t.dyn.mode = .config ∧ ControlByLinks s t ∧ BoundsReported s t ∧ t.dyn.totals = s.dyn.totals ∧
        (∀ d, Dam.sameButHold (s.dyn.dams.get d) (t.dyn.dams.get d)) ∧
        (∀ r, t.dyn.reaches.get r =
          { s.dyn.reaches.get r with
            exceeded :=
              if r.val ≤ l.val then (firstViolated t.tables t.dyn.totals t.dyn.reaches r).isSome else false }) ∧
        ∀ g, Gate.OnlyHolds (s.dyn.gates.get g) (t.dyn.gates.get g))) ∧
  (∀ s : State, ∃ t, exec .powerOnReset s = .next t ∧ t.tables.lastDam.val = 0) ∧
  ∀ s : State, ∃ t, exec .resetLine s = .next t ∧ t.tables.lastDam = s.tables.lastDam

/-! ### The scheduler -/

/-- A stagger matrix write replaces the word and is followed by a scan with the new interval: the first
eligible entry is granted a step or held, and the queue is examined again from its head until no entry is eligible; only
then do the links take the INTERLOCK_LOST events, oldest first: that they wait for the end of the scan is the model's
choice (log entry 14, DEDUCED), and so is it that the store port takes up no record before then (log entry 41, DESIGN
CHOICE). With no queued gate eligible nothing else changes, and a gate alone in the queue
that is eligible, its interlock true, is granted a step. -/
def Obligations.StaggerMatrixWrite : Prop :=
  ∀ (s : State) (i : Fin 8) (w : BusWrite) (tr : Transaction) (c : Tables), PortIdle s →
    Accepted (.staggerMatrixWrite i w) s tr → c = { s.tables with matrix := Table.put s.tables.matrix i w.data } →
    ((∀ g ∈ s.dyn.queue, eligible c s.dyn g = false) → Gives (.staggerMatrixWrite i w) s c (held s tr)) ∧
    (GatesSound s →
      ∃ q lost, Scanned c { counted s with answer := none } lost q ∧
        Gives (.staggerMatrixWrite i w) s c { offerLost c lost q with hand := some tr }) ∧
    ∀ g, s.dyn.queue = [g] → (s.dyn.gates.get g).state = .moving → eligible c s.dyn g = true →
      falseCondition c s.dyn.statusWords g
        (directionTo (s.dyn.gates.get g).command (s.dyn.gates.get g).target) = none →
      ∃ t, exec (.staggerMatrixWrite i w) s = .next t ∧ t.tables = c ∧ StoreKept s t ∧ SameSurroundings s t ∧
        Taken tr t ∧ SameControl s t ∧ LogKept s t ∧ t.dyn.totals = s.dyn.totals ∧ t.dyn.reaches = s.dyn.reaches ∧
        t.dyn.queue = [] ∧
        Gate.Stepped (c.gates.get g) (recoveryDwellOf c g) s.dyn.tick (s.dyn.gates.get g) (t.dyn.gates.get g) ∧
        ∀ h, h ≠ g → t.dyn.gates.get h = s.dyn.gates.get h

/-! ### Interlocks and orders -/

/-- A write of a station status word or of a word of an interlock condition is taken with any value and re-evaluates the
gates held by INTERLOCK on a condition it concerns: where the condition is now true INTERLOCK leaves, and a gate whose set
is then empty is MOVING. Stated in full where no released gate joins the queue at once; in every case the totals, the
reaches, the mode but for links, the targets and the refusal and fault causes stand. -/
def Obligations.StatusAndConditionWrites : Prop :=
  ∀ (i : Instr) (s : State) (tr : Transaction) (c : Tables) (words : Vector Word 16) (sel : CondId → Bool),
    PortIdle s → GatesSound s → Accepted i s tr →
    (match i with
      | .statusWordWrite n w =>
        c = s.tables ∧ words = Table.put s.dyn.statusWords n w.data ∧ ∀ k, sel k = ((c.conditions.get k).source == n)
      | .interlockConditionWrite k j w =>
        words = s.dyn.statusWords ∧ (∀ x, sel x = (x == k)) ∧
          c = { s.tables with
            conditions := Table.put s.tables.conditions k ((s.tables.conditions.get k).withWord j w.data) }
      | _ => False) →
    ∃ t, exec i s = .next t ∧ t.tables = c ∧ StoreKept s t ∧ t.dyn.statusWords = words ∧
      SameSurroundings { s with dyn := { s.dyn with statusWords := words } } t ∧ Taken tr t ∧
      ControlByLinks s t ∧ t.dyn.totals = s.dyn.totals ∧ t.dyn.reaches = s.dyn.reaches ∧
      (∀ g, (s.dyn.gates.get g).sameOrder (t.dyn.gates.get g)) ∧
      ((∀ g, (s.dyn.gates.get g).causes.interlock = true → (s.dyn.gates.get g).causes.mode = false →
          (s.dyn.gates.get g).causes.dam = false → NotYet s g) →
        SameControl s t ∧ LogKept s t ∧ t.dyn.dams = s.dyn.dams ∧ t.dyn.queue = s.dyn.queue ∧
        ∀ g, t.dyn.gates.get g =
          if (s.dyn.gates.get g).causes.interlock = true ∧
              (∃ k : CondId, sel k = true ∧
                ((s.tables.gates.get g).reference
                  (directionTo (s.dyn.gates.get g).command (s.dyn.gates.get g).target)).toNat = k.val) ∧
              falseCondition c words g
                (directionTo (s.dyn.gates.get g).command (s.dyn.gates.get g).target) = none
          then
            { s.dyn.gates.get g with
              causes := { (s.dyn.gates.get g).causes with interlock := false }
              state :=
                if (s.dyn.gates.get g).causes.mode || (s.dyn.gates.get g).causes.dam then .held else .moving }
          else s.dyn.gates.get g)

/-- An order refused at stage 1 or 2 is refused with NOT_RUNNING or BAD_DIGIT, and nothing else changes. One refused at
stage 3, 4, 6 or 7 sets the gate's last refusal code to the code, forms the one REFUSAL record with the condition or reach
index as its detail, and offers ORDER_REFUSED to the links; no target, total or queue entry follows. -/
def Obligations.OrderRefused : Prop :=
  ∀ (s : State) (g : GateId) (w : BusWrite) (tr : Transaction) (v : Option Nat) (code : Code) (detail : Nat),
    PortIdle s → Accepted (.order g w) s tr → v = decodeValue (s.tables.descriptors.get (slotPage g)).decimal 1000 w.data →
    (firstFailing (orderTable s.tables s.dyn w.master g v) = some code ∧
        detail = (match v with
          | some v => if code = .interlock then
              ((falseCondition s.tables s.dyn.statusWords g
                (directionTo (s.dyn.gates.get g).command v)).map (·.val)).getD 0 else 0
          | none => 0)) ∨
      (∃ x, v = some x ∧ firstFailing (orderTable s.tables s.dyn w.master g v) = none ∧
        x ≠ (s.dyn.gates.get g).target ∧
        (admissionCheck s.tables s.dyn.reaches s.dyn.totals (orderTotals s.tables s.dyn g x)).map
          (fun y => (y.1, y.2.val)) = some (code, detail)) →
    (code = .notRunning ∨ code = .badDigit → Gives (.order g w) s s.tables (refusedWith s tr code 0)) ∧
    (code ≠ .notRunning → code ≠ .badDigit →
      ∃ t, exec (.order g w) s = .next t ∧ OnlyEventsBeside s t ∧ t.dyn.totals = s.dyn.totals ∧
        t.dyn.reaches = s.dyn.reaches ∧ OthersOnlyHeld s t g ∧
        Gate.OnlyHolds { s.dyn.gates.get g with lastRefusal := some code } (t.dyn.gates.get g) ∧
        Refused s tr code detail t ∧ LinksActed s.tables .orderRefused (.gate g) t.dyn)

/-- R56: an order that passes stages 1 to 4 and repeats the gate's target is taken and forwarded, with no check of the
interlock or the budget; no record, mark, total, state or refusal code changes. -/
def Obligations.OrderWithoutChange : Prop :=
  ∀ (s : State) (g : GateId) (w : BusWrite) (tr : Transaction), PortIdle s → Accepted (.order g w) s tr →
    decodeValue (s.tables.descriptors.get (slotPage g)).decimal 1000 w.data = some (s.dyn.gates.get g).target →
    (s.dyn.mode = .run ∨
      ((s.dyn.mode = .hold ∨ s.dyn.mode = .exiting) ∧ (s.tables.masters.get w.master).level = 0)) →
    (s.dyn.gates.get g).state ≠ .outOfService → (s.dyn.gates.get g).state ≠ .faulted →
    (s.tables.masters.get w.master).level.toNat ≤ (s.tables.gates.get g).orderLevel.toNat →
    Gives (.order g w) s s.tables (held s tr)

/-- An order that passes every stage: the target is the new one, the total of the gate's dam takes the change of release,
and EXCEEDED follows; nothing else of the part but gates, dams, the queue and events is touched. Where the gate cannot
join the queue at once and is not in it, its record, its dam's warning and the other gates are exactly those of Table
3-3. Where it joins an empty queue it is granted a step if it is eligible, and waits in the queue if not. -/
def Obligations.OrderCommitted : Prop :=
  ∀ (s : State) (g : GateId) (w : BusWrite) (tr : Transaction) (v : Nat) (d : DamId) (y : Gate), PortIdle s →
    GatesSound s → FloodGatesWarned s → Accepted (.order g w) s tr → (s.tables.gates.get g).inDam d = true →
    decodeValue (s.tables.descriptors.get (slotPage g)).decimal 1000 w.data = some v →
    firstFailing (orderTable s.tables s.dyn w.master g (some v)) = none → v ≠ (s.dyn.gates.get g).target →
    admissionCheck s.tables s.dyn.reaches s.dyn.totals (orderTotals s.tables s.dyn g v) = none →
    y = Gate.committed (s.dyn.gates.get g) (s.tables.gates.get g).kind (s.tables.dams.get d).warningDwell.toNat
      (s.tables.dams.get d).recoveryDwell.toNat (s.dyn.dams.get d).warning v →
    ∃ t, exec (.order g w) s = .next t ∧ t.tables = s.tables ∧ StoreKept s t ∧ SameSurroundings s t ∧ Taken tr t ∧
      ControlByLinks s t ∧ BoundsReported s t ∧ t.dyn.totals = orderTotals s.tables s.dyn g v ∧ (t.dyn.gates.get g).target = v ∧
      (t.dyn.gates.get g).inService = true ∧ (t.dyn.gates.get g).lastRefusal = (s.dyn.gates.get g).lastRefusal ∧
      (∀ h, h ≠ g → (s.dyn.gates.get h).sameOrder (t.dyn.gates.get h)) ∧
      ((∀ r, (s.dyn.reaches.get r).exceeded = (firstViolated s.tables s.dyn.totals s.dyn.reaches r).isSome) →
        ExceededAgrees s.tables s t fun _ => true) ∧
      (g ∉ s.dyn.queue → ((s.dyn.gates.get g).state = .moving ∨ NotYet s g) →
        OthersOnlyHeld s t g ∧ Gate.OnlyHolds y (t.dyn.gates.get g) ∧ t.dyn.queue.Sublist s.dyn.queue ∧
        Dam.committed (s.dyn.dams.get d) (s.dyn.gates.get g).state y.state
          (s.tables.dams.get d).warningDwell.toNat (AllShut s.tables t.dyn d)
          { t.dyn.dams.get d with hold := (s.dyn.dams.get d).hold } ∧
        ∀ e, e ≠ d → Dam.sameButHold (s.dyn.dams.get e) (t.dyn.dams.get e)) ∧
      (s.dyn.queue = [] → (s.dyn.gates.get g).state ≠ .moving → y.state = .moving → ¬ NotYet s g →
        (∀ r, (s.dyn.reaches.get r).exceeded = (firstViolated s.tables s.dyn.totals s.dyn.reaches r).isSome) →
        (∀ h, h ≠ g → t.dyn.gates.get h = s.dyn.gates.get h) ∧
        (if eligibleFor s.tables s.dyn g (directionTo y.command v) then
          t.dyn.queue = [] ∧
            Gate.Stepped (s.tables.gates.get g) (s.tables.dams.get d).recoveryDwell.toNat s.dyn.tick y
              (t.dyn.gates.get g)
        else t.dyn.queue = [g] ∧ t.dyn.gates.get g = y))

/-- An admission passes exactly when every bound that it moves toward its limit holds at the totals it would leave, over
reaches 0 to L (surplus and draw below L); otherwise the code and the reach are those of the first that fails: ceilings,
floors, surpluses, draws, each by reach. The first bound of a reach that does not hold, in that order, is the one that
BOUND_EXCEEDED reports, and there is one exactly while the EXCEEDED flag is to be set.

The four tests of an interlock condition on a status word (Table 3-5), and the true reference NONE: a gate whose
reference for a direction is NONE has no false condition. -/
def Obligations.AdmissionAndInterlockRules : Prop :=
  (∀ (c : Tables) (reaches : Vector Reach 6) (a b : Vector Word 6),
    (admissionCheck c reaches a b = none ↔
      ∀ d : ReachId, d.val ≤ c.lastDam.val →
        ((a.get d).toNat < (b.get d).toNat → (b.get d).toNat ≤ (reaches.get d).ceff.toNat) ∧
        ((b.get d).toNat < (a.get d).toNat → (c.reaches.get d).floor.toNat ≤ (b.get d).toNat) ∧
        ∀ n : DamId, n.val = d.val + 1 → d.val < c.lastDam.val →
          (((a.get d).toNat : Int) - (a.get n).toNat < (b.get d).toNat - (b.get n).toNat →
            ((b.get d).toNat : Int) - (b.get n).toNat ≤ (c.reaches.get d).surplus.toNat) ∧
          (((a.get n).toNat : Int) - (a.get d).toNat < (b.get n).toNat - (b.get d).toNat →
            ((b.get n).toNat : Int) - (b.get d).toNat ≤ (reaches.get d).deff.toNat)) ∧
    ∀ (k : Bound) (d : ReachId), admissionCheck c reaches a b = some (k.code, d) ↔
      boundFails c reaches a b k d = true ∧
        ∀ (j : Bound) (e : ReachId), (j.number < k.number ∨ (j = k ∧ e.val < d.val)) →
          boundFails c reaches a b j e = false) ∧
  (∀ (c : Tables) (totals : Vector Word 6) (reaches : Vector Reach 6) (d : ReachId),
    (firstViolated c totals reaches d = none ↔ ∀ k, ¬ Violated c totals reaches d k) ∧
    ∀ k, firstViolated c totals reaches d = some k ↔
      Violated c totals reaches d k ∧ ∀ j : Bound, j.number < k.number → ¬ Violated c totals reaches d j) ∧
  (∀ (c : Condition) (status : Word), c.holds status = true ↔
    match c.test with
    | .allSet => ∀ n : Fin 16, c.mask.getLsbD n.val = true → status.getLsbD n.val = true
    | .anySet => ∃ n : Fin 16, c.mask.getLsbD n.val = true ∧ status.getLsbD n.val = true
    | .allClear => ∀ n : Fin 16, c.mask.getLsbD n.val = true → status.getLsbD n.val = false
    | .anyClear => ∃ n : Fin 16, c.mask.getLsbD n.val = true ∧ status.getLsbD n.val = false) ∧
  ∀ (c : Tables) (status : Vector Word 16) (g : GateId) (dir : Direction),
    ((c.gates.get g).reference dir = 63 → falseCondition c status g dir = none) ∧
    ∀ k : CondId, ((c.gates.get g).reference dir).toNat = k.val →
      falseCondition c status g dir =
        if (c.conditions.get k).holds (status.get (c.conditions.get k).source) then none else some k

/-! ### Portals -/

/-- R94: a write to any word 0 to 125 of a busy portal's page that has passed the access checks is refused with
PORTAL_BUSY, recorded as a refusal, and leaves everything else as it stands; result words are refused with PART_OWNED
busy or not; reads are taken. -/
def Obligations.BusyPortalRefusesWrites : Prop :=
  ∀ (s : State) (q : PortalId) (tr : Transaction), PortIdle s →
    (∀ i w, (i = .portalHeaderWrite q w ∨ ∃ k, i = .portalItemWrite q k w) → Accepted i s tr →
      (s.dyn.portals.get q).busy = true → Gives i s s.tables (refusedWith s tr .portalBusy 0)) ∧
    (∀ address m hi lo data, (Instr.plainWrite address m hi lo data).transaction? = some tr → s.dyn.hand = none →
      tr.page = portalPage q → 126 ≤ tr.word.val → ¬ Passes s.tables s.dyn tr ∧
      (firstFailing ((accessTable s.tables s.dyn tr).take 7) = none →
        Gives (.plainWrite address m hi lo data) s s.tables (refusedWith s tr .partOwned 0))) ∧
    ∀ address m hi lo, Accepted (.stationBusRead address m hi lo) s tr → tr.page = portalPage q →
      Gives (.stationBusRead address m hi lo) s s.tables (held s tr)

/-- A header write to a portal that is not busy, of a request that fails a check or the budget: the portal is busy, a
REFUSED job with the sequence, the code and the index is queued, PORTAL_REFUSED is recorded and offered to the links, and
no gate's order, total or configuration changes. The header itself is taken.

A header write of a request that passes every check: every item is committed, its gate's target its opening, within
the one event; the totals are those of the whole batch; a gate that no item names keeps its target; and a DONE job with
the sequence and each item's gate and opening in item order is queued. Where no item's gate is queued or can join at once,
the gates and the warnings of the dams are those that the commits leave one after the other in item order (the model's
choice but for flood gates that leave CLOSED, log entry 43, DEDUCED), but for holds by links. Where no gate queued or named
is eligible and EXCEEDED agrees with the bounds, they are exactly those, a queued gate that settles leaves the queue, and
the gates that become MOVING join at its tail in ascending gate number, those awaiting settle and those whose step
interval has not elapsed excepted. -/
def Obligations.PortalRequest : Prop :=
  (∀ (s : State) (q : PortalId) (w : BusWrite) (tr : Transaction) (code : Code) (index : Nat), PortIdle s →
    Accepted (.portalHeaderWrite q w) s tr → (s.dyn.portals.get q).busy = false →
    requestOutcome s.tables s.dyn q w.master w.data = some (code, index) →
    ∃ t, exec (.portalHeaderWrite q w) s = .next t ∧ t.tables = s.tables ∧ StoreKept s t ∧ Taken tr t ∧
      SameSurroundings
        { s with
          dyn := { s.dyn with
            portals := Table.put s.dyn.portals q { s.dyn.portals.get q with busy := true }
            portalJobs := t.dyn.portalJobs } }
        t ∧
      ControlByLinks s t ∧ t.dyn.totals = s.dyn.totals ∧ t.dyn.reaches = s.dyn.reaches ∧
      (∀ g, Gate.OnlyHolds (s.dyn.gates.get g) (t.dyn.gates.get g)) ∧
      JobQueued
        { portal := q, sequence := headerSequence w.data, status := .refused, code := some code, index := index
          echoes := [] }
        s t ∧
      Raised (portalRefusedEvent q w.master w.data code index s.dyn) s t) ∧
  ∀ (s : State) (q : PortalId) (w : BusWrite) (tr : Transaction) (items : List (GateId × Nat)), PortIdle s →
    GatesSound s → FloodGatesWarned s → Accepted (.portalHeaderWrite q w) s tr → (s.dyn.portals.get q).busy = false →
    requestOutcome s.tables s.dyn q w.master w.data = none →
    items.map (fun x => (x.1.val, x.2)) =
      (itemWords w.data (s.dyn.portals.get q)).map (fun x => (itemGate x, itemOpening x)) →
    ∀ (y : Vector Gate 48) (dams : Vector Dam 6), (y, dams) = batchCommitted s.tables s.dyn items →
    ∃ t, exec (.portalHeaderWrite q w) s = .next t ∧ t.tables = s.tables ∧ StoreKept s t ∧ Taken tr t ∧
      SameSurroundings
        { s with
          dyn := { s.dyn with
            portals := Table.put s.dyn.portals q { s.dyn.portals.get q with busy := true }
            portalJobs := t.dyn.portalJobs } }
        t ∧
      ControlByLinks s t ∧ BoundsReported s t ∧
      t.dyn.totals = batchTotals s.tables s.dyn (itemWords w.data (s.dyn.portals.get q)) ∧
      (∀ x ∈ items, (t.dyn.gates.get x.1).target = x.2 ∧ (t.dyn.gates.get x.1).inService = true) ∧
      (∀ g, (∀ x ∈ items, x.1 ≠ g) → (s.dyn.gates.get g).sameOrder (t.dyn.gates.get g)) ∧
      (∀ g, (t.dyn.gates.get g).lastRefusal = (s.dyn.gates.get g).lastRefusal) ∧
      JobQueued
        { portal := q, sequence := headerSequence w.data, status := .done, code := none, index := 0, echoes := items }
        s t ∧
      ((∀ x ∈ items, x.2 ≠ (s.dyn.gates.get x.1).target →
          x.1 ∉ s.dyn.queue ∧ ((s.dyn.gates.get x.1).state = .moving ∨ NotYet s x.1)) →
        (∀ g, Gate.OnlyHolds (y.get g) (t.dyn.gates.get g)) ∧ t.dyn.queue.Sublist s.dyn.queue ∧
        ∀ d, Dam.sameButHold (dams.get d) (t.dyn.dams.get d)) ∧
      ((∀ r, (s.dyn.reaches.get r).exceeded = (firstViolated s.tables s.dyn.totals s.dyn.reaches r).isSome) →
        (∀ g, g ∈ s.dyn.queue ∨ (∃ x ∈ items, x.1 = g) →
          eligibleFor s.tables s.dyn g (directionTo (y.get g).command (y.get g).target) = false) →
        SameControl s t ∧ LogKept s t ∧ (∀ g, t.dyn.gates.get g = y.get g) ∧ (∀ d, t.dyn.dams.get d = dams.get d) ∧
        t.dyn.queue = s.dyn.queue.filter (fun g => (y.get g).state == .moving) ++
          (List.finRange 48).filter (fun g =>
            (y.get g).state == .moving && (s.dyn.gates.get g).state != .moving && !(s.dyn.gates.get g).awaiting &&
              stepIntervalElapsed s.tables s.dyn g))

/-! ### Modes and refreshes -/

/-- The table of R106 on any of the three mode rows (whichever carries the value: the model's choice, log entry 19), with
the values of R105 that name no mode or EXITING, and the effect of each transition (R107 to R111). RUN written in HOLD
while a refresh is in progress makes no offer yet, also where that refresh is of an abandoned pass (the model's choice, log
entry 42, DEDUCED). The refresh that an entry
into RUN or EXITING offers may be granted at once; with no gate to write it completes within its grant, and the next grant
follows (log entry 30, DEDUCED). -/
def Obligations.ModeWrites : Prop :=
  ∀ (i : Instr) (s : State) (w : BusWrite) (tr : Transaction) (v : Nat),
    i = .modeWriteConfig w ∨ i = .modeWriteRun w ∨ i = .modeWriteHold w → PortIdle s → Accepted i s tr →
    v = (w.data.extractLsb' 0 3).toNat →
    (3 < v → Gives i s s.tables (refusedWith s tr .badConfig 0)) ∧
    (v = 3 → Gives i s s.tables (refusedWith s tr .modeChange 0)) ∧
    (v = s.dyn.mode.code → v ≠ 3 → Gives i s s.tables (held s tr)) ∧
    (s.dyn.mode = .config → v = 2 → Gives i s s.tables (refusedWith s tr .modeChange 0)) ∧
    (s.dyn.mode = .hold ∨ s.dyn.mode = .exiting → v = 0 → Gives i s s.tables (refusedWith s tr .modeChange 0)) ∧
    (s.dyn.mode = .exiting → v = 1 → Gives i s s.tables (held s tr)) ∧
    (s.dyn.mode = .config → v = 1 → s.dyn.offer = none →
      Gives i s s.tables
        { held s tr with
          mode := .run, debt := 0, pointer := 0, pointerReset := refreshRunning s.dyn
          offer := if refreshRunning s.dyn then none else some 0
          summaryMark := some (s.dyn.summaryMark.getD (s.dyn.moment + 1)) }) ∧
    (s.dyn.mode = .run → v = 0 → (∃ g, (s.dyn.gates.get g).inService = true) →
      Gives i s s.tables (refusedWith s tr .inService 0)) ∧
    (s.dyn.mode = .run → v = 0 → (∀ g, (s.dyn.gates.get g).inService = false) →
      Gives i s s.tables
        { uncredit (held s tr) with
          mode := .config, offer := none, summaryMark := some (s.dyn.summaryMark.getD (s.dyn.moment + 1)) }) ∧
    (s.dyn.mode = .hold → v = 1 →
      Gives i s s.tables
        { held s tr with
          mode := .exiting, progress := 0, offer := if refreshRunning s.dyn then none else some s.dyn.pointer
          summaryMark := some (s.dyn.summaryMark.getD (s.dyn.moment + 1)) }) ∧
    (s.dyn.mode = .exiting → v = 2 →
      Gives i s s.tables
        { uncredit (held s tr) with
          mode := .hold, progress := 0, offer := none
          summaryMark := some (s.dyn.summaryMark.getD (s.dyn.moment + 1)) }) ∧
    (s.dyn.mode = .run → v = 2 →
      ∃ t, exec i s = .next t ∧ t.tables = s.tables ∧ StoreKept s t ∧ SameSurroundings s t ∧ Taken tr t ∧
        t.dyn.mode = .hold ∧ t.dyn.offer = none ∧ t.dyn.progress = s.dyn.progress ∧
        t.dyn.alarms = s.dyn.alarms ∧ LogKept s t ∧ t.dyn.totals = s.dyn.totals ∧ t.dyn.reaches = s.dyn.reaches ∧
        t.dyn.dams = s.dyn.dams ∧ t.dyn.queue = s.dyn.queue.filter (fun g => !(s.dyn.gates.get g).inService) ∧
        ∀ g, t.dyn.gates.get g =
          if (s.dyn.gates.get g).inService then
            { s.dyn.gates.get g with
              causes := { (s.dyn.gates.get g).causes with mode := true }
              state :=
                if (s.dyn.gates.get g).state = .moving ∨ (s.dyn.gates.get g).state = .held then .held
                else (s.dyn.gates.get g).state }
          else s.dyn.gates.get g)

/-- The store answers a STAMP write of a refresh. With a gate left, the job goes on with that gate's STAMP at the dam's
sequence and the gate's state as they then stand. After the last, the pointer goes to the next dam of 0 to L, or to dam 0
where the entry into RUN has said so, and the mode says the rest: in RUN a counting refresh lowers the debt by one and the
next refresh is offered; in EXITING the pass goes on, or is begun with its first offer, by a refresh that counts toward
nothing (also one of an abandoned pass: the model's choice, log entry 42, DEDUCED); in HOLD and CONFIG nothing more. The grants by class follow, and one of them that is a refresh with no gate to
write completes within its grant (log entry 30, DEDUCED). An ERROR for a FAULTED gate acts
as an OK; for another gate, at any write of the job, it raises STORE_FAULT and then acts as an OK, so that the remaining
writes follow and the completion is taken. A link that enters HOLD does so before the completion, in the exit pass and in
RUN (the model's choice, log entry 39). -/
def Obligations.RefreshAccessDone : Prop :=
  ∀ (s : State) (d : DamId) (o : RefreshOrigin) (counts : Bool) (g : GateId) (rest : List GateId) (a : Access) (p : Dyn),
    StoreCanonical s → s.dyn.running = some ⟨.refresh d o counts g rest, a⟩ →
    p = { counted s with
      running := none, pointerReset := false
      pointer := if s.dyn.pointerReset then 0 else nextDam s.tables.lastDam d } →
    (∀ h hs, rest = h :: hs →
      ∃ t, exec (.refreshAccessDone .ok) s = .next t ∧ StoreAnswered s t a .ok ∧
        GoesOn s t (.refresh d o counts h hs)
          (ownWrite (slotPage h) (slotWord h 2) (stampWord (s.dyn.dams.get d).sequence (s.dyn.gates.get h)))) ∧
    (rest = [] → s.dyn.mode = .hold ∨ s.dyn.mode = .config →
      ∃ t, exec (.refreshAccessDone .ok) s = .next t ∧ StoreAnswered s t a .ok ∧ GrantedByClass s.tables p t.dyn) ∧
    (∀ p1 : Dyn,
      p1 =
        { p with
          debt := if counts then s.dyn.debt - 1 else s.dyn.debt
          offer :=
            if s.dyn.offer = none ∧ -3 ≤ (if counts then s.dyn.debt - 1 else s.dyn.debt) then some p.pointer
            else s.dyn.offer
          summaryMark :=
            if counts then some (s.dyn.summaryMark.getD (s.dyn.moment + 1)) else s.dyn.summaryMark } →
      rest = [] → s.dyn.mode = .run →
      ∃ t, exec (.refreshAccessDone .ok) s = .next t ∧ StoreAnswered s t a .ok ∧ GrantedByClass s.tables p1 t.dyn) ∧
    (∀ p1 : Dyn,
      p1 =
        { p with
          progress := if counts then s.dyn.progress + 1 else s.dyn.progress
          offer := some p.pointer } →
      rest = [] → s.dyn.mode = .exiting → (counts = true → s.dyn.progress + 1 < s.tables.lastDam.val + 1) →
      ∃ t, exec (.refreshAccessDone .ok) s = .next t ∧ StoreAnswered s t a .ok ∧ GrantedByClass s.tables p1 t.dyn) ∧
    ((s.dyn.gates.get g).state = .faulted →
      ∃ t, exec (.refreshAccessDone .ok) s = .next t ∧
        ∃ u, exec (.refreshAccessDone .error) s = .next u ∧ u.dyn = t.dyn) ∧
    ((s.dyn.gates.get g).state ≠ .faulted →
      ErrorReportedThenOk .refreshAccessDone s a fun r => FaultReported (storeFaultEvent a (some g) s.dyn) s r ∧
        r.dyn.totals = s.dyn.totals ∧ ∀ h, Gate.OnlyHolds (s.dyn.gates.get h) (r.dyn.gates.get h)) ∧
    ∀ h hs, rest = h :: hs → (s.dyn.gates.get g).state ≠ .faulted →
      ∃ t, exec (.refreshAccessDone .error) s = .next t ∧ StoreAnswered s t a .error ∧ SameSurroundings s t ∧
        t.dyn.totals = s.dyn.totals ∧ Raised (storeFaultEvent a (some g) s.dyn) s t ∧ ControlByLinks s t ∧
        BusKept s t ∧
        t.dyn.running =
          some ⟨.refresh d o (counts && t.dyn.mode == s.dyn.mode) h hs,
            ownWrite (slotPage h) (slotWord h 2) (stampWord (s.dyn.dams.get d).sequence (t.dyn.gates.get h))⟩ ∧
        ∀ x, Gate.OnlyHolds (s.dyn.gates.get x) (t.dyn.gates.get x)

/-- The exit pass ends, with no link set to act: the mode becomes RUN with debt 0 and progress 0, the pointer advances,
MODE leaves every in-service gate, and the first RUN offer stands at the pointer; no target, total or fault changes.

So it ends at the answer to the last STAMP of its last refresh: the grants by class follow, and with a transaction waiting
that is the one granted. And so it ends at the grant of its last refresh where that refresh has no gate to write (log entry
30, DEDUCED), whose dam's sequence has advanced. -/
def Obligations.ExitPassEnds : Prop :=
  (∀ (s : State) (d : DamId) (o : RefreshOrigin) (g : GateId) (a : Access) (ans : StoreAnswer),
    StoreCanonical s → GatesSound s → s.dyn.running = some ⟨.refresh d o true g [], a⟩ → s.dyn.mode = .exiting →
    s.tables.lastDam.val + 1 ≤ s.dyn.progress + 1 → s.dyn.offer = none →
    (∀ l, (s.tables.links.get l).action = .none) →
    ∃ t, exec (.refreshAccessDone ans) s = .next t ∧ StoreAnswered s t a ans ∧
      (∃ q, PassEnded s.tables d s.dyn q ∧ GrantedByClass s.tables q t.dyn) ∧
      (s.dyn.hand.isSome = true → PassEnded s.tables d s.dyn t.dyn)) ∧
  ∀ (s : State) (d : DamId), GatesSound s → s.dyn.running = none → s.dyn.mode = .exiting →
    s.tables.lastDam.val + 1 ≤ s.dyn.progress + 1 → gatesOfDam s.tables s.dyn d = [] →
    (∀ l, (s.tables.links.get l).action = .none) →
    PassEnded s.tables d s.dyn (grantJob s.tables (.refresh d) s.dyn) ∧
      ((grantJob s.tables (.refresh d) s.dyn).dams.get d).sequence = (s.dyn.dams.get d).sequence + 1

/-! ### The store port -/

/-- The arbiter's choice among waiting jobs (Table 8-1): a forced refresh, then the transaction in hand, then the gate slot
marked longest ago (the lowest gate number among marks of one moment), then the oldest portal job, then the oldest record
while the ring has room, then a mirror, then a due and last a pulled-in refresh.

And what a grant does: the job leaves its queue or its mark is cleared, and it begins its first access with the values
that stand; a refresh advances its dam's sequence first. One with no gate to write completes at once, within the grant
(log entry 30, DEDUCED from the rule that such a refresh makes no writes): the pointer advances; in RUN the debt falls by
one and the next refresh is offered; in HOLD nothing else happens; in the exit pass the progress rises by one and the next
refresh is offered, or, with the last, the pass ends (as ExitPassEnds says). -/
def Obligations.TheHighestClassIsGranted : Prop :=
  (∀ (p : Dyn) (w : Waiting), (waitingHeads p).head? = some w →
    (∀ d, p.offer = some d → (p.mode = .hold ∨ p.mode = .exiting ∨ (p.mode = .run ∧ 5 ≤ p.debt)) → w = .refresh d) ∧
    ((p.offer = none ∨ p.mode = .config ∨ (p.mode = .run ∧ p.debt < 5)) →
      (∀ t, p.hand = some t → w = .forwarded t) ∧
      (p.hand = none →
        (∀ g m, p.slotMarks.get g = some m →
          (∀ h n, p.slotMarks.get h = some n → m < n ∨ (m = n ∧ g.val ≤ h.val)) → w = .slot g) ∧
        ((∀ g, p.slotMarks.get g = none) →
          (∀ j js, p.portalJobs = j :: js → w = .portal j js) ∧
          (p.portalJobs = [] →
            (∀ r rs, p.logBuffer = r :: rs → p.logWrite + 1 ≠ p.logRead → w = .log r rs) ∧
            (p.logBuffer = [] ∨ p.logWrite + 1 = p.logRead →
              (∀ g m, p.gateMirrorMarks.get g = some m →
                (∀ h n, p.gateMirrorMarks.get h = some n → m < n ∨ (m = n ∧ g.val ≤ h.val)) →
                (∀ r n, p.reachMirrorMarks.get r = some n → m ≤ n) → (∀ n, p.summaryMark = some n → m ≤ n) →
                w = .gateMirror g) ∧
              (∀ r m, p.reachMirrorMarks.get r = some m → (∀ h n, p.gateMirrorMarks.get h = some n → m < n) →
                (∀ x n, p.reachMirrorMarks.get x = some n → m < n ∨ (m = n ∧ r.val ≤ x.val)) →
                (∀ n, p.summaryMark = some n → m ≤ n) → w = .reachMirror r) ∧
              (∀ m, p.summaryMark = some m → (∀ h n, p.gateMirrorMarks.get h = some n → m < n) →
                (∀ x n, p.reachMirrorMarks.get x = some n → m < n) → w = .summary) ∧
              ((∀ g, p.gateMirrorMarks.get g = none) → (∀ r, p.reachMirrorMarks.get r = none) → p.summaryMark = none →
                ∀ d, p.offer = some d → w = .refresh d))))))) ∧
  ∀ (c : Tables) (p : Dyn) (w : Waiting), p.running = none →
    match w with
    | .refresh d =>
      (∀ h hs, gatesOfDam c p d = h :: hs → grantJob c w p =
        { p with
          offer := none
          dams := Table.put p.dams d { p.dams.get d with sequence := (p.dams.get d).sequence + 1 }
          reachMirrorMarks := Table.put p.reachMirrorMarks d (some ((p.reachMirrorMarks.get d).getD p.moment))
          running := some ⟨.refresh d
              (match p.mode with | .hold => .hold | .exiting => .pass | _ => .run) (p.mode != .hold) h hs,
            ownWrite (slotPage h) (slotWord h 2) (stampWord ((p.dams.get d).sequence + 1) (p.gates.get h))⟩ }) ∧
      (gatesOfDam c p d = [] → ∀ p1 : Dyn,
        p1 =
          { p with
            dams := Table.put p.dams d { p.dams.get d with sequence := (p.dams.get d).sequence + 1 }
            reachMirrorMarks := Table.put p.reachMirrorMarks d (some ((p.reachMirrorMarks.get d).getD p.moment))
            pointer := if p.pointerReset then 0 else nextDam c.lastDam d
            pointerReset := false } →
        (p.mode = .run → grantJob c w p =
          { p1 with
            debt := p.debt - 1
            summaryMark := some (p.summaryMark.getD p.moment)
            offer := if -3 ≤ p.debt - 1 then some p1.pointer else none }) ∧
        (p.mode = .hold → grantJob c w p = { p1 with offer := none }) ∧
        (p.mode = .exiting → p.progress + 1 < c.lastDam.val + 1 → grantJob c w p =
          { p1 with progress := p.progress + 1, offer := some p1.pointer }) ∧
        (p.mode = .exiting → c.lastDam.val + 1 ≤ p.progress + 1 → grantJob c w p =
          endExitPass c { p1 with offer := none }))
    | .forwarded t => grantJob c w p =
        { p with running := some ⟨.forwarded t,
          ⟨t.page, t.word, t.write, t.hi, t.lo, if t.write then t.data else 0⟩⟩ }
    | .slot g => grantJob c w p =
        { p with
          slotMarks := Table.put p.slotMarks g none
          running := some ⟨.slot g false, ownWrite (slotPage g) (slotWord g 1)
            (if (c.descriptors.get (slotPage g)).decimal then bcdWord (p.gates.get g).command
              else BitVec.ofNat 16 (p.gates.get g).command)⟩ }
    | .portal j js =>
      (∀ x xs, j.echoes = x :: xs → grantJob c w p =
        { p with
          portalJobs := js
          running := some ⟨.portal j 0, ownWrite (slotPage x.1) (slotWord x.1 0)
            (if (c.descriptors.get (slotPage x.1)).decimal then bcdWord x.2 else BitVec.ofNat 16 x.2)⟩ }) ∧
      (j.echoes = [] → grantJob c w p =
        { p with
          portalJobs := js, running := some ⟨.portal j 0, ownWrite (portalPage j.portal) 126 (resultWord0 j)⟩ })
    | .log r rs => grantJob c w p =
        { p with
          logBuffer := rs
          running := some ⟨.log r p.logWrite 0, ownWrite (logPage p.logWrite) (logWord p.logWrite 0) (r.word 0)⟩ }
    | .gateMirror g => grantJob c w p =
        { p with
          gateMirrorMarks := Table.put p.gateMirrorMarks g none
          running := some ⟨.gateMirror g 0 none, ownWrite (gateMirrorPage g) (gateMirrorWord g 0)
            (gateMirrorValue (c.descriptors.get (slotPage g)).decimal (p.gates.get g) 0)⟩ }
    | .reachMirror r => grantJob c w p =
        { p with
          reachMirrorMarks := Table.put p.reachMirrorMarks r none
          running := some ⟨.reachMirror r 0 none, ownWrite 9 (reachMirrorWord r 0) (reachMirrorValue c p r 0)⟩ }
    | .summary => grantJob c w p =
        { p with summaryMark := none, running := some ⟨.summary, ownWrite 0 1 (summaryWord true p)⟩ }

/-- The store answers a forwarded transaction: OK is answered DONE, for a READ with the word's bytes on the lanes that are
on (a lane that is off is a free value, log entry 6); ERROR is answered REFUSED with STORE_ERROR and makes one record.
The port is then granted by class. -/
def Obligations.ForwardedAccessComplete : Prop :=
  ∀ (s : State) (tr : Transaction) (a : Access), StoreCanonical s → s.dyn.running = some ⟨.forwarded tr, a⟩ →
    (∃ t, exec (.forwardedAccessComplete .ok) s = .next t ∧ StoreAnswered s t a .ok ∧
      GrantedByClass s.tables
        { counted s with
          running := none, hand := none
          answer := some ⟨tr.master,
            if tr.write then .doneWrite
            else .doneRead
              (laneMerge tr.hi tr.lo (Memory.word s.store tr.page tr.word) (Config.offLane (s.dyn.moment + 1)))⟩ }
        t.dyn) ∧
    ∃ t, exec (.forwardedAccessComplete .error) s = .next t ∧ StoreAnswered s t a .error ∧
      GrantedByClass s.tables
        (formRecord (refusalRecord tr .storeError 0 s.dyn)
          { counted s with running := none, hand := none, answer := some ⟨tr.master, .refused .storeError⟩ })
        t.dyn

/-- The store answers an access of a gate slot write. OK to COMMAND: the job goes on with STAMP, the dam's sequence and
the gate's state as they then stand. OK to STAMP: the job is over. ERROR, at either write: a gate in service and not
FAULTED enters FAULTED with cause STORE as R16 gives, the EXCEEDED flags follow its dam's total, and STORE_FAULT is
raised; an OUT_OF_SERVICE gate only raises it; and then the answer acts as an OK, so that after COMMAND the STAMP is
written, with the state that then stands. For a FAULTED gate it only acts as an OK. -/
def Obligations.SlotWriteAccessDone : Prop :=
  ∀ (s : State) (g : GateId) (stamp : Bool) (a : Access) (e : Event), StoreCanonical s →
    s.dyn.running = some ⟨.slot g stamp, a⟩ →
    e = { storeFaultEvent a (some g) s.dyn with
      context := .gate (if (s.dyn.gates.get g).state = .outOfService then .outOfService else .faulted) } →
    (∀ d, stamp = false → (s.tables.gates.get g).inDam d = true →
      ∃ t, exec (.slotWriteAccessDone .ok) s = .next t ∧ StoreAnswered s t a .ok ∧
        GoesOn s t (.slot g true)
          (ownWrite (slotPage g) (slotWord g 2) (stampWord (s.dyn.dams.get d).sequence (s.dyn.gates.get g)))) ∧
    (stamp = true →
      ∃ t, exec (.slotWriteAccessDone .ok) s = .next t ∧ StoreAnswered s t a .ok ∧
        GrantedByClass s.tables { counted s with running := none } t.dyn) ∧
    ((s.dyn.gates.get g).state = .faulted →
      ∃ t, exec (.slotWriteAccessDone .ok) s = .next t ∧
        ∃ u, exec (.slotWriteAccessDone .error) s = .next u ∧ u.dyn = t.dyn) ∧
    ((s.dyn.gates.get g).state ≠ .faulted →
      ErrorReportedThenOk .slotWriteAccessDone s a fun r => FaultReported e s r ∧ OthersOnlyHeld s r g ∧
        ((s.dyn.gates.get g).state = .outOfService →
          r.dyn.totals = s.dyn.totals ∧ r.dyn.gates.get g = s.dyn.gates.get g) ∧
        ((s.dyn.gates.get g).state ≠ .outOfService →
          g ∉ r.dyn.queue ∧ ExceededAgrees s.tables s r (reachOfFault s g) ∧
          TotalsMoved s r (s.tables.gates.get g).dam (releaseOf s.tables g (s.dyn.gates.get g).target)
            (releaseOf s.tables g (s.dyn.gates.get g).command) ∧
          Gate.OnlyHolds
            { s.dyn.gates.get g with
              state := .faulted, faultCause := some .store, target := (s.dyn.gates.get g).command
              lagTimer := .stopped, recoveryTimer := .stopped, awaiting := false
              causes := { (s.dyn.gates.get g).causes with interlock := false } }
            (r.dyn.gates.get g))) ∧
    ((s.dyn.gates.get g).state ≠ .faulted → stamp = false →
      ∃ t, exec (.slotWriteAccessDone .error) s = .next t ∧ StoreAnswered s t a .error ∧ SameSurroundings s t ∧
        ControlByLinks s t ∧ BusKept s t ∧ OthersOnlyHeld s t g ∧ Raised e s t ∧
        (∀ d, (s.tables.gates.get g).inDam d = true → t.dyn.running =
          some ⟨.slot g true,
            ownWrite (slotPage g) (slotWord g 2) (stampWord (s.dyn.dams.get d).sequence (t.dyn.gates.get g))⟩) ∧
        ((s.dyn.gates.get g).state = .outOfService →
          t.dyn.totals = s.dyn.totals ∧ t.dyn.gates.get g = s.dyn.gates.get g) ∧
        ((s.dyn.gates.get g).state ≠ .outOfService →
          g ∉ t.dyn.queue ∧ ExceededAgrees s.tables s t (reachOfFault s g) ∧
          TotalsMoved s t (s.tables.gates.get g).dam (releaseOf s.tables g (s.dyn.gates.get g).target)
            (releaseOf s.tables g (s.dyn.gates.get g).command) ∧
          Gate.OnlyHolds
            { s.dyn.gates.get g with
              state := .faulted, faultCause := some .store, target := (s.dyn.gates.get g).command
              lagTimer := .stopped, recoveryTimer := .stopped, awaiting := false
              causes := { (s.dyn.gates.get g).causes with interlock := false } }
            (t.dyn.gates.get g)))

/-- The store answers a write of a portal job: the echoes in item order, each with the opening in the format of its slot
page, then result words 126 and 127; after the last the portal's busy flag is cleared. An ERROR, at any
write of the job, raises STORE_FAULT for the gate of the echo or for none and then acts as an OK: the next write of the
job, or its completion, is the same.

The store answers a write of a log record job: the eight record words of the slot, then the log write index; after
the last the write index is one on from the slot, and ALERT says whether it differs from the read index. An ERROR sets LOG_LOST, raises no event, and leaves the rest of the job
to be written. -/
def Obligations.PortalAndLogAccessDone : Prop :=
  (∀ (s : State) (j : PortalJob) (k : Nat) (a : Access), StoreCanonical s → s.dyn.running = some ⟨.portal j k, a⟩ →
    (∀ x, j.echoes[k + 1]? = some x →
      ∃ t, exec (.portalJobAccessDone .ok) s = .next t ∧ StoreAnswered s t a .ok ∧
        GoesOn s t (.portal j (k + 1))
          (ownWrite (slotPage x.1) (slotWord x.1 0)
            (if (s.tables.descriptors.get (slotPage x.1)).decimal then bcdWord x.2 else BitVec.ofNat 16 x.2))) ∧
    (k + 1 = j.echoes.length →
      ∃ t, exec (.portalJobAccessDone .ok) s = .next t ∧ StoreAnswered s t a .ok ∧
        GoesOn s t (.portal j (k + 1)) (ownWrite (portalPage j.portal) 126 (resultWord0 j))) ∧
    (k = j.echoes.length →
      ∃ t, exec (.portalJobAccessDone .ok) s = .next t ∧ StoreAnswered s t a .ok ∧
        GoesOn s t (.portal j (k + 1)) (ownWrite (portalPage j.portal) 127 (resultWord1 j))) ∧
    (j.echoes.length < k →
      ∃ t, exec (.portalJobAccessDone .ok) s = .next t ∧ StoreAnswered s t a .ok ∧
        GrantedByClass s.tables
          { counted s with
            running := none
            portals := Table.put s.dyn.portals j.portal { s.dyn.portals.get j.portal with busy := false } }
          t.dyn) ∧
    ∀ e : Event, e = storeFaultEvent a (match j.echoes[k]? with | some x => some x.1 | none => none) s.dyn →
      (ErrorReportedThenOk .portalJobAccessDone s a fun r => FaultReported e s r ∧ r.dyn.totals = s.dyn.totals ∧
        ∀ h, Gate.OnlyHolds (s.dyn.gates.get h) (r.dyn.gates.get h)) ∧
      (k ≤ j.echoes.length →
        ∃ t, exec (.portalJobAccessDone .error) s = .next t ∧ StoreAnswered s t a .error ∧ SameSurroundings s t ∧
          t.dyn.totals = s.dyn.totals ∧ ControlByLinks s t ∧ BusKept s t ∧
          (∀ h, Gate.OnlyHolds (s.dyn.gates.get h) (t.dyn.gates.get h)) ∧ Raised e s t ∧
          ∃ u, exec (.portalJobAccessDone .ok) s = .next u ∧ t.dyn.running = u.dyn.running)) ∧
  ∀ (s : State) (r : LogRecord) (n : BitVec 6) (k : Nat) (a : Access) (ans : StoreAnswer) (p : Dyn),
    StoreCanonical s → s.dyn.running = some ⟨.log r n k, a⟩ →
    p =
      { counted s with
        logLost := s.dyn.logLost || ans == .error
        summaryMark :=
          if ans = .error ∧ s.dyn.logLost = false then some (s.dyn.summaryMark.getD (s.dyn.moment + 1))
          else s.dyn.summaryMark } →
    (∀ m : Fin 8, k + 1 = m.val →
      ∃ t, exec (.logRecordAccessDone ans) s = .next t ∧ StoreAnswered s t a ans ∧
        t.dyn = { p with running := some ⟨.log r n (k + 1), ownWrite (logPage n) (logWord n m) (r.word m)⟩ }) ∧
    (k = 7 →
      ∃ t, exec (.logRecordAccessDone ans) s = .next t ∧ StoreAnswered s t a ans ∧
        t.dyn = { p with running := some ⟨.log r n 8, ownWrite 0 5 (BitVec.ofNat 16 (n + 1).toNat)⟩ }) ∧
    (8 ≤ k →
      ∃ t, exec (.logRecordAccessDone ans) s = .next t ∧ StoreAnswered s t a ans ∧
        GrantedByClass s.tables { p with running := none, logWrite := n + 1 } t.dyn ∧
        (s.dyn.passKind = none → alertLine t.dyn = decide (n + 1 ≠ s.dyn.logRead)))

/-- The store answers a write of a mirror: the words of the mirror follow one another, each with the value that stands at
its own write; a mirror whose words were all answered OK completes with no effect, and an ERROR is kept for one
STORE_FAULT at completion, of the first failing word. At completion the port is granted by class. -/
def Obligations.MirrorWriteAccessDone : Prop :=
  ∀ (s : State) (j : Job) (a : Access) (ans : StoreAnswer), StoreCanonical s →
    s.dyn.running = some ⟨j, a⟩ →
    match j with
    | .gateMirror g k f =>
      (∀ n : Fin 4, k.val + 1 = n.val →
        ∃ t, exec (.mirrorWriteAccessDone ans) s = .next t ∧ StoreAnswered s t a ans ∧
          GoesOn s t (.gateMirror g n (if ans = .error ∧ f = none then some a else f))
            (ownWrite (gateMirrorPage g) (gateMirrorWord g n)
              (gateMirrorValue (s.tables.descriptors.get (slotPage g)).decimal (s.dyn.gates.get g) n))) ∧
      (k = 3 →
        match (if ans = .error ∧ f = none then some a else f) with
        | none =>
          ∃ t, exec (.mirrorWriteAccessDone ans) s = .next t ∧ StoreAnswered s t a ans ∧
            GrantedByClass s.tables { counted s with running := none } t.dyn
        | some b =>
          ∃ t q, exec (.mirrorWriteAccessDone ans) s = .next t ∧ StoreAnswered s t a ans ∧
            FaultReported (storeFaultEvent b (some g) s.dyn) { s with dyn := { counted s with running := none } }
              { s with dyn := q } ∧
            GrantedByClass s.tables q t.dyn ∧ q.totals = s.dyn.totals ∧
            ∀ h, Gate.OnlyHolds (s.dyn.gates.get h) (q.gates.get h))
    | .reachMirror r k f =>
      (∀ n : Fin 8, k.val + 1 = n.val →
        ∃ t, exec (.mirrorWriteAccessDone ans) s = .next t ∧ StoreAnswered s t a ans ∧
          GoesOn s t (.reachMirror r n (if ans = .error ∧ f = none then some a else f))
            (ownWrite 9 (reachMirrorWord r n) (reachMirrorValue s.tables s.dyn r n))) ∧
      (k = 7 →
        match (if ans = .error ∧ f = none then some a else f) with
        | none =>
          ∃ t, exec (.mirrorWriteAccessDone ans) s = .next t ∧ StoreAnswered s t a ans ∧
            GrantedByClass s.tables { counted s with running := none } t.dyn
        | some b =>
          ∃ t q, exec (.mirrorWriteAccessDone ans) s = .next t ∧ StoreAnswered s t a ans ∧
            FaultReported (storeFaultEvent b none s.dyn) { s with dyn := { counted s with running := none } }
              { s with dyn := q } ∧
            GrantedByClass s.tables q t.dyn ∧ q.totals = s.dyn.totals ∧
            ∀ h, Gate.OnlyHolds (s.dyn.gates.get h) (q.gates.get h))
    | .summary =>
      (ans = .ok →
        ∃ t, exec (.mirrorWriteAccessDone ans) s = .next t ∧ StoreAnswered s t a ans ∧
          GrantedByClass s.tables { counted s with running := none } t.dyn) ∧
      (ans = .error →
        ∃ t q, exec (.mirrorWriteAccessDone ans) s = .next t ∧ StoreAnswered s t a ans ∧
          FaultReported (storeFaultEvent a none s.dyn) { s with dyn := { counted s with running := none } }
            { s with dyn := q } ∧
          GrantedByClass s.tables q t.dyn ∧ q.totals = s.dyn.totals ∧
          ∀ h, Gate.OnlyHolds (s.dyn.gates.get h) (q.gates.get h))
    | _ => True

/-- The store answers a write of an initialisation pass: an ERROR is counted up to 65,535 and raises nothing, and the pass
goes on with its next word. After the last word the pass is over: transactions are taken again, one RESET record carries
the kind of pass and the count, EXCEEDED is evaluated for reaches 0 to L, the refresh interval timer is started, and ALERT
follows the log indexes. A failed write of the status summary word keeps its init-done field (log entry 22).

The words of either pass: the status summary with init-done clear, then the words that the rules name in ascending address
order, each once, then the status summary with init-done set; and each word's value, from the part's copies, with slots
and result words 0. -/
def Obligations.PassWriteAccessDone : Prop :=
  (∀ (s : State) (kind : PassKind) (k : Nat) (a : Access) (ans : StoreAnswer) (failed : Nat), StoreCanonical s →
    s.dyn.running = some ⟨.pass kind k, a⟩ →
    failed = (if ans = .error then min 65535 (s.dyn.passFailed + 1) else s.dyn.passFailed) →
    (k + 1 < kind.length →
      ∃ t, exec (.passWriteAccessDone ans) s = .next t ∧ StoreAnswered s t a ans ∧
        (ans = .error → a.page = 0 → a.word = 1 →
          (Memory.word t.store 0 1).getLsbD 15 = (Memory.word s.store 0 1).getLsbD 15) ∧
        t.dyn =
          { counted s with
            passFailed := failed, running := some ⟨.pass kind (k + 1), passAccess s.tables s.dyn kind (k + 1)⟩ }) ∧
    (kind.length ≤ k + 1 → s.dyn.mode = .config →
      ∃ t, exec (.passWriteAccessDone ans) s = .next t ∧ StoreAnswered s t a ans ∧
        (ans = .error → a.page = 0 → a.word = 1 →
          (Memory.word t.store 0 1).getLsbD 15 = (Memory.word s.store 0 1).getLsbD 15) ∧
        t.dyn.passKind = none ∧ t.dyn.logWrite = s.dyn.logWrite ∧ t.dyn.logRead = s.dyn.logRead ∧
        alertLine t.dyn = decide (s.dyn.logWrite ≠ s.dyn.logRead) ∧ BoundsReported s t ∧
        t.dyn.powerOnUnfinished = (if kind = .powerOn then false else s.dyn.powerOnUnfinished) ∧
        t.dyn.refreshTimer = .running s.tables.refreshInterval.toNat ∧ t.dyn.totals = s.dyn.totals ∧
        t.dyn.mode = .config ∧
        ExceededAgrees s.tables s t (fun r => decide (r.val ≤ s.tables.lastDam.val)) ∧
        (∀ g, Gate.OnlyHolds (s.dyn.gates.get g) (t.dyn.gates.get g)) ∧
        Recorded
          { kind := .reset, code := if kind = .powerOn then 0 else 1, master := 0, page := 0, qualifier := 0
            subject := 0xFF, value := BitVec.ofNat 16 failed, tick := s.dyn.tick, detail := 0
            context := .mode .config }
          t.dyn)) ∧
  ∀ (c : Tables) (p : Dyn) (kind : PassKind),
    passAccess c p kind 0 = ownWrite 0 1 (summaryWord false p) ∧
    passAccess c p kind (kind.length - 1) = ownWrite 0 1 (summaryWord true p) ∧
    (∀ j k, 0 < j → j < k → k + 1 < kind.length →
      wordAddress (passAccess c p kind j).page (passAccess c p kind j).word <
        wordAddress (passAccess c p kind k).page (passAccess c p kind k).word) ∧
    (∀ (q : PageId) (w : WordIdx), kind.covers q w = true ↔
      ∃ k d, 0 < k ∧ k + 1 < kind.length ∧ passAccess c p kind k = ownWrite q w d) ∧
    ∀ (k : Nat) (q : PageId) (w : WordIdx) (d : Word), 0 < k → k + 1 < kind.length →
      passAccess c p kind k = ownWrite q w d →
      (q = 0 → w = 5 → d = BitVec.ofNat 16 p.logWrite.toNat) ∧
      (q = 0 → w = 8 → d = masterWord (c.masters.get 0)) ∧
      (14 ≤ q.val → d = 0) ∧
      (∀ g j, q = gateMirrorPage g → w = gateMirrorWord g j →
        d = gateMirrorValue (c.descriptors.get (slotPage g)).decimal (p.gates.get g) j) ∧
      (∀ r j, q = 9 → w = reachMirrorWord r j → d = reachMirrorValue c p r j) ∧
      ∀ x : WriteTarget, x.place = (q, w) →
        match x with
        | .mode => d = BitVec.ofNat 16 p.mode.code
        | .lastDam => d = BitVec.ofNat 16 c.lastDam.val
        | .refreshInterval => d = c.refreshInterval
        | .keepMask => d = c.keepMask
        | .logReadIndex => d = BitVec.ofNat 16 p.logRead.toNat
        | .alarmClear => d = 0
        | .masterEntry m => d = masterWord (c.masters.get m)
        | .descriptor e => d = descriptorWord (c.descriptors.get e)
        | .serviceControl g => d = if (p.gates.get g).state = .outOfService then 0 else 1
        | .gateConfig g i => d = (c.gates.get g).word i
        | .damDwell e .warning => d = (c.dams.get e).warningDwell
        | .damDwell e .recovery => d = (c.dams.get e).recoveryDwell
        | .holdControl e => d = if (p.dams.get e).hold then 1 else 0
        | .refreshKeep e => d = if (c.dams.get e).keep then 1 else 0
        | .reachWord r i => d = (c.reaches.get r).word i
        | .matrix i => d = c.matrix.get i
        | .portalConfig e i => d = (c.portals.get e).word i
        | .condition e i => d = (c.conditions.get e).word i
        | .link l i => d = (c.links.get l).word i
        | _ => d = 0

/-! ### What every command keeps -/

/-- An admission leaves every bound that it moved toward its limit holding at that limit. -/
def Obligations.AdmissionsRespectTheBounds : Prop :=
  ∀ (i : Instr) (s t : State) (b : Bound) (d : ReachId),
    (∃ g w, i = .order g w) ∨ (∃ q w, i = .portalHeaderWrite q w) → exec i s = .next t →
    b.inForce s.tables.lastDam d = true →
    b.movedToward (b.expression s.dyn.totals d) (b.expression t.dyn.totals d) = true →
    b.holds (b.expression t.dyn.totals d) (b.limit (s.tables.reaches.get d) (s.dyn.reaches.get d)) = true

/-- Every step keeps the store in its canonical form, which is that of the model's own memory (log entry 8): addresses
strictly rising, and no listed byte that reads as an unlisted one does. -/
def Obligations.EveryStepKeepsTheStoreCanonical : Prop :=
  ∀ s t : State, step s = .next t → StoreCanonical s → StoreCanonical t

/-- Every step keeps each gate's record in agreement with its state and kind, and the queue free of repeats and of gates
that are not MOVING with an empty hold-cause set in RUN. -/
def Obligations.EveryStepKeepsTheGatesSound : Prop :=
  ∀ s t : State, step s = .next t → GatesSound s → GatesSound t

/-- Every step keeps the MODE and DAM causes of in-service gates following the mode and the hold flags.

Every step keeps INTERLOCK on no gate but one whose condition toward its target is false. -/
def Obligations.EveryStepKeepsTheHoldCausesSound : Prop :=
  (∀ s t : State, step s = .next t → GatesSound s → CausesFollow s → CausesFollow t) ∧
  ∀ s t : State, step s = .next t → GatesSound s → InterlockSound s → InterlockSound t

/-- Every step keeps every open flood gate in service at a dam whose warning is SOUNDED. -/
def Obligations.EveryStepKeepsTheFloodGatesWarned : Prop :=
  ∀ s t : State, step s = .next t → GatesSound s → FloodGatesWarned s → FloodGatesWarned t

/-- Every step keeps each release total the sum of the releases of the dam's in-service gates at their targets.

Every step keeps targets, commands and feedback openings of 0 to 1000, and samples and levels of 0 to 9999; and where the
totals are exact and the openings in range, each total is that sum with no wrap, and at most 47,808. -/
def Obligations.EveryStepKeepsTheTotalsExact : Prop :=
  (∀ s t : State, step s = .next t → GatesSound s → TotalsExact s → TotalsExact t) ∧
  (∀ s t : State, step s = .next t → OpeningsInRange s → OpeningsInRange t) ∧
  (∀ s t : State, step s = .next t → LevelsInRange s → LevelsInRange t) ∧
  ∀ s : State, TotalsExact s → OpeningsInRange s → ∀ d,
    (s.dyn.totals.get d).toNat = ((List.finRange 48).map (countedRelease s d)).sum ∧ (s.dyn.totals.get d).toNat ≤ 47808

/-- Every step keeps the effective limits following the level states, the fixed entries and fields, the link entries
those that R145 lets in, each portal's busy flag in agreement with its one job, and a forwarded access in progress that of
the transaction in hand.

Every step keeps the refresh debt between -4 and 7. -/
def Obligations.EveryStepKeepsTheRecordsAndTheDebtSound : Prop :=
  (∀ s t : State, step s = .next t → LimitsFollowLevel s → LimitsFollowLevel t) ∧
  (∀ s t : State, step s = .next t → FixedEntries s → FixedEntries t) ∧
  (∀ s t : State, step s = .next t → LinksValid s → LinksValid t) ∧
  (∀ s t : State, step s = .next t → PortalsSound s → PortalsSound t) ∧
  (∀ s t : State, step s = .next t → HandSound s → HandSound t) ∧
  ∀ s t : State, step s = .next t → DebtInRange s → DebtInRange t

/-- Every step keeps the arbiter from leaving a job waiting while the port is free. -/
def Obligations.EveryStepKeepsThePortIdle : Prop :=
  ∀ s t : State, step s = .next t → PortIdle s → PortIdle t
end

