-- ==== Sys2Proof/Laws/State.lean ====
section
/-! SUPPORT. Beside State: for each named setter of the dynamic state, one lemma for each field, true by rfl, and the
frames of the setters with a case split. -/

namespace Sys2Proof.Machine

@[simp] theorem markSlot_gates (g : GateId) (p : Dyn) : (markSlot g p).gates = p.gates := rfl
@[simp] theorem markSlot_dams (g : GateId) (p : Dyn) : (markSlot g p).dams = p.dams := rfl
@[simp] theorem markSlot_totals (g : GateId) (p : Dyn) : (markSlot g p).totals = p.totals := rfl
@[simp] theorem markSlot_reaches (g : GateId) (p : Dyn) : (markSlot g p).reaches = p.reaches := rfl
@[simp] theorem markSlot_statusWords (g : GateId) (p : Dyn) : (markSlot g p).statusWords = p.statusWords := rfl
@[simp] theorem markSlot_queue (g : GateId) (p : Dyn) : (markSlot g p).queue = p.queue := rfl
@[simp] theorem markSlot_portals (g : GateId) (p : Dyn) : (markSlot g p).portals = p.portals := rfl
@[simp] theorem markSlot_mode (g : GateId) (p : Dyn) : (markSlot g p).mode = p.mode := rfl
@[simp] theorem markSlot_debt (g : GateId) (p : Dyn) : (markSlot g p).debt = p.debt := rfl
@[simp] theorem markSlot_pointer (g : GateId) (p : Dyn) : (markSlot g p).pointer = p.pointer := rfl
@[simp] theorem markSlot_progress (g : GateId) (p : Dyn) : (markSlot g p).progress = p.progress := rfl
@[simp] theorem markSlot_offer (g : GateId) (p : Dyn) : (markSlot g p).offer = p.offer := rfl
@[simp] theorem markSlot_pointerReset (g : GateId) (p : Dyn) : (markSlot g p).pointerReset = p.pointerReset := rfl
@[simp] theorem markSlot_refreshTimer (g : GateId) (p : Dyn) : (markSlot g p).refreshTimer = p.refreshTimer := rfl
@[simp] theorem markSlot_alarms (g : GateId) (p : Dyn) : (markSlot g p).alarms = p.alarms := rfl
@[simp] theorem markSlot_logBuffer (g : GateId) (p : Dyn) : (markSlot g p).logBuffer = p.logBuffer := rfl
@[simp] theorem markSlot_logWrite (g : GateId) (p : Dyn) : (markSlot g p).logWrite = p.logWrite := rfl
@[simp] theorem markSlot_logRead (g : GateId) (p : Dyn) : (markSlot g p).logRead = p.logRead := rfl
@[simp] theorem markSlot_logLost (g : GateId) (p : Dyn) : (markSlot g p).logLost = p.logLost := rfl
@[simp] theorem markSlot_slotMarks (g : GateId) (p : Dyn) : (markSlot g p).slotMarks = Table.put p.slotMarks g (setMark p.moment (p.slotMarks.get g)) := rfl
@[simp] theorem markSlot_gateMirrorMarks (g : GateId) (p : Dyn) : (markSlot g p).gateMirrorMarks = p.gateMirrorMarks := rfl
@[simp] theorem markSlot_reachMirrorMarks (g : GateId) (p : Dyn) : (markSlot g p).reachMirrorMarks = p.reachMirrorMarks := rfl
@[simp] theorem markSlot_summaryMark (g : GateId) (p : Dyn) : (markSlot g p).summaryMark = p.summaryMark := rfl
@[simp] theorem markSlot_portalJobs (g : GateId) (p : Dyn) : (markSlot g p).portalJobs = p.portalJobs := rfl
@[simp] theorem markSlot_running (g : GateId) (p : Dyn) : (markSlot g p).running = p.running := rfl
@[simp] theorem markSlot_hand (g : GateId) (p : Dyn) : (markSlot g p).hand = p.hand := rfl
@[simp] theorem markSlot_answer (g : GateId) (p : Dyn) : (markSlot g p).answer = p.answer := rfl
@[simp] theorem markSlot_passKind (g : GateId) (p : Dyn) : (markSlot g p).passKind = p.passKind := rfl
@[simp] theorem markSlot_passFailed (g : GateId) (p : Dyn) : (markSlot g p).passFailed = p.passFailed := rfl
@[simp] theorem markSlot_powerOnUnfinished (g : GateId) (p : Dyn) : (markSlot g p).powerOnUnfinished = p.powerOnUnfinished := rfl
@[simp] theorem markSlot_tick (g : GateId) (p : Dyn) : (markSlot g p).tick = p.tick := rfl
@[simp] theorem markSlot_moment (g : GateId) (p : Dyn) : (markSlot g p).moment = p.moment := rfl

@[simp] theorem markGateMirror_gates (g : GateId) (p : Dyn) : (markGateMirror g p).gates = p.gates := rfl
@[simp] theorem markGateMirror_dams (g : GateId) (p : Dyn) : (markGateMirror g p).dams = p.dams := rfl
@[simp] theorem markGateMirror_totals (g : GateId) (p : Dyn) : (markGateMirror g p).totals = p.totals := rfl
@[simp] theorem markGateMirror_reaches (g : GateId) (p : Dyn) : (markGateMirror g p).reaches = p.reaches := rfl
@[simp] theorem markGateMirror_statusWords (g : GateId) (p : Dyn) : (markGateMirror g p).statusWords = p.statusWords := rfl
@[simp] theorem markGateMirror_queue (g : GateId) (p : Dyn) : (markGateMirror g p).queue = p.queue := rfl
@[simp] theorem markGateMirror_portals (g : GateId) (p : Dyn) : (markGateMirror g p).portals = p.portals := rfl
@[simp] theorem markGateMirror_mode (g : GateId) (p : Dyn) : (markGateMirror g p).mode = p.mode := rfl
@[simp] theorem markGateMirror_debt (g : GateId) (p : Dyn) : (markGateMirror g p).debt = p.debt := rfl
@[simp] theorem markGateMirror_pointer (g : GateId) (p : Dyn) : (markGateMirror g p).pointer = p.pointer := rfl
@[simp] theorem markGateMirror_progress (g : GateId) (p : Dyn) : (markGateMirror g p).progress = p.progress := rfl
@[simp] theorem markGateMirror_offer (g : GateId) (p : Dyn) : (markGateMirror g p).offer = p.offer := rfl
@[simp] theorem markGateMirror_pointerReset (g : GateId) (p : Dyn) : (markGateMirror g p).pointerReset = p.pointerReset := rfl
@[simp] theorem markGateMirror_refreshTimer (g : GateId) (p : Dyn) : (markGateMirror g p).refreshTimer = p.refreshTimer := rfl
@[simp] theorem markGateMirror_alarms (g : GateId) (p : Dyn) : (markGateMirror g p).alarms = p.alarms := rfl
@[simp] theorem markGateMirror_logBuffer (g : GateId) (p : Dyn) : (markGateMirror g p).logBuffer = p.logBuffer := rfl
@[simp] theorem markGateMirror_logWrite (g : GateId) (p : Dyn) : (markGateMirror g p).logWrite = p.logWrite := rfl
@[simp] theorem markGateMirror_logRead (g : GateId) (p : Dyn) : (markGateMirror g p).logRead = p.logRead := rfl
@[simp] theorem markGateMirror_logLost (g : GateId) (p : Dyn) : (markGateMirror g p).logLost = p.logLost := rfl
@[simp] theorem markGateMirror_slotMarks (g : GateId) (p : Dyn) : (markGateMirror g p).slotMarks = p.slotMarks := rfl
@[simp] theorem markGateMirror_gateMirrorMarks (g : GateId) (p : Dyn) : (markGateMirror g p).gateMirrorMarks = Table.put p.gateMirrorMarks g (setMark p.moment (p.gateMirrorMarks.get g)) := rfl
@[simp] theorem markGateMirror_reachMirrorMarks (g : GateId) (p : Dyn) : (markGateMirror g p).reachMirrorMarks = p.reachMirrorMarks := rfl
@[simp] theorem markGateMirror_summaryMark (g : GateId) (p : Dyn) : (markGateMirror g p).summaryMark = p.summaryMark := rfl
@[simp] theorem markGateMirror_portalJobs (g : GateId) (p : Dyn) : (markGateMirror g p).portalJobs = p.portalJobs := rfl
@[simp] theorem markGateMirror_running (g : GateId) (p : Dyn) : (markGateMirror g p).running = p.running := rfl
@[simp] theorem markGateMirror_hand (g : GateId) (p : Dyn) : (markGateMirror g p).hand = p.hand := rfl
@[simp] theorem markGateMirror_answer (g : GateId) (p : Dyn) : (markGateMirror g p).answer = p.answer := rfl
@[simp] theorem markGateMirror_passKind (g : GateId) (p : Dyn) : (markGateMirror g p).passKind = p.passKind := rfl
@[simp] theorem markGateMirror_passFailed (g : GateId) (p : Dyn) : (markGateMirror g p).passFailed = p.passFailed := rfl
@[simp] theorem markGateMirror_powerOnUnfinished (g : GateId) (p : Dyn) : (markGateMirror g p).powerOnUnfinished = p.powerOnUnfinished := rfl
@[simp] theorem markGateMirror_tick (g : GateId) (p : Dyn) : (markGateMirror g p).tick = p.tick := rfl
@[simp] theorem markGateMirror_moment (g : GateId) (p : Dyn) : (markGateMirror g p).moment = p.moment := rfl

@[simp] theorem markReach_gates (r : ReachId) (p : Dyn) : (markReach r p).gates = p.gates := rfl
@[simp] theorem markReach_dams (r : ReachId) (p : Dyn) : (markReach r p).dams = p.dams := rfl
@[simp] theorem markReach_totals (r : ReachId) (p : Dyn) : (markReach r p).totals = p.totals := rfl
@[simp] theorem markReach_reaches (r : ReachId) (p : Dyn) : (markReach r p).reaches = p.reaches := rfl
@[simp] theorem markReach_statusWords (r : ReachId) (p : Dyn) : (markReach r p).statusWords = p.statusWords := rfl
@[simp] theorem markReach_queue (r : ReachId) (p : Dyn) : (markReach r p).queue = p.queue := rfl
@[simp] theorem markReach_portals (r : ReachId) (p : Dyn) : (markReach r p).portals = p.portals := rfl
@[simp] theorem markReach_mode (r : ReachId) (p : Dyn) : (markReach r p).mode = p.mode := rfl
@[simp] theorem markReach_debt (r : ReachId) (p : Dyn) : (markReach r p).debt = p.debt := rfl
@[simp] theorem markReach_pointer (r : ReachId) (p : Dyn) : (markReach r p).pointer = p.pointer := rfl
@[simp] theorem markReach_progress (r : ReachId) (p : Dyn) : (markReach r p).progress = p.progress := rfl
@[simp] theorem markReach_offer (r : ReachId) (p : Dyn) : (markReach r p).offer = p.offer := rfl
@[simp] theorem markReach_pointerReset (r : ReachId) (p : Dyn) : (markReach r p).pointerReset = p.pointerReset := rfl
@[simp] theorem markReach_refreshTimer (r : ReachId) (p : Dyn) : (markReach r p).refreshTimer = p.refreshTimer := rfl
@[simp] theorem markReach_alarms (r : ReachId) (p : Dyn) : (markReach r p).alarms = p.alarms := rfl
@[simp] theorem markReach_logBuffer (r : ReachId) (p : Dyn) : (markReach r p).logBuffer = p.logBuffer := rfl
@[simp] theorem markReach_logWrite (r : ReachId) (p : Dyn) : (markReach r p).logWrite = p.logWrite := rfl
@[simp] theorem markReach_logRead (r : ReachId) (p : Dyn) : (markReach r p).logRead = p.logRead := rfl
@[simp] theorem markReach_logLost (r : ReachId) (p : Dyn) : (markReach r p).logLost = p.logLost := rfl
@[simp] theorem markReach_slotMarks (r : ReachId) (p : Dyn) : (markReach r p).slotMarks = p.slotMarks := rfl
@[simp] theorem markReach_gateMirrorMarks (r : ReachId) (p : Dyn) : (markReach r p).gateMirrorMarks = p.gateMirrorMarks := rfl
@[simp] theorem markReach_reachMirrorMarks (r : ReachId) (p : Dyn) : (markReach r p).reachMirrorMarks = Table.put p.reachMirrorMarks r (setMark p.moment (p.reachMirrorMarks.get r)) := rfl
@[simp] theorem markReach_summaryMark (r : ReachId) (p : Dyn) : (markReach r p).summaryMark = p.summaryMark := rfl
@[simp] theorem markReach_portalJobs (r : ReachId) (p : Dyn) : (markReach r p).portalJobs = p.portalJobs := rfl
@[simp] theorem markReach_running (r : ReachId) (p : Dyn) : (markReach r p).running = p.running := rfl
@[simp] theorem markReach_hand (r : ReachId) (p : Dyn) : (markReach r p).hand = p.hand := rfl
@[simp] theorem markReach_answer (r : ReachId) (p : Dyn) : (markReach r p).answer = p.answer := rfl
@[simp] theorem markReach_passKind (r : ReachId) (p : Dyn) : (markReach r p).passKind = p.passKind := rfl
@[simp] theorem markReach_passFailed (r : ReachId) (p : Dyn) : (markReach r p).passFailed = p.passFailed := rfl
@[simp] theorem markReach_powerOnUnfinished (r : ReachId) (p : Dyn) : (markReach r p).powerOnUnfinished = p.powerOnUnfinished := rfl
@[simp] theorem markReach_tick (r : ReachId) (p : Dyn) : (markReach r p).tick = p.tick := rfl
@[simp] theorem markReach_moment (r : ReachId) (p : Dyn) : (markReach r p).moment = p.moment := rfl

@[simp] theorem markSummary_gates (p : Dyn) : (markSummary p).gates = p.gates := rfl
@[simp] theorem markSummary_dams (p : Dyn) : (markSummary p).dams = p.dams := rfl
@[simp] theorem markSummary_totals (p : Dyn) : (markSummary p).totals = p.totals := rfl
@[simp] theorem markSummary_reaches (p : Dyn) : (markSummary p).reaches = p.reaches := rfl
@[simp] theorem markSummary_statusWords (p : Dyn) : (markSummary p).statusWords = p.statusWords := rfl
@[simp] theorem markSummary_queue (p : Dyn) : (markSummary p).queue = p.queue := rfl
@[simp] theorem markSummary_portals (p : Dyn) : (markSummary p).portals = p.portals := rfl
@[simp] theorem markSummary_mode (p : Dyn) : (markSummary p).mode = p.mode := rfl
@[simp] theorem markSummary_debt (p : Dyn) : (markSummary p).debt = p.debt := rfl
@[simp] theorem markSummary_pointer (p : Dyn) : (markSummary p).pointer = p.pointer := rfl
@[simp] theorem markSummary_progress (p : Dyn) : (markSummary p).progress = p.progress := rfl
@[simp] theorem markSummary_offer (p : Dyn) : (markSummary p).offer = p.offer := rfl
@[simp] theorem markSummary_pointerReset (p : Dyn) : (markSummary p).pointerReset = p.pointerReset := rfl
@[simp] theorem markSummary_refreshTimer (p : Dyn) : (markSummary p).refreshTimer = p.refreshTimer := rfl
@[simp] theorem markSummary_alarms (p : Dyn) : (markSummary p).alarms = p.alarms := rfl
@[simp] theorem markSummary_logBuffer (p : Dyn) : (markSummary p).logBuffer = p.logBuffer := rfl
@[simp] theorem markSummary_logWrite (p : Dyn) : (markSummary p).logWrite = p.logWrite := rfl
@[simp] theorem markSummary_logRead (p : Dyn) : (markSummary p).logRead = p.logRead := rfl
@[simp] theorem markSummary_logLost (p : Dyn) : (markSummary p).logLost = p.logLost := rfl
@[simp] theorem markSummary_slotMarks (p : Dyn) : (markSummary p).slotMarks = p.slotMarks := rfl
@[simp] theorem markSummary_gateMirrorMarks (p : Dyn) : (markSummary p).gateMirrorMarks = p.gateMirrorMarks := rfl
@[simp] theorem markSummary_reachMirrorMarks (p : Dyn) : (markSummary p).reachMirrorMarks = p.reachMirrorMarks := rfl
@[simp] theorem markSummary_summaryMark (p : Dyn) : (markSummary p).summaryMark = setMark p.moment p.summaryMark := rfl
@[simp] theorem markSummary_portalJobs (p : Dyn) : (markSummary p).portalJobs = p.portalJobs := rfl
@[simp] theorem markSummary_running (p : Dyn) : (markSummary p).running = p.running := rfl
@[simp] theorem markSummary_hand (p : Dyn) : (markSummary p).hand = p.hand := rfl
@[simp] theorem markSummary_answer (p : Dyn) : (markSummary p).answer = p.answer := rfl
@[simp] theorem markSummary_passKind (p : Dyn) : (markSummary p).passKind = p.passKind := rfl
@[simp] theorem markSummary_passFailed (p : Dyn) : (markSummary p).passFailed = p.passFailed := rfl
@[simp] theorem markSummary_powerOnUnfinished (p : Dyn) : (markSummary p).powerOnUnfinished = p.powerOnUnfinished := rfl
@[simp] theorem markSummary_tick (p : Dyn) : (markSummary p).tick = p.tick := rfl
@[simp] theorem markSummary_moment (p : Dyn) : (markSummary p).moment = p.moment := rfl

@[simp] theorem putDam_gates (d : DamId) (x : Dam) (p : Dyn) : (putDam d x p).gates = p.gates := rfl
@[simp] theorem putDam_dams (d : DamId) (x : Dam) (p : Dyn) : (putDam d x p).dams = Table.put p.dams d x := rfl
@[simp] theorem putDam_totals (d : DamId) (x : Dam) (p : Dyn) : (putDam d x p).totals = p.totals := rfl
@[simp] theorem putDam_reaches (d : DamId) (x : Dam) (p : Dyn) : (putDam d x p).reaches = p.reaches := rfl
@[simp] theorem putDam_statusWords (d : DamId) (x : Dam) (p : Dyn) : (putDam d x p).statusWords = p.statusWords := rfl
@[simp] theorem putDam_queue (d : DamId) (x : Dam) (p : Dyn) : (putDam d x p).queue = p.queue := rfl
@[simp] theorem putDam_portals (d : DamId) (x : Dam) (p : Dyn) : (putDam d x p).portals = p.portals := rfl
@[simp] theorem putDam_mode (d : DamId) (x : Dam) (p : Dyn) : (putDam d x p).mode = p.mode := rfl
@[simp] theorem putDam_debt (d : DamId) (x : Dam) (p : Dyn) : (putDam d x p).debt = p.debt := rfl
@[simp] theorem putDam_pointer (d : DamId) (x : Dam) (p : Dyn) : (putDam d x p).pointer = p.pointer := rfl
@[simp] theorem putDam_progress (d : DamId) (x : Dam) (p : Dyn) : (putDam d x p).progress = p.progress := rfl
@[simp] theorem putDam_offer (d : DamId) (x : Dam) (p : Dyn) : (putDam d x p).offer = p.offer := rfl
@[simp] theorem putDam_pointerReset (d : DamId) (x : Dam) (p : Dyn) : (putDam d x p).pointerReset = p.pointerReset := rfl
@[simp] theorem putDam_refreshTimer (d : DamId) (x : Dam) (p : Dyn) : (putDam d x p).refreshTimer = p.refreshTimer := rfl
@[simp] theorem putDam_alarms (d : DamId) (x : Dam) (p : Dyn) : (putDam d x p).alarms = p.alarms := rfl
@[simp] theorem putDam_logBuffer (d : DamId) (x : Dam) (p : Dyn) : (putDam d x p).logBuffer = p.logBuffer := rfl
@[simp] theorem putDam_logWrite (d : DamId) (x : Dam) (p : Dyn) : (putDam d x p).logWrite = p.logWrite := rfl
@[simp] theorem putDam_logRead (d : DamId) (x : Dam) (p : Dyn) : (putDam d x p).logRead = p.logRead := rfl
@[simp] theorem putDam_logLost (d : DamId) (x : Dam) (p : Dyn) : (putDam d x p).logLost = p.logLost := rfl
@[simp] theorem putDam_slotMarks (d : DamId) (x : Dam) (p : Dyn) : (putDam d x p).slotMarks = p.slotMarks := rfl
@[simp] theorem putDam_gateMirrorMarks (d : DamId) (x : Dam) (p : Dyn) : (putDam d x p).gateMirrorMarks = p.gateMirrorMarks := rfl
@[simp] theorem putDam_reachMirrorMarks (d : DamId) (x : Dam) (p : Dyn) : (putDam d x p).reachMirrorMarks = p.reachMirrorMarks := rfl
@[simp] theorem putDam_summaryMark (d : DamId) (x : Dam) (p : Dyn) : (putDam d x p).summaryMark = p.summaryMark := rfl
@[simp] theorem putDam_portalJobs (d : DamId) (x : Dam) (p : Dyn) : (putDam d x p).portalJobs = p.portalJobs := rfl
@[simp] theorem putDam_running (d : DamId) (x : Dam) (p : Dyn) : (putDam d x p).running = p.running := rfl
@[simp] theorem putDam_hand (d : DamId) (x : Dam) (p : Dyn) : (putDam d x p).hand = p.hand := rfl
@[simp] theorem putDam_answer (d : DamId) (x : Dam) (p : Dyn) : (putDam d x p).answer = p.answer := rfl
@[simp] theorem putDam_passKind (d : DamId) (x : Dam) (p : Dyn) : (putDam d x p).passKind = p.passKind := rfl
@[simp] theorem putDam_passFailed (d : DamId) (x : Dam) (p : Dyn) : (putDam d x p).passFailed = p.passFailed := rfl
@[simp] theorem putDam_powerOnUnfinished (d : DamId) (x : Dam) (p : Dyn) : (putDam d x p).powerOnUnfinished = p.powerOnUnfinished := rfl
@[simp] theorem putDam_tick (d : DamId) (x : Dam) (p : Dyn) : (putDam d x p).tick = p.tick := rfl
@[simp] theorem putDam_moment (d : DamId) (x : Dam) (p : Dyn) : (putDam d x p).moment = p.moment := rfl

@[simp] theorem putReach_gates (r : ReachId) (x : Reach) (p : Dyn) : (putReach r x p).gates = p.gates := rfl
@[simp] theorem putReach_dams (r : ReachId) (x : Reach) (p : Dyn) : (putReach r x p).dams = p.dams := rfl
@[simp] theorem putReach_totals (r : ReachId) (x : Reach) (p : Dyn) : (putReach r x p).totals = p.totals := rfl
@[simp] theorem putReach_reaches (r : ReachId) (x : Reach) (p : Dyn) : (putReach r x p).reaches = Table.put p.reaches r x := rfl
@[simp] theorem putReach_statusWords (r : ReachId) (x : Reach) (p : Dyn) : (putReach r x p).statusWords = p.statusWords := rfl
@[simp] theorem putReach_queue (r : ReachId) (x : Reach) (p : Dyn) : (putReach r x p).queue = p.queue := rfl
@[simp] theorem putReach_portals (r : ReachId) (x : Reach) (p : Dyn) : (putReach r x p).portals = p.portals := rfl
@[simp] theorem putReach_mode (r : ReachId) (x : Reach) (p : Dyn) : (putReach r x p).mode = p.mode := rfl
@[simp] theorem putReach_debt (r : ReachId) (x : Reach) (p : Dyn) : (putReach r x p).debt = p.debt := rfl
@[simp] theorem putReach_pointer (r : ReachId) (x : Reach) (p : Dyn) : (putReach r x p).pointer = p.pointer := rfl
@[simp] theorem putReach_progress (r : ReachId) (x : Reach) (p : Dyn) : (putReach r x p).progress = p.progress := rfl
@[simp] theorem putReach_offer (r : ReachId) (x : Reach) (p : Dyn) : (putReach r x p).offer = p.offer := rfl
@[simp] theorem putReach_pointerReset (r : ReachId) (x : Reach) (p : Dyn) : (putReach r x p).pointerReset = p.pointerReset := rfl
@[simp] theorem putReach_refreshTimer (r : ReachId) (x : Reach) (p : Dyn) : (putReach r x p).refreshTimer = p.refreshTimer := rfl
@[simp] theorem putReach_alarms (r : ReachId) (x : Reach) (p : Dyn) : (putReach r x p).alarms = p.alarms := rfl
@[simp] theorem putReach_logBuffer (r : ReachId) (x : Reach) (p : Dyn) : (putReach r x p).logBuffer = p.logBuffer := rfl
@[simp] theorem putReach_logWrite (r : ReachId) (x : Reach) (p : Dyn) : (putReach r x p).logWrite = p.logWrite := rfl
@[simp] theorem putReach_logRead (r : ReachId) (x : Reach) (p : Dyn) : (putReach r x p).logRead = p.logRead := rfl
@[simp] theorem putReach_logLost (r : ReachId) (x : Reach) (p : Dyn) : (putReach r x p).logLost = p.logLost := rfl
@[simp] theorem putReach_slotMarks (r : ReachId) (x : Reach) (p : Dyn) : (putReach r x p).slotMarks = p.slotMarks := rfl
@[simp] theorem putReach_gateMirrorMarks (r : ReachId) (x : Reach) (p : Dyn) : (putReach r x p).gateMirrorMarks = p.gateMirrorMarks := rfl
@[simp] theorem putReach_reachMirrorMarks (r : ReachId) (x : Reach) (p : Dyn) : (putReach r x p).reachMirrorMarks = p.reachMirrorMarks := rfl
@[simp] theorem putReach_summaryMark (r : ReachId) (x : Reach) (p : Dyn) : (putReach r x p).summaryMark = p.summaryMark := rfl
@[simp] theorem putReach_portalJobs (r : ReachId) (x : Reach) (p : Dyn) : (putReach r x p).portalJobs = p.portalJobs := rfl
@[simp] theorem putReach_running (r : ReachId) (x : Reach) (p : Dyn) : (putReach r x p).running = p.running := rfl
@[simp] theorem putReach_hand (r : ReachId) (x : Reach) (p : Dyn) : (putReach r x p).hand = p.hand := rfl
@[simp] theorem putReach_answer (r : ReachId) (x : Reach) (p : Dyn) : (putReach r x p).answer = p.answer := rfl
@[simp] theorem putReach_passKind (r : ReachId) (x : Reach) (p : Dyn) : (putReach r x p).passKind = p.passKind := rfl
@[simp] theorem putReach_passFailed (r : ReachId) (x : Reach) (p : Dyn) : (putReach r x p).passFailed = p.passFailed := rfl
@[simp] theorem putReach_powerOnUnfinished (r : ReachId) (x : Reach) (p : Dyn) : (putReach r x p).powerOnUnfinished = p.powerOnUnfinished := rfl
@[simp] theorem putReach_tick (r : ReachId) (x : Reach) (p : Dyn) : (putReach r x p).tick = p.tick := rfl
@[simp] theorem putReach_moment (r : ReachId) (x : Reach) (p : Dyn) : (putReach r x p).moment = p.moment := rfl

@[simp] theorem dequeue_gates (g : GateId) (p : Dyn) : (dequeue g p).gates = p.gates := rfl
@[simp] theorem dequeue_dams (g : GateId) (p : Dyn) : (dequeue g p).dams = p.dams := rfl
@[simp] theorem dequeue_totals (g : GateId) (p : Dyn) : (dequeue g p).totals = p.totals := rfl
@[simp] theorem dequeue_reaches (g : GateId) (p : Dyn) : (dequeue g p).reaches = p.reaches := rfl
@[simp] theorem dequeue_statusWords (g : GateId) (p : Dyn) : (dequeue g p).statusWords = p.statusWords := rfl
@[simp] theorem dequeue_queue (g : GateId) (p : Dyn) : (dequeue g p).queue = p.queue.filter (· != g) := rfl
@[simp] theorem dequeue_portals (g : GateId) (p : Dyn) : (dequeue g p).portals = p.portals := rfl
@[simp] theorem dequeue_mode (g : GateId) (p : Dyn) : (dequeue g p).mode = p.mode := rfl
@[simp] theorem dequeue_debt (g : GateId) (p : Dyn) : (dequeue g p).debt = p.debt := rfl
@[simp] theorem dequeue_pointer (g : GateId) (p : Dyn) : (dequeue g p).pointer = p.pointer := rfl
@[simp] theorem dequeue_progress (g : GateId) (p : Dyn) : (dequeue g p).progress = p.progress := rfl
@[simp] theorem dequeue_offer (g : GateId) (p : Dyn) : (dequeue g p).offer = p.offer := rfl
@[simp] theorem dequeue_pointerReset (g : GateId) (p : Dyn) : (dequeue g p).pointerReset = p.pointerReset := rfl
@[simp] theorem dequeue_refreshTimer (g : GateId) (p : Dyn) : (dequeue g p).refreshTimer = p.refreshTimer := rfl
@[simp] theorem dequeue_alarms (g : GateId) (p : Dyn) : (dequeue g p).alarms = p.alarms := rfl
@[simp] theorem dequeue_logBuffer (g : GateId) (p : Dyn) : (dequeue g p).logBuffer = p.logBuffer := rfl
@[simp] theorem dequeue_logWrite (g : GateId) (p : Dyn) : (dequeue g p).logWrite = p.logWrite := rfl
@[simp] theorem dequeue_logRead (g : GateId) (p : Dyn) : (dequeue g p).logRead = p.logRead := rfl
@[simp] theorem dequeue_logLost (g : GateId) (p : Dyn) : (dequeue g p).logLost = p.logLost := rfl
@[simp] theorem dequeue_slotMarks (g : GateId) (p : Dyn) : (dequeue g p).slotMarks = p.slotMarks := rfl
@[simp] theorem dequeue_gateMirrorMarks (g : GateId) (p : Dyn) : (dequeue g p).gateMirrorMarks = p.gateMirrorMarks := rfl
@[simp] theorem dequeue_reachMirrorMarks (g : GateId) (p : Dyn) : (dequeue g p).reachMirrorMarks = p.reachMirrorMarks := rfl
@[simp] theorem dequeue_summaryMark (g : GateId) (p : Dyn) : (dequeue g p).summaryMark = p.summaryMark := rfl
@[simp] theorem dequeue_portalJobs (g : GateId) (p : Dyn) : (dequeue g p).portalJobs = p.portalJobs := rfl
@[simp] theorem dequeue_running (g : GateId) (p : Dyn) : (dequeue g p).running = p.running := rfl
@[simp] theorem dequeue_hand (g : GateId) (p : Dyn) : (dequeue g p).hand = p.hand := rfl
@[simp] theorem dequeue_answer (g : GateId) (p : Dyn) : (dequeue g p).answer = p.answer := rfl
@[simp] theorem dequeue_passKind (g : GateId) (p : Dyn) : (dequeue g p).passKind = p.passKind := rfl
@[simp] theorem dequeue_passFailed (g : GateId) (p : Dyn) : (dequeue g p).passFailed = p.passFailed := rfl
@[simp] theorem dequeue_powerOnUnfinished (g : GateId) (p : Dyn) : (dequeue g p).powerOnUnfinished = p.powerOnUnfinished := rfl
@[simp] theorem dequeue_tick (g : GateId) (p : Dyn) : (dequeue g p).tick = p.tick := rfl
@[simp] theorem dequeue_moment (g : GateId) (p : Dyn) : (dequeue g p).moment = p.moment := rfl

@[simp] theorem Dyn.advance_gates (p : Dyn) : (Dyn.advance p).gates = p.gates := rfl
@[simp] theorem Dyn.advance_dams (p : Dyn) : (Dyn.advance p).dams = p.dams := rfl
@[simp] theorem Dyn.advance_totals (p : Dyn) : (Dyn.advance p).totals = p.totals := rfl
@[simp] theorem Dyn.advance_reaches (p : Dyn) : (Dyn.advance p).reaches = p.reaches := rfl
@[simp] theorem Dyn.advance_statusWords (p : Dyn) : (Dyn.advance p).statusWords = p.statusWords := rfl
@[simp] theorem Dyn.advance_queue (p : Dyn) : (Dyn.advance p).queue = p.queue := rfl
@[simp] theorem Dyn.advance_portals (p : Dyn) : (Dyn.advance p).portals = p.portals := rfl
@[simp] theorem Dyn.advance_mode (p : Dyn) : (Dyn.advance p).mode = p.mode := rfl
@[simp] theorem Dyn.advance_debt (p : Dyn) : (Dyn.advance p).debt = p.debt := rfl
@[simp] theorem Dyn.advance_pointer (p : Dyn) : (Dyn.advance p).pointer = p.pointer := rfl
@[simp] theorem Dyn.advance_progress (p : Dyn) : (Dyn.advance p).progress = p.progress := rfl
@[simp] theorem Dyn.advance_offer (p : Dyn) : (Dyn.advance p).offer = p.offer := rfl
@[simp] theorem Dyn.advance_pointerReset (p : Dyn) : (Dyn.advance p).pointerReset = p.pointerReset := rfl
@[simp] theorem Dyn.advance_refreshTimer (p : Dyn) : (Dyn.advance p).refreshTimer = p.refreshTimer := rfl
@[simp] theorem Dyn.advance_alarms (p : Dyn) : (Dyn.advance p).alarms = p.alarms := rfl
@[simp] theorem Dyn.advance_logBuffer (p : Dyn) : (Dyn.advance p).logBuffer = p.logBuffer := rfl
@[simp] theorem Dyn.advance_logWrite (p : Dyn) : (Dyn.advance p).logWrite = p.logWrite := rfl
@[simp] theorem Dyn.advance_logRead (p : Dyn) : (Dyn.advance p).logRead = p.logRead := rfl
@[simp] theorem Dyn.advance_logLost (p : Dyn) : (Dyn.advance p).logLost = p.logLost := rfl
@[simp] theorem Dyn.advance_slotMarks (p : Dyn) : (Dyn.advance p).slotMarks = p.slotMarks := rfl
@[simp] theorem Dyn.advance_gateMirrorMarks (p : Dyn) : (Dyn.advance p).gateMirrorMarks = p.gateMirrorMarks := rfl
@[simp] theorem Dyn.advance_reachMirrorMarks (p : Dyn) : (Dyn.advance p).reachMirrorMarks = p.reachMirrorMarks := rfl
@[simp] theorem Dyn.advance_summaryMark (p : Dyn) : (Dyn.advance p).summaryMark = p.summaryMark := rfl
@[simp] theorem Dyn.advance_portalJobs (p : Dyn) : (Dyn.advance p).portalJobs = p.portalJobs := rfl
@[simp] theorem Dyn.advance_running (p : Dyn) : (Dyn.advance p).running = p.running := rfl
@[simp] theorem Dyn.advance_hand (p : Dyn) : (Dyn.advance p).hand = p.hand := rfl
@[simp] theorem Dyn.advance_answer (p : Dyn) : (Dyn.advance p).answer = p.answer := rfl
@[simp] theorem Dyn.advance_passKind (p : Dyn) : (Dyn.advance p).passKind = p.passKind := rfl
@[simp] theorem Dyn.advance_passFailed (p : Dyn) : (Dyn.advance p).passFailed = p.passFailed := rfl
@[simp] theorem Dyn.advance_powerOnUnfinished (p : Dyn) : (Dyn.advance p).powerOnUnfinished = p.powerOnUnfinished := rfl
@[simp] theorem Dyn.advance_tick (p : Dyn) : (Dyn.advance p).tick = p.tick := rfl
@[simp] theorem Dyn.advance_moment (p : Dyn) : (Dyn.advance p).moment = p.moment + 1 := rfl

@[simp] theorem presented_gates (p : Dyn) : (presented p).gates = p.gates := rfl
@[simp] theorem presented_dams (p : Dyn) : (presented p).dams = p.dams := rfl
@[simp] theorem presented_totals (p : Dyn) : (presented p).totals = p.totals := rfl
@[simp] theorem presented_reaches (p : Dyn) : (presented p).reaches = p.reaches := rfl
@[simp] theorem presented_statusWords (p : Dyn) : (presented p).statusWords = p.statusWords := rfl
@[simp] theorem presented_queue (p : Dyn) : (presented p).queue = p.queue := rfl
@[simp] theorem presented_portals (p : Dyn) : (presented p).portals = p.portals := rfl
@[simp] theorem presented_mode (p : Dyn) : (presented p).mode = p.mode := rfl
@[simp] theorem presented_debt (p : Dyn) : (presented p).debt = p.debt := rfl
@[simp] theorem presented_pointer (p : Dyn) : (presented p).pointer = p.pointer := rfl
@[simp] theorem presented_progress (p : Dyn) : (presented p).progress = p.progress := rfl
@[simp] theorem presented_offer (p : Dyn) : (presented p).offer = p.offer := rfl
@[simp] theorem presented_pointerReset (p : Dyn) : (presented p).pointerReset = p.pointerReset := rfl
@[simp] theorem presented_refreshTimer (p : Dyn) : (presented p).refreshTimer = p.refreshTimer := rfl
@[simp] theorem presented_alarms (p : Dyn) : (presented p).alarms = p.alarms := rfl
@[simp] theorem presented_logBuffer (p : Dyn) : (presented p).logBuffer = p.logBuffer := rfl
@[simp] theorem presented_logWrite (p : Dyn) : (presented p).logWrite = p.logWrite := rfl
@[simp] theorem presented_logRead (p : Dyn) : (presented p).logRead = p.logRead := rfl
@[simp] theorem presented_logLost (p : Dyn) : (presented p).logLost = p.logLost := rfl
@[simp] theorem presented_slotMarks (p : Dyn) : (presented p).slotMarks = p.slotMarks := rfl
@[simp] theorem presented_gateMirrorMarks (p : Dyn) : (presented p).gateMirrorMarks = p.gateMirrorMarks := rfl
@[simp] theorem presented_reachMirrorMarks (p : Dyn) : (presented p).reachMirrorMarks = p.reachMirrorMarks := rfl
@[simp] theorem presented_summaryMark (p : Dyn) : (presented p).summaryMark = p.summaryMark := rfl
@[simp] theorem presented_portalJobs (p : Dyn) : (presented p).portalJobs = p.portalJobs := rfl
@[simp] theorem presented_running (p : Dyn) : (presented p).running = p.running := rfl
@[simp] theorem presented_hand (p : Dyn) : (presented p).hand = p.hand := rfl
@[simp] theorem presented_answer (p : Dyn) : (presented p).answer = none := rfl
@[simp] theorem presented_passKind (p : Dyn) : (presented p).passKind = p.passKind := rfl
@[simp] theorem presented_passFailed (p : Dyn) : (presented p).passFailed = p.passFailed := rfl
@[simp] theorem presented_powerOnUnfinished (p : Dyn) : (presented p).powerOnUnfinished = p.powerOnUnfinished := rfl
@[simp] theorem presented_tick (p : Dyn) : (presented p).tick = p.tick := rfl
@[simp] theorem presented_moment (p : Dyn) : (presented p).moment = p.moment + 1 := rfl

@[simp] theorem takeInHand_gates (t : Transaction) (p : Dyn) : (takeInHand t p).gates = p.gates := rfl
@[simp] theorem takeInHand_dams (t : Transaction) (p : Dyn) : (takeInHand t p).dams = p.dams := rfl
@[simp] theorem takeInHand_totals (t : Transaction) (p : Dyn) : (takeInHand t p).totals = p.totals := rfl
@[simp] theorem takeInHand_reaches (t : Transaction) (p : Dyn) : (takeInHand t p).reaches = p.reaches := rfl
@[simp] theorem takeInHand_statusWords (t : Transaction) (p : Dyn) : (takeInHand t p).statusWords = p.statusWords := rfl
@[simp] theorem takeInHand_queue (t : Transaction) (p : Dyn) : (takeInHand t p).queue = p.queue := rfl
@[simp] theorem takeInHand_portals (t : Transaction) (p : Dyn) : (takeInHand t p).portals = p.portals := rfl
@[simp] theorem takeInHand_mode (t : Transaction) (p : Dyn) : (takeInHand t p).mode = p.mode := rfl
@[simp] theorem takeInHand_debt (t : Transaction) (p : Dyn) : (takeInHand t p).debt = p.debt := rfl
@[simp] theorem takeInHand_pointer (t : Transaction) (p : Dyn) : (takeInHand t p).pointer = p.pointer := rfl
@[simp] theorem takeInHand_progress (t : Transaction) (p : Dyn) : (takeInHand t p).progress = p.progress := rfl
@[simp] theorem takeInHand_offer (t : Transaction) (p : Dyn) : (takeInHand t p).offer = p.offer := rfl
@[simp] theorem takeInHand_pointerReset (t : Transaction) (p : Dyn) : (takeInHand t p).pointerReset = p.pointerReset := rfl
@[simp] theorem takeInHand_refreshTimer (t : Transaction) (p : Dyn) : (takeInHand t p).refreshTimer = p.refreshTimer := rfl
@[simp] theorem takeInHand_alarms (t : Transaction) (p : Dyn) : (takeInHand t p).alarms = p.alarms := rfl
@[simp] theorem takeInHand_logBuffer (t : Transaction) (p : Dyn) : (takeInHand t p).logBuffer = p.logBuffer := rfl
@[simp] theorem takeInHand_logWrite (t : Transaction) (p : Dyn) : (takeInHand t p).logWrite = p.logWrite := rfl
@[simp] theorem takeInHand_logRead (t : Transaction) (p : Dyn) : (takeInHand t p).logRead = p.logRead := rfl
@[simp] theorem takeInHand_logLost (t : Transaction) (p : Dyn) : (takeInHand t p).logLost = p.logLost := rfl
@[simp] theorem takeInHand_slotMarks (t : Transaction) (p : Dyn) : (takeInHand t p).slotMarks = p.slotMarks := rfl
@[simp] theorem takeInHand_gateMirrorMarks (t : Transaction) (p : Dyn) : (takeInHand t p).gateMirrorMarks = p.gateMirrorMarks := rfl
@[simp] theorem takeInHand_reachMirrorMarks (t : Transaction) (p : Dyn) : (takeInHand t p).reachMirrorMarks = p.reachMirrorMarks := rfl
@[simp] theorem takeInHand_summaryMark (t : Transaction) (p : Dyn) : (takeInHand t p).summaryMark = p.summaryMark := rfl
@[simp] theorem takeInHand_portalJobs (t : Transaction) (p : Dyn) : (takeInHand t p).portalJobs = p.portalJobs := rfl
@[simp] theorem takeInHand_running (t : Transaction) (p : Dyn) : (takeInHand t p).running = p.running := rfl
@[simp] theorem takeInHand_hand (t : Transaction) (p : Dyn) : (takeInHand t p).hand = some t := rfl
@[simp] theorem takeInHand_answer (t : Transaction) (p : Dyn) : (takeInHand t p).answer = p.answer := rfl
@[simp] theorem takeInHand_passKind (t : Transaction) (p : Dyn) : (takeInHand t p).passKind = p.passKind := rfl
@[simp] theorem takeInHand_passFailed (t : Transaction) (p : Dyn) : (takeInHand t p).passFailed = p.passFailed := rfl
@[simp] theorem takeInHand_powerOnUnfinished (t : Transaction) (p : Dyn) : (takeInHand t p).powerOnUnfinished = p.powerOnUnfinished := rfl
@[simp] theorem takeInHand_tick (t : Transaction) (p : Dyn) : (takeInHand t p).tick = p.tick := rfl
@[simp] theorem takeInHand_moment (t : Transaction) (p : Dyn) : (takeInHand t p).moment = p.moment := rfl

@[simp] theorem answerWith_gates (m : MasterId) (r : BusResult) (p : Dyn) : (answerWith m r p).gates = p.gates := rfl
@[simp] theorem answerWith_dams (m : MasterId) (r : BusResult) (p : Dyn) : (answerWith m r p).dams = p.dams := rfl
@[simp] theorem answerWith_totals (m : MasterId) (r : BusResult) (p : Dyn) : (answerWith m r p).totals = p.totals := rfl
@[simp] theorem answerWith_reaches (m : MasterId) (r : BusResult) (p : Dyn) : (answerWith m r p).reaches = p.reaches := rfl
@[simp] theorem answerWith_statusWords (m : MasterId) (r : BusResult) (p : Dyn) : (answerWith m r p).statusWords = p.statusWords := rfl
@[simp] theorem answerWith_queue (m : MasterId) (r : BusResult) (p : Dyn) : (answerWith m r p).queue = p.queue := rfl
@[simp] theorem answerWith_portals (m : MasterId) (r : BusResult) (p : Dyn) : (answerWith m r p).portals = p.portals := rfl
@[simp] theorem answerWith_mode (m : MasterId) (r : BusResult) (p : Dyn) : (answerWith m r p).mode = p.mode := rfl
@[simp] theorem answerWith_debt (m : MasterId) (r : BusResult) (p : Dyn) : (answerWith m r p).debt = p.debt := rfl
@[simp] theorem answerWith_pointer (m : MasterId) (r : BusResult) (p : Dyn) : (answerWith m r p).pointer = p.pointer := rfl
@[simp] theorem answerWith_progress (m : MasterId) (r : BusResult) (p : Dyn) : (answerWith m r p).progress = p.progress := rfl
@[simp] theorem answerWith_offer (m : MasterId) (r : BusResult) (p : Dyn) : (answerWith m r p).offer = p.offer := rfl
@[simp] theorem answerWith_pointerReset (m : MasterId) (r : BusResult) (p : Dyn) : (answerWith m r p).pointerReset = p.pointerReset := rfl
@[simp] theorem answerWith_refreshTimer (m : MasterId) (r : BusResult) (p : Dyn) : (answerWith m r p).refreshTimer = p.refreshTimer := rfl
@[simp] theorem answerWith_alarms (m : MasterId) (r : BusResult) (p : Dyn) : (answerWith m r p).alarms = p.alarms := rfl
@[simp] theorem answerWith_logBuffer (m : MasterId) (r : BusResult) (p : Dyn) : (answerWith m r p).logBuffer = p.logBuffer := rfl
@[simp] theorem answerWith_logWrite (m : MasterId) (r : BusResult) (p : Dyn) : (answerWith m r p).logWrite = p.logWrite := rfl
@[simp] theorem answerWith_logRead (m : MasterId) (r : BusResult) (p : Dyn) : (answerWith m r p).logRead = p.logRead := rfl
@[simp] theorem answerWith_logLost (m : MasterId) (r : BusResult) (p : Dyn) : (answerWith m r p).logLost = p.logLost := rfl
@[simp] theorem answerWith_slotMarks (m : MasterId) (r : BusResult) (p : Dyn) : (answerWith m r p).slotMarks = p.slotMarks := rfl
@[simp] theorem answerWith_gateMirrorMarks (m : MasterId) (r : BusResult) (p : Dyn) : (answerWith m r p).gateMirrorMarks = p.gateMirrorMarks := rfl
@[simp] theorem answerWith_reachMirrorMarks (m : MasterId) (r : BusResult) (p : Dyn) : (answerWith m r p).reachMirrorMarks = p.reachMirrorMarks := rfl
@[simp] theorem answerWith_summaryMark (m : MasterId) (r : BusResult) (p : Dyn) : (answerWith m r p).summaryMark = p.summaryMark := rfl
@[simp] theorem answerWith_portalJobs (m : MasterId) (r : BusResult) (p : Dyn) : (answerWith m r p).portalJobs = p.portalJobs := rfl
@[simp] theorem answerWith_running (m : MasterId) (r : BusResult) (p : Dyn) : (answerWith m r p).running = p.running := rfl
@[simp] theorem answerWith_hand (m : MasterId) (r : BusResult) (p : Dyn) : (answerWith m r p).hand = none := rfl
@[simp] theorem answerWith_answer (m : MasterId) (r : BusResult) (p : Dyn) : (answerWith m r p).answer = some ⟨m, r⟩ := rfl
@[simp] theorem answerWith_passKind (m : MasterId) (r : BusResult) (p : Dyn) : (answerWith m r p).passKind = p.passKind := rfl
@[simp] theorem answerWith_passFailed (m : MasterId) (r : BusResult) (p : Dyn) : (answerWith m r p).passFailed = p.passFailed := rfl
@[simp] theorem answerWith_powerOnUnfinished (m : MasterId) (r : BusResult) (p : Dyn) : (answerWith m r p).powerOnUnfinished = p.powerOnUnfinished := rfl
@[simp] theorem answerWith_tick (m : MasterId) (r : BusResult) (p : Dyn) : (answerWith m r p).tick = p.tick := rfl
@[simp] theorem answerWith_moment (m : MasterId) (r : BusResult) (p : Dyn) : (answerWith m r p).moment = p.moment := rfl

@[simp] theorem begin_gates (c : Tables) (j : Job) (p : Dyn) : (begin c j p).gates = p.gates := rfl
@[simp] theorem begin_dams (c : Tables) (j : Job) (p : Dyn) : (begin c j p).dams = p.dams := rfl
@[simp] theorem begin_totals (c : Tables) (j : Job) (p : Dyn) : (begin c j p).totals = p.totals := rfl
@[simp] theorem begin_reaches (c : Tables) (j : Job) (p : Dyn) : (begin c j p).reaches = p.reaches := rfl
@[simp] theorem begin_statusWords (c : Tables) (j : Job) (p : Dyn) : (begin c j p).statusWords = p.statusWords := rfl
@[simp] theorem begin_queue (c : Tables) (j : Job) (p : Dyn) : (begin c j p).queue = p.queue := rfl
@[simp] theorem begin_portals (c : Tables) (j : Job) (p : Dyn) : (begin c j p).portals = p.portals := rfl
@[simp] theorem begin_mode (c : Tables) (j : Job) (p : Dyn) : (begin c j p).mode = p.mode := rfl
@[simp] theorem begin_debt (c : Tables) (j : Job) (p : Dyn) : (begin c j p).debt = p.debt := rfl
@[simp] theorem begin_pointer (c : Tables) (j : Job) (p : Dyn) : (begin c j p).pointer = p.pointer := rfl
@[simp] theorem begin_progress (c : Tables) (j : Job) (p : Dyn) : (begin c j p).progress = p.progress := rfl
@[simp] theorem begin_offer (c : Tables) (j : Job) (p : Dyn) : (begin c j p).offer = p.offer := rfl
@[simp] theorem begin_pointerReset (c : Tables) (j : Job) (p : Dyn) : (begin c j p).pointerReset = p.pointerReset := rfl
@[simp] theorem begin_refreshTimer (c : Tables) (j : Job) (p : Dyn) : (begin c j p).refreshTimer = p.refreshTimer := rfl
@[simp] theorem begin_alarms (c : Tables) (j : Job) (p : Dyn) : (begin c j p).alarms = p.alarms := rfl
@[simp] theorem begin_logBuffer (c : Tables) (j : Job) (p : Dyn) : (begin c j p).logBuffer = p.logBuffer := rfl
@[simp] theorem begin_logWrite (c : Tables) (j : Job) (p : Dyn) : (begin c j p).logWrite = p.logWrite := rfl
@[simp] theorem begin_logRead (c : Tables) (j : Job) (p : Dyn) : (begin c j p).logRead = p.logRead := rfl
@[simp] theorem begin_logLost (c : Tables) (j : Job) (p : Dyn) : (begin c j p).logLost = p.logLost := rfl
@[simp] theorem begin_slotMarks (c : Tables) (j : Job) (p : Dyn) : (begin c j p).slotMarks = p.slotMarks := rfl
@[simp] theorem begin_gateMirrorMarks (c : Tables) (j : Job) (p : Dyn) : (begin c j p).gateMirrorMarks = p.gateMirrorMarks := rfl
@[simp] theorem begin_reachMirrorMarks (c : Tables) (j : Job) (p : Dyn) : (begin c j p).reachMirrorMarks = p.reachMirrorMarks := rfl
@[simp] theorem begin_summaryMark (c : Tables) (j : Job) (p : Dyn) : (begin c j p).summaryMark = p.summaryMark := rfl
@[simp] theorem begin_portalJobs (c : Tables) (j : Job) (p : Dyn) : (begin c j p).portalJobs = p.portalJobs := rfl
@[simp] theorem begin_running (c : Tables) (j : Job) (p : Dyn) : (begin c j p).running = some ⟨j, accessOf c p j⟩ := rfl
@[simp] theorem begin_hand (c : Tables) (j : Job) (p : Dyn) : (begin c j p).hand = p.hand := rfl
@[simp] theorem begin_answer (c : Tables) (j : Job) (p : Dyn) : (begin c j p).answer = p.answer := rfl
@[simp] theorem begin_passKind (c : Tables) (j : Job) (p : Dyn) : (begin c j p).passKind = p.passKind := rfl
@[simp] theorem begin_passFailed (c : Tables) (j : Job) (p : Dyn) : (begin c j p).passFailed = p.passFailed := rfl
@[simp] theorem begin_powerOnUnfinished (c : Tables) (j : Job) (p : Dyn) : (begin c j p).powerOnUnfinished = p.powerOnUnfinished := rfl
@[simp] theorem begin_tick (c : Tables) (j : Job) (p : Dyn) : (begin c j p).tick = p.tick := rfl
@[simp] theorem begin_moment (c : Tables) (j : Job) (p : Dyn) : (begin c j p).moment = p.moment := rfl

@[simp] theorem queuePortalJob_gates (j : PortalJob) (p : Dyn) : (queuePortalJob j p).gates = p.gates := rfl
@[simp] theorem queuePortalJob_dams (j : PortalJob) (p : Dyn) : (queuePortalJob j p).dams = p.dams := rfl
@[simp] theorem queuePortalJob_totals (j : PortalJob) (p : Dyn) : (queuePortalJob j p).totals = p.totals := rfl
@[simp] theorem queuePortalJob_reaches (j : PortalJob) (p : Dyn) : (queuePortalJob j p).reaches = p.reaches := rfl
@[simp] theorem queuePortalJob_statusWords (j : PortalJob) (p : Dyn) : (queuePortalJob j p).statusWords = p.statusWords := rfl
@[simp] theorem queuePortalJob_queue (j : PortalJob) (p : Dyn) : (queuePortalJob j p).queue = p.queue := rfl
@[simp] theorem queuePortalJob_portals (j : PortalJob) (p : Dyn) : (queuePortalJob j p).portals = p.portals := rfl
@[simp] theorem queuePortalJob_mode (j : PortalJob) (p : Dyn) : (queuePortalJob j p).mode = p.mode := rfl
@[simp] theorem queuePortalJob_debt (j : PortalJob) (p : Dyn) : (queuePortalJob j p).debt = p.debt := rfl
@[simp] theorem queuePortalJob_pointer (j : PortalJob) (p : Dyn) : (queuePortalJob j p).pointer = p.pointer := rfl
@[simp] theorem queuePortalJob_progress (j : PortalJob) (p : Dyn) : (queuePortalJob j p).progress = p.progress := rfl
@[simp] theorem queuePortalJob_offer (j : PortalJob) (p : Dyn) : (queuePortalJob j p).offer = p.offer := rfl
@[simp] theorem queuePortalJob_pointerReset (j : PortalJob) (p : Dyn) : (queuePortalJob j p).pointerReset = p.pointerReset := rfl
@[simp] theorem queuePortalJob_refreshTimer (j : PortalJob) (p : Dyn) : (queuePortalJob j p).refreshTimer = p.refreshTimer := rfl
@[simp] theorem queuePortalJob_alarms (j : PortalJob) (p : Dyn) : (queuePortalJob j p).alarms = p.alarms := rfl
@[simp] theorem queuePortalJob_logBuffer (j : PortalJob) (p : Dyn) : (queuePortalJob j p).logBuffer = p.logBuffer := rfl
@[simp] theorem queuePortalJob_logWrite (j : PortalJob) (p : Dyn) : (queuePortalJob j p).logWrite = p.logWrite := rfl
@[simp] theorem queuePortalJob_logRead (j : PortalJob) (p : Dyn) : (queuePortalJob j p).logRead = p.logRead := rfl
@[simp] theorem queuePortalJob_logLost (j : PortalJob) (p : Dyn) : (queuePortalJob j p).logLost = p.logLost := rfl
@[simp] theorem queuePortalJob_slotMarks (j : PortalJob) (p : Dyn) : (queuePortalJob j p).slotMarks = p.slotMarks := rfl
@[simp] theorem queuePortalJob_gateMirrorMarks (j : PortalJob) (p : Dyn) : (queuePortalJob j p).gateMirrorMarks = p.gateMirrorMarks := rfl
@[simp] theorem queuePortalJob_reachMirrorMarks (j : PortalJob) (p : Dyn) : (queuePortalJob j p).reachMirrorMarks = p.reachMirrorMarks := rfl
@[simp] theorem queuePortalJob_summaryMark (j : PortalJob) (p : Dyn) : (queuePortalJob j p).summaryMark = p.summaryMark := rfl
@[simp] theorem queuePortalJob_portalJobs (j : PortalJob) (p : Dyn) : (queuePortalJob j p).portalJobs = p.portalJobs ++ [j] := rfl
@[simp] theorem queuePortalJob_running (j : PortalJob) (p : Dyn) : (queuePortalJob j p).running = p.running := rfl
@[simp] theorem queuePortalJob_hand (j : PortalJob) (p : Dyn) : (queuePortalJob j p).hand = p.hand := rfl
@[simp] theorem queuePortalJob_answer (j : PortalJob) (p : Dyn) : (queuePortalJob j p).answer = p.answer := rfl
@[simp] theorem queuePortalJob_passKind (j : PortalJob) (p : Dyn) : (queuePortalJob j p).passKind = p.passKind := rfl
@[simp] theorem queuePortalJob_passFailed (j : PortalJob) (p : Dyn) : (queuePortalJob j p).passFailed = p.passFailed := rfl
@[simp] theorem queuePortalJob_powerOnUnfinished (j : PortalJob) (p : Dyn) : (queuePortalJob j p).powerOnUnfinished = p.powerOnUnfinished := rfl
@[simp] theorem queuePortalJob_tick (j : PortalJob) (p : Dyn) : (queuePortalJob j p).tick = p.tick := rfl
@[simp] theorem queuePortalJob_moment (j : PortalJob) (p : Dyn) : (queuePortalJob j p).moment = p.moment := rfl

@[simp] theorem setLogLost_gates (p : Dyn) : (setLogLost p).gates = p.gates := by
  simp only [setLogLost]; (repeat' split) <;> rfl
@[simp] theorem setLogLost_dams (p : Dyn) : (setLogLost p).dams = p.dams := by
  simp only [setLogLost]; (repeat' split) <;> rfl
@[simp] theorem setLogLost_totals (p : Dyn) : (setLogLost p).totals = p.totals := by
  simp only [setLogLost]; (repeat' split) <;> rfl
@[simp] theorem setLogLost_reaches (p : Dyn) : (setLogLost p).reaches = p.reaches := by
  simp only [setLogLost]; (repeat' split) <;> rfl
@[simp] theorem setLogLost_statusWords (p : Dyn) : (setLogLost p).statusWords = p.statusWords := by
  simp only [setLogLost]; (repeat' split) <;> rfl
@[simp] theorem setLogLost_queue (p : Dyn) : (setLogLost p).queue = p.queue := by
  simp only [setLogLost]; (repeat' split) <;> rfl
@[simp] theorem setLogLost_portals (p : Dyn) : (setLogLost p).portals = p.portals := by
  simp only [setLogLost]; (repeat' split) <;> rfl
@[simp] theorem setLogLost_mode (p : Dyn) : (setLogLost p).mode = p.mode := by
  simp only [setLogLost]; (repeat' split) <;> rfl
@[simp] theorem setLogLost_debt (p : Dyn) : (setLogLost p).debt = p.debt := by
  simp only [setLogLost]; (repeat' split) <;> rfl
@[simp] theorem setLogLost_pointer (p : Dyn) : (setLogLost p).pointer = p.pointer := by
  simp only [setLogLost]; (repeat' split) <;> rfl
@[simp] theorem setLogLost_progress (p : Dyn) : (setLogLost p).progress = p.progress := by
  simp only [setLogLost]; (repeat' split) <;> rfl
@[simp] theorem setLogLost_offer (p : Dyn) : (setLogLost p).offer = p.offer := by
  simp only [setLogLost]; (repeat' split) <;> rfl
@[simp] theorem setLogLost_pointerReset (p : Dyn) : (setLogLost p).pointerReset = p.pointerReset := by
  simp only [setLogLost]; (repeat' split) <;> rfl
@[simp] theorem setLogLost_refreshTimer (p : Dyn) : (setLogLost p).refreshTimer = p.refreshTimer := by
  simp only [setLogLost]; (repeat' split) <;> rfl
@[simp] theorem setLogLost_alarms (p : Dyn) : (setLogLost p).alarms = p.alarms := by
  simp only [setLogLost]; (repeat' split) <;> rfl
@[simp] theorem setLogLost_logBuffer (p : Dyn) : (setLogLost p).logBuffer = p.logBuffer := by
  simp only [setLogLost]; (repeat' split) <;> rfl
@[simp] theorem setLogLost_logWrite (p : Dyn) : (setLogLost p).logWrite = p.logWrite := by
  simp only [setLogLost]; (repeat' split) <;> rfl
@[simp] theorem setLogLost_logRead (p : Dyn) : (setLogLost p).logRead = p.logRead := by
  simp only [setLogLost]; (repeat' split) <;> rfl
@[simp] theorem setLogLost_slotMarks (p : Dyn) : (setLogLost p).slotMarks = p.slotMarks := by
  simp only [setLogLost]; (repeat' split) <;> rfl
@[simp] theorem setLogLost_gateMirrorMarks (p : Dyn) : (setLogLost p).gateMirrorMarks = p.gateMirrorMarks := by
  simp only [setLogLost]; (repeat' split) <;> rfl
@[simp] theorem setLogLost_reachMirrorMarks (p : Dyn) : (setLogLost p).reachMirrorMarks = p.reachMirrorMarks := by
  simp only [setLogLost]; (repeat' split) <;> rfl
@[simp] theorem setLogLost_portalJobs (p : Dyn) : (setLogLost p).portalJobs = p.portalJobs := by
  simp only [setLogLost]; (repeat' split) <;> rfl
@[simp] theorem setLogLost_running (p : Dyn) : (setLogLost p).running = p.running := by
  simp only [setLogLost]; (repeat' split) <;> rfl
@[simp] theorem setLogLost_hand (p : Dyn) : (setLogLost p).hand = p.hand := by
  simp only [setLogLost]; (repeat' split) <;> rfl
@[simp] theorem setLogLost_answer (p : Dyn) : (setLogLost p).answer = p.answer := by
  simp only [setLogLost]; (repeat' split) <;> rfl
@[simp] theorem setLogLost_passKind (p : Dyn) : (setLogLost p).passKind = p.passKind := by
  simp only [setLogLost]; (repeat' split) <;> rfl
@[simp] theorem setLogLost_passFailed (p : Dyn) : (setLogLost p).passFailed = p.passFailed := by
  simp only [setLogLost]; (repeat' split) <;> rfl
@[simp] theorem setLogLost_powerOnUnfinished (p : Dyn) : (setLogLost p).powerOnUnfinished = p.powerOnUnfinished := by
  simp only [setLogLost]; (repeat' split) <;> rfl
@[simp] theorem setLogLost_tick (p : Dyn) : (setLogLost p).tick = p.tick := by
  simp only [setLogLost]; (repeat' split) <;> rfl
@[simp] theorem setLogLost_moment (p : Dyn) : (setLogLost p).moment = p.moment := by
  simp only [setLogLost]; (repeat' split) <;> rfl

@[simp] theorem clearLogLost_gates (p : Dyn) : (clearLogLost p).gates = p.gates := by
  simp only [clearLogLost]; (repeat' split) <;> rfl
@[simp] theorem clearLogLost_dams (p : Dyn) : (clearLogLost p).dams = p.dams := by
  simp only [clearLogLost]; (repeat' split) <;> rfl
@[simp] theorem clearLogLost_totals (p : Dyn) : (clearLogLost p).totals = p.totals := by
  simp only [clearLogLost]; (repeat' split) <;> rfl
@[simp] theorem clearLogLost_reaches (p : Dyn) : (clearLogLost p).reaches = p.reaches := by
  simp only [clearLogLost]; (repeat' split) <;> rfl
@[simp] theorem clearLogLost_statusWords (p : Dyn) : (clearLogLost p).statusWords = p.statusWords := by
  simp only [clearLogLost]; (repeat' split) <;> rfl
@[simp] theorem clearLogLost_queue (p : Dyn) : (clearLogLost p).queue = p.queue := by
  simp only [clearLogLost]; (repeat' split) <;> rfl
@[simp] theorem clearLogLost_portals (p : Dyn) : (clearLogLost p).portals = p.portals := by
  simp only [clearLogLost]; (repeat' split) <;> rfl
@[simp] theorem clearLogLost_mode (p : Dyn) : (clearLogLost p).mode = p.mode := by
  simp only [clearLogLost]; (repeat' split) <;> rfl
@[simp] theorem clearLogLost_debt (p : Dyn) : (clearLogLost p).debt = p.debt := by
  simp only [clearLogLost]; (repeat' split) <;> rfl
@[simp] theorem clearLogLost_pointer (p : Dyn) : (clearLogLost p).pointer = p.pointer := by
  simp only [clearLogLost]; (repeat' split) <;> rfl
@[simp] theorem clearLogLost_progress (p : Dyn) : (clearLogLost p).progress = p.progress := by
  simp only [clearLogLost]; (repeat' split) <;> rfl
@[simp] theorem clearLogLost_offer (p : Dyn) : (clearLogLost p).offer = p.offer := by
  simp only [clearLogLost]; (repeat' split) <;> rfl
@[simp] theorem clearLogLost_pointerReset (p : Dyn) : (clearLogLost p).pointerReset = p.pointerReset := by
  simp only [clearLogLost]; (repeat' split) <;> rfl
@[simp] theorem clearLogLost_refreshTimer (p : Dyn) : (clearLogLost p).refreshTimer = p.refreshTimer := by
  simp only [clearLogLost]; (repeat' split) <;> rfl
@[simp] theorem clearLogLost_alarms (p : Dyn) : (clearLogLost p).alarms = p.alarms := by
  simp only [clearLogLost]; (repeat' split) <;> rfl
@[simp] theorem clearLogLost_logBuffer (p : Dyn) : (clearLogLost p).logBuffer = p.logBuffer := by
  simp only [clearLogLost]; (repeat' split) <;> rfl
@[simp] theorem clearLogLost_logWrite (p : Dyn) : (clearLogLost p).logWrite = p.logWrite := by
  simp only [clearLogLost]; (repeat' split) <;> rfl
@[simp] theorem clearLogLost_logRead (p : Dyn) : (clearLogLost p).logRead = p.logRead := by
  simp only [clearLogLost]; (repeat' split) <;> rfl
@[simp] theorem clearLogLost_slotMarks (p : Dyn) : (clearLogLost p).slotMarks = p.slotMarks := by
  simp only [clearLogLost]; (repeat' split) <;> rfl
@[simp] theorem clearLogLost_gateMirrorMarks (p : Dyn) : (clearLogLost p).gateMirrorMarks = p.gateMirrorMarks := by
  simp only [clearLogLost]; (repeat' split) <;> rfl
@[simp] theorem clearLogLost_reachMirrorMarks (p : Dyn) : (clearLogLost p).reachMirrorMarks = p.reachMirrorMarks := by
  simp only [clearLogLost]; (repeat' split) <;> rfl
@[simp] theorem clearLogLost_portalJobs (p : Dyn) : (clearLogLost p).portalJobs = p.portalJobs := by
  simp only [clearLogLost]; (repeat' split) <;> rfl
@[simp] theorem clearLogLost_running (p : Dyn) : (clearLogLost p).running = p.running := by
  simp only [clearLogLost]; (repeat' split) <;> rfl
@[simp] theorem clearLogLost_hand (p : Dyn) : (clearLogLost p).hand = p.hand := by
  simp only [clearLogLost]; (repeat' split) <;> rfl
@[simp] theorem clearLogLost_answer (p : Dyn) : (clearLogLost p).answer = p.answer := by
  simp only [clearLogLost]; (repeat' split) <;> rfl
@[simp] theorem clearLogLost_passKind (p : Dyn) : (clearLogLost p).passKind = p.passKind := by
  simp only [clearLogLost]; (repeat' split) <;> rfl
@[simp] theorem clearLogLost_passFailed (p : Dyn) : (clearLogLost p).passFailed = p.passFailed := by
  simp only [clearLogLost]; (repeat' split) <;> rfl
@[simp] theorem clearLogLost_powerOnUnfinished (p : Dyn) : (clearLogLost p).powerOnUnfinished = p.powerOnUnfinished := by
  simp only [clearLogLost]; (repeat' split) <;> rfl
@[simp] theorem clearLogLost_tick (p : Dyn) : (clearLogLost p).tick = p.tick := by
  simp only [clearLogLost]; (repeat' split) <;> rfl
@[simp] theorem clearLogLost_moment (p : Dyn) : (clearLogLost p).moment = p.moment := by
  simp only [clearLogLost]; (repeat' split) <;> rfl

@[simp] theorem putGate_dams (g : GateId) (x : Gate) (p : Dyn) : (putGate g x p).dams = p.dams := by
  simp only [putGate]; (repeat' split) <;> rfl
@[simp] theorem putGate_totals (g : GateId) (x : Gate) (p : Dyn) : (putGate g x p).totals = p.totals := by
  simp only [putGate]; (repeat' split) <;> rfl
@[simp] theorem putGate_reaches (g : GateId) (x : Gate) (p : Dyn) : (putGate g x p).reaches = p.reaches := by
  simp only [putGate]; (repeat' split) <;> rfl
@[simp] theorem putGate_statusWords (g : GateId) (x : Gate) (p : Dyn) : (putGate g x p).statusWords = p.statusWords := by
  simp only [putGate]; (repeat' split) <;> rfl
@[simp] theorem putGate_portals (g : GateId) (x : Gate) (p : Dyn) : (putGate g x p).portals = p.portals := by
  simp only [putGate]; (repeat' split) <;> rfl
@[simp] theorem putGate_mode (g : GateId) (x : Gate) (p : Dyn) : (putGate g x p).mode = p.mode := by
  simp only [putGate]; (repeat' split) <;> rfl
@[simp] theorem putGate_debt (g : GateId) (x : Gate) (p : Dyn) : (putGate g x p).debt = p.debt := by
  simp only [putGate]; (repeat' split) <;> rfl
@[simp] theorem putGate_pointer (g : GateId) (x : Gate) (p : Dyn) : (putGate g x p).pointer = p.pointer := by
  simp only [putGate]; (repeat' split) <;> rfl
@[simp] theorem putGate_progress (g : GateId) (x : Gate) (p : Dyn) : (putGate g x p).progress = p.progress := by
  simp only [putGate]; (repeat' split) <;> rfl
@[simp] theorem putGate_offer (g : GateId) (x : Gate) (p : Dyn) : (putGate g x p).offer = p.offer := by
  simp only [putGate]; (repeat' split) <;> rfl
@[simp] theorem putGate_pointerReset (g : GateId) (x : Gate) (p : Dyn) : (putGate g x p).pointerReset = p.pointerReset := by
  simp only [putGate]; (repeat' split) <;> rfl
@[simp] theorem putGate_refreshTimer (g : GateId) (x : Gate) (p : Dyn) : (putGate g x p).refreshTimer = p.refreshTimer := by
  simp only [putGate]; (repeat' split) <;> rfl
@[simp] theorem putGate_alarms (g : GateId) (x : Gate) (p : Dyn) : (putGate g x p).alarms = p.alarms := by
  simp only [putGate]; (repeat' split) <;> rfl
@[simp] theorem putGate_logBuffer (g : GateId) (x : Gate) (p : Dyn) : (putGate g x p).logBuffer = p.logBuffer := by
  simp only [putGate]; (repeat' split) <;> rfl
@[simp] theorem putGate_logWrite (g : GateId) (x : Gate) (p : Dyn) : (putGate g x p).logWrite = p.logWrite := by
  simp only [putGate]; (repeat' split) <;> rfl
@[simp] theorem putGate_logRead (g : GateId) (x : Gate) (p : Dyn) : (putGate g x p).logRead = p.logRead := by
  simp only [putGate]; (repeat' split) <;> rfl
@[simp] theorem putGate_logLost (g : GateId) (x : Gate) (p : Dyn) : (putGate g x p).logLost = p.logLost := by
  simp only [putGate]; (repeat' split) <;> rfl
@[simp] theorem putGate_reachMirrorMarks (g : GateId) (x : Gate) (p : Dyn) : (putGate g x p).reachMirrorMarks = p.reachMirrorMarks := by
  simp only [putGate]; (repeat' split) <;> rfl
@[simp] theorem putGate_summaryMark (g : GateId) (x : Gate) (p : Dyn) : (putGate g x p).summaryMark = p.summaryMark := by
  simp only [putGate]; (repeat' split) <;> rfl
@[simp] theorem putGate_portalJobs (g : GateId) (x : Gate) (p : Dyn) : (putGate g x p).portalJobs = p.portalJobs := by
  simp only [putGate]; (repeat' split) <;> rfl
@[simp] theorem putGate_running (g : GateId) (x : Gate) (p : Dyn) : (putGate g x p).running = p.running := by
  simp only [putGate]; (repeat' split) <;> rfl
@[simp] theorem putGate_hand (g : GateId) (x : Gate) (p : Dyn) : (putGate g x p).hand = p.hand := by
  simp only [putGate]; (repeat' split) <;> rfl
@[simp] theorem putGate_answer (g : GateId) (x : Gate) (p : Dyn) : (putGate g x p).answer = p.answer := by
  simp only [putGate]; (repeat' split) <;> rfl
@[simp] theorem putGate_passKind (g : GateId) (x : Gate) (p : Dyn) : (putGate g x p).passKind = p.passKind := by
  simp only [putGate]; (repeat' split) <;> rfl
@[simp] theorem putGate_passFailed (g : GateId) (x : Gate) (p : Dyn) : (putGate g x p).passFailed = p.passFailed := by
  simp only [putGate]; (repeat' split) <;> rfl
@[simp] theorem putGate_powerOnUnfinished (g : GateId) (x : Gate) (p : Dyn) : (putGate g x p).powerOnUnfinished = p.powerOnUnfinished := by
  simp only [putGate]; (repeat' split) <;> rfl
@[simp] theorem putGate_tick (g : GateId) (x : Gate) (p : Dyn) : (putGate g x p).tick = p.tick := by
  simp only [putGate]; (repeat' split) <;> rfl
@[simp] theorem putGate_moment (g : GateId) (x : Gate) (p : Dyn) : (putGate g x p).moment = p.moment := by
  simp only [putGate]; (repeat' split) <;> rfl

@[simp] theorem uncredit_gates (p : Dyn) : (uncredit p).gates = p.gates := by
  simp only [uncredit]; (repeat' split) <;> rfl
@[simp] theorem uncredit_dams (p : Dyn) : (uncredit p).dams = p.dams := by
  simp only [uncredit]; (repeat' split) <;> rfl
@[simp] theorem uncredit_totals (p : Dyn) : (uncredit p).totals = p.totals := by
  simp only [uncredit]; (repeat' split) <;> rfl
@[simp] theorem uncredit_reaches (p : Dyn) : (uncredit p).reaches = p.reaches := by
  simp only [uncredit]; (repeat' split) <;> rfl
@[simp] theorem uncredit_statusWords (p : Dyn) : (uncredit p).statusWords = p.statusWords := by
  simp only [uncredit]; (repeat' split) <;> rfl
@[simp] theorem uncredit_queue (p : Dyn) : (uncredit p).queue = p.queue := by
  simp only [uncredit]; (repeat' split) <;> rfl
@[simp] theorem uncredit_portals (p : Dyn) : (uncredit p).portals = p.portals := by
  simp only [uncredit]; (repeat' split) <;> rfl
@[simp] theorem uncredit_mode (p : Dyn) : (uncredit p).mode = p.mode := by
  simp only [uncredit]; (repeat' split) <;> rfl
@[simp] theorem uncredit_debt (p : Dyn) : (uncredit p).debt = p.debt := by
  simp only [uncredit]; (repeat' split) <;> rfl
@[simp] theorem uncredit_pointer (p : Dyn) : (uncredit p).pointer = p.pointer := by
  simp only [uncredit]; (repeat' split) <;> rfl
@[simp] theorem uncredit_progress (p : Dyn) : (uncredit p).progress = p.progress := by
  simp only [uncredit]; (repeat' split) <;> rfl
@[simp] theorem uncredit_offer (p : Dyn) : (uncredit p).offer = p.offer := by
  simp only [uncredit]; (repeat' split) <;> rfl
@[simp] theorem uncredit_pointerReset (p : Dyn) : (uncredit p).pointerReset = p.pointerReset := by
  simp only [uncredit]; (repeat' split) <;> rfl
@[simp] theorem uncredit_refreshTimer (p : Dyn) : (uncredit p).refreshTimer = p.refreshTimer := by
  simp only [uncredit]; (repeat' split) <;> rfl
@[simp] theorem uncredit_alarms (p : Dyn) : (uncredit p).alarms = p.alarms := by
  simp only [uncredit]; (repeat' split) <;> rfl
@[simp] theorem uncredit_logBuffer (p : Dyn) : (uncredit p).logBuffer = p.logBuffer := by
  simp only [uncredit]; (repeat' split) <;> rfl
@[simp] theorem uncredit_logWrite (p : Dyn) : (uncredit p).logWrite = p.logWrite := by
  simp only [uncredit]; (repeat' split) <;> rfl
@[simp] theorem uncredit_logRead (p : Dyn) : (uncredit p).logRead = p.logRead := by
  simp only [uncredit]; (repeat' split) <;> rfl
@[simp] theorem uncredit_logLost (p : Dyn) : (uncredit p).logLost = p.logLost := by
  simp only [uncredit]; (repeat' split) <;> rfl
@[simp] theorem uncredit_slotMarks (p : Dyn) : (uncredit p).slotMarks = p.slotMarks := by
  simp only [uncredit]; (repeat' split) <;> rfl
@[simp] theorem uncredit_gateMirrorMarks (p : Dyn) : (uncredit p).gateMirrorMarks = p.gateMirrorMarks := by
  simp only [uncredit]; (repeat' split) <;> rfl
@[simp] theorem uncredit_reachMirrorMarks (p : Dyn) : (uncredit p).reachMirrorMarks = p.reachMirrorMarks := by
  simp only [uncredit]; (repeat' split) <;> rfl
@[simp] theorem uncredit_summaryMark (p : Dyn) : (uncredit p).summaryMark = p.summaryMark := by
  simp only [uncredit]; (repeat' split) <;> rfl
@[simp] theorem uncredit_portalJobs (p : Dyn) : (uncredit p).portalJobs = p.portalJobs := by
  simp only [uncredit]; (repeat' split) <;> rfl
@[simp] theorem uncredit_hand (p : Dyn) : (uncredit p).hand = p.hand := by
  simp only [uncredit]; (repeat' split) <;> rfl
@[simp] theorem uncredit_answer (p : Dyn) : (uncredit p).answer = p.answer := by
  simp only [uncredit]; (repeat' split) <;> rfl
@[simp] theorem uncredit_passKind (p : Dyn) : (uncredit p).passKind = p.passKind := by
  simp only [uncredit]; (repeat' split) <;> rfl
@[simp] theorem uncredit_passFailed (p : Dyn) : (uncredit p).passFailed = p.passFailed := by
  simp only [uncredit]; (repeat' split) <;> rfl
@[simp] theorem uncredit_powerOnUnfinished (p : Dyn) : (uncredit p).powerOnUnfinished = p.powerOnUnfinished := by
  simp only [uncredit]; (repeat' split) <;> rfl
@[simp] theorem uncredit_tick (p : Dyn) : (uncredit p).tick = p.tick := by
  simp only [uncredit]; (repeat' split) <;> rfl
@[simp] theorem uncredit_moment (p : Dyn) : (uncredit p).moment = p.moment := by
  simp only [uncredit]; (repeat' split) <;> rfl

@[simp] theorem offerRun_gates (p : Dyn) : (offerRun p).gates = p.gates := by
  simp only [offerRun]; (repeat' split) <;> rfl
@[simp] theorem offerRun_dams (p : Dyn) : (offerRun p).dams = p.dams := by
  simp only [offerRun]; (repeat' split) <;> rfl
@[simp] theorem offerRun_totals (p : Dyn) : (offerRun p).totals = p.totals := by
  simp only [offerRun]; (repeat' split) <;> rfl
@[simp] theorem offerRun_reaches (p : Dyn) : (offerRun p).reaches = p.reaches := by
  simp only [offerRun]; (repeat' split) <;> rfl
@[simp] theorem offerRun_statusWords (p : Dyn) : (offerRun p).statusWords = p.statusWords := by
  simp only [offerRun]; (repeat' split) <;> rfl
@[simp] theorem offerRun_queue (p : Dyn) : (offerRun p).queue = p.queue := by
  simp only [offerRun]; (repeat' split) <;> rfl
@[simp] theorem offerRun_portals (p : Dyn) : (offerRun p).portals = p.portals := by
  simp only [offerRun]; (repeat' split) <;> rfl
@[simp] theorem offerRun_mode (p : Dyn) : (offerRun p).mode = p.mode := by
  simp only [offerRun]; (repeat' split) <;> rfl
@[simp] theorem offerRun_debt (p : Dyn) : (offerRun p).debt = p.debt := by
  simp only [offerRun]; (repeat' split) <;> rfl
@[simp] theorem offerRun_pointer (p : Dyn) : (offerRun p).pointer = p.pointer := by
  simp only [offerRun]; (repeat' split) <;> rfl
@[simp] theorem offerRun_progress (p : Dyn) : (offerRun p).progress = p.progress := by
  simp only [offerRun]; (repeat' split) <;> rfl
@[simp] theorem offerRun_pointerReset (p : Dyn) : (offerRun p).pointerReset = p.pointerReset := by
  simp only [offerRun]; (repeat' split) <;> rfl
@[simp] theorem offerRun_refreshTimer (p : Dyn) : (offerRun p).refreshTimer = p.refreshTimer := by
  simp only [offerRun]; (repeat' split) <;> rfl
@[simp] theorem offerRun_alarms (p : Dyn) : (offerRun p).alarms = p.alarms := by
  simp only [offerRun]; (repeat' split) <;> rfl
@[simp] theorem offerRun_logBuffer (p : Dyn) : (offerRun p).logBuffer = p.logBuffer := by
  simp only [offerRun]; (repeat' split) <;> rfl
@[simp] theorem offerRun_logWrite (p : Dyn) : (offerRun p).logWrite = p.logWrite := by
  simp only [offerRun]; (repeat' split) <;> rfl
@[simp] theorem offerRun_logRead (p : Dyn) : (offerRun p).logRead = p.logRead := by
  simp only [offerRun]; (repeat' split) <;> rfl
@[simp] theorem offerRun_logLost (p : Dyn) : (offerRun p).logLost = p.logLost := by
  simp only [offerRun]; (repeat' split) <;> rfl
@[simp] theorem offerRun_slotMarks (p : Dyn) : (offerRun p).slotMarks = p.slotMarks := by
  simp only [offerRun]; (repeat' split) <;> rfl
@[simp] theorem offerRun_gateMirrorMarks (p : Dyn) : (offerRun p).gateMirrorMarks = p.gateMirrorMarks := by
  simp only [offerRun]; (repeat' split) <;> rfl
@[simp] theorem offerRun_reachMirrorMarks (p : Dyn) : (offerRun p).reachMirrorMarks = p.reachMirrorMarks := by
  simp only [offerRun]; (repeat' split) <;> rfl
@[simp] theorem offerRun_summaryMark (p : Dyn) : (offerRun p).summaryMark = p.summaryMark := by
  simp only [offerRun]; (repeat' split) <;> rfl
@[simp] theorem offerRun_portalJobs (p : Dyn) : (offerRun p).portalJobs = p.portalJobs := by
  simp only [offerRun]; (repeat' split) <;> rfl
@[simp] theorem offerRun_running (p : Dyn) : (offerRun p).running = p.running := by
  simp only [offerRun]; (repeat' split) <;> rfl
@[simp] theorem offerRun_hand (p : Dyn) : (offerRun p).hand = p.hand := by
  simp only [offerRun]; (repeat' split) <;> rfl
@[simp] theorem offerRun_answer (p : Dyn) : (offerRun p).answer = p.answer := by
  simp only [offerRun]; (repeat' split) <;> rfl
@[simp] theorem offerRun_passKind (p : Dyn) : (offerRun p).passKind = p.passKind := by
  simp only [offerRun]; (repeat' split) <;> rfl
@[simp] theorem offerRun_passFailed (p : Dyn) : (offerRun p).passFailed = p.passFailed := by
  simp only [offerRun]; (repeat' split) <;> rfl
@[simp] theorem offerRun_powerOnUnfinished (p : Dyn) : (offerRun p).powerOnUnfinished = p.powerOnUnfinished := by
  simp only [offerRun]; (repeat' split) <;> rfl
@[simp] theorem offerRun_tick (p : Dyn) : (offerRun p).tick = p.tick := by
  simp only [offerRun]; (repeat' split) <;> rfl
@[simp] theorem offerRun_moment (p : Dyn) : (offerRun p).moment = p.moment := by
  simp only [offerRun]; (repeat' split) <;> rfl

@[simp] theorem putGate_gates (g : GateId) (x : Gate) (p : Dyn) :
    (putGate g x p).gates = Table.put p.gates g x := by
  simp only [putGate]; (repeat' split) <;> rfl

@[simp] theorem putGate_queue (g : GateId) (x : Gate) (p : Dyn) :
    (putGate g x p).queue = if x.state = .moving then p.queue else p.queue.filter (· != g) := by
  simp only [putGate]; (repeat' split) <;> simp_all

@[simp] theorem setLogLost_logLost (p : Dyn) : (setLogLost p).logLost = true := by
  unfold setLogLost; split <;> simp_all

@[simp] theorem clearLogLost_logLost (p : Dyn) : (clearLogLost p).logLost = false := by
  unfold clearLogLost; split <;> simp_all

@[simp] theorem formRecord_gates (r : LogRecord) (p : Dyn) : (formRecord r p).gates = p.gates := by
  unfold formRecord; split <;> simp
@[simp] theorem formRecord_dams (r : LogRecord) (p : Dyn) : (formRecord r p).dams = p.dams := by
  unfold formRecord; split <;> simp
@[simp] theorem formRecord_totals (r : LogRecord) (p : Dyn) : (formRecord r p).totals = p.totals := by
  unfold formRecord; split <;> simp
@[simp] theorem formRecord_reaches (r : LogRecord) (p : Dyn) : (formRecord r p).reaches = p.reaches := by
  unfold formRecord; split <;> simp
@[simp] theorem formRecord_statusWords (r : LogRecord) (p : Dyn) : (formRecord r p).statusWords = p.statusWords := by
  unfold formRecord; split <;> simp
@[simp] theorem formRecord_queue (r : LogRecord) (p : Dyn) : (formRecord r p).queue = p.queue := by
  unfold formRecord; split <;> simp
@[simp] theorem formRecord_portals (r : LogRecord) (p : Dyn) : (formRecord r p).portals = p.portals := by
  unfold formRecord; split <;> simp
@[simp] theorem formRecord_mode (r : LogRecord) (p : Dyn) : (formRecord r p).mode = p.mode := by
  unfold formRecord; split <;> simp
@[simp] theorem formRecord_debt (r : LogRecord) (p : Dyn) : (formRecord r p).debt = p.debt := by
  unfold formRecord; split <;> simp
@[simp] theorem formRecord_pointer (r : LogRecord) (p : Dyn) : (formRecord r p).pointer = p.pointer := by
  unfold formRecord; split <;> simp
@[simp] theorem formRecord_progress (r : LogRecord) (p : Dyn) : (formRecord r p).progress = p.progress := by
  unfold formRecord; split <;> simp
@[simp] theorem formRecord_offer (r : LogRecord) (p : Dyn) : (formRecord r p).offer = p.offer := by
  unfold formRecord; split <;> simp
@[simp] theorem formRecord_pointerReset (r : LogRecord) (p : Dyn) : (formRecord r p).pointerReset = p.pointerReset := by
  unfold formRecord; split <;> simp
@[simp] theorem formRecord_refreshTimer (r : LogRecord) (p : Dyn) : (formRecord r p).refreshTimer = p.refreshTimer := by
  unfold formRecord; split <;> simp
@[simp] theorem formRecord_alarms (r : LogRecord) (p : Dyn) : (formRecord r p).alarms = p.alarms := by
  unfold formRecord; split <;> simp
@[simp] theorem formRecord_logWrite (r : LogRecord) (p : Dyn) : (formRecord r p).logWrite = p.logWrite := by
  unfold formRecord; split <;> simp
@[simp] theorem formRecord_logRead (r : LogRecord) (p : Dyn) : (formRecord r p).logRead = p.logRead := by
  unfold formRecord; split <;> simp
@[simp] theorem formRecord_slotMarks (r : LogRecord) (p : Dyn) : (formRecord r p).slotMarks = p.slotMarks := by
  unfold formRecord; split <;> simp
@[simp] theorem formRecord_gateMirrorMarks (r : LogRecord) (p : Dyn) : (formRecord r p).gateMirrorMarks = p.gateMirrorMarks := by
  unfold formRecord; split <;> simp
@[simp] theorem formRecord_reachMirrorMarks (r : LogRecord) (p : Dyn) : (formRecord r p).reachMirrorMarks = p.reachMirrorMarks := by
  unfold formRecord; split <;> simp
@[simp] theorem formRecord_portalJobs (r : LogRecord) (p : Dyn) : (formRecord r p).portalJobs = p.portalJobs := by
  unfold formRecord; split <;> simp
@[simp] theorem formRecord_running (r : LogRecord) (p : Dyn) : (formRecord r p).running = p.running := by
  unfold formRecord; split <;> simp
@[simp] theorem formRecord_hand (r : LogRecord) (p : Dyn) : (formRecord r p).hand = p.hand := by
  unfold formRecord; split <;> simp
@[simp] theorem formRecord_answer (r : LogRecord) (p : Dyn) : (formRecord r p).answer = p.answer := by
  unfold formRecord; split <;> simp
@[simp] theorem formRecord_passKind (r : LogRecord) (p : Dyn) : (formRecord r p).passKind = p.passKind := by
  unfold formRecord; split <;> simp
@[simp] theorem formRecord_passFailed (r : LogRecord) (p : Dyn) : (formRecord r p).passFailed = p.passFailed := by
  unfold formRecord; split <;> simp
@[simp] theorem formRecord_powerOnUnfinished (r : LogRecord) (p : Dyn) : (formRecord r p).powerOnUnfinished = p.powerOnUnfinished := by
  unfold formRecord; split <;> simp
@[simp] theorem formRecord_tick (r : LogRecord) (p : Dyn) : (formRecord r p).tick = p.tick := by
  unfold formRecord; split <;> simp
@[simp] theorem formRecord_moment (r : LogRecord) (p : Dyn) : (formRecord r p).moment = p.moment := by
  unfold formRecord; split <;> simp

/-- What forming a record does to the buffer and LOG_LOST (R153). -/
theorem formRecord_buffer (r : LogRecord) (p : Dyn) :
    ((formRecord r p).logBuffer = p.logBuffer ++ [r] ∧ (formRecord r p).logLost = p.logLost ∧ p.logBuffer.length < 8) ∨
      ((formRecord r p).logBuffer = p.logBuffer ∧ (formRecord r p).logLost = true ∧ 8 ≤ p.logBuffer.length) := by
  unfold formRecord
  split
  · exact Or.inl ⟨rfl, rfl, by assumption⟩
  · exact Or.inr ⟨by simp, by simp, by omega⟩

end Sys2Proof.Machine
end

