-- ==== Sys2Proof/Laws/Frame.lean ====
section
/-! SUPPORT. What the shared operations leave alone. `Dyn.still` gathers the fields that only the bus, the clock, the
store port and the portals write: every operation on gates, dams, reaches, links and the scheduler keeps them. -/

namespace Sys2Proof.Machine

/-- The fields that no operation on gates, dams, reaches, links or the queue writes. -/
structure Still where
  statusWords : Vector Word 16
  portals : Vector Portal 4
  debt : Int
  pointer : DamId
  pointerReset : Bool
  refreshTimer : Timer
  logWrite : BitVec 6
  logRead : BitVec 6
  portalJobs : List PortalJob
  hand : Option Transaction
  answer : Option BusAnswer
  passKind : Option PassKind
  passFailed : Nat
  powerOnUnfinished : Bool
  tick : BitVec 32
  moment : Nat
  free : Bool

/-- Those fields of a state, with whether the port is free. -/
def Dyn.still (p : Dyn) : Still :=
  ⟨p.statusWords, p.portals, p.debt, p.pointer, p.pointerReset, p.refreshTimer, p.logWrite, p.logRead, p.portalJobs,
    p.hand, p.answer, p.passKind, p.passFailed, p.powerOnUnfinished, p.tick, p.moment, p.running.isNone⟩

/-- Equal still parts give equal fields. -/
theorem still_fields {p q : Dyn} (h : p.still = q.still) :
    p.statusWords = q.statusWords ∧ p.portals = q.portals ∧ p.debt = q.debt ∧ p.pointer = q.pointer ∧
      p.pointerReset = q.pointerReset ∧ p.refreshTimer = q.refreshTimer ∧ p.logWrite = q.logWrite ∧
      p.logRead = q.logRead ∧ p.portalJobs = q.portalJobs ∧ p.hand = q.hand ∧ p.answer = q.answer ∧
      p.passKind = q.passKind ∧ p.passFailed = q.passFailed ∧ p.powerOnUnfinished = q.powerOnUnfinished ∧
      p.tick = q.tick ∧ p.moment = q.moment ∧ p.running.isNone = q.running.isNone := by
  simpa only [Dyn.still, Still.mk.injEq] using h

/-- A fold of an operation that keeps a view of the state keeps it. -/
theorem foldl_keeps {α β γ : Type} (view : β → γ) (f : β → α → β) (h : ∀ p x, view (f p x) = view p) :
    (l : List α) → (p : β) → view (l.foldl f p) = view p
  | [], _ => rfl
  | x :: l, p => by rw [List.foldl_cons, foldl_keeps view f h l, h]

@[simp] theorem putGate_still (g : GateId) (x : Gate) (p : Dyn) : (putGate g x p).still = p.still := by
  simp [Dyn.still]

@[simp] theorem formRecord_still (r : LogRecord) (p : Dyn) : (formRecord r p).still = p.still := by simp [Dyn.still]

@[simp] theorem setLogLost_still (p : Dyn) : (setLogLost p).still = p.still := by simp [Dyn.still]

@[simp] theorem markReach_still (r : ReachId) (p : Dyn) : (markReach r p).still = p.still := rfl
@[simp] theorem markSlot_still (g : GateId) (p : Dyn) : (markSlot g p).still = p.still := rfl
@[simp] theorem markGateMirror_still (g : GateId) (p : Dyn) : (markGateMirror g p).still = p.still := rfl
@[simp] theorem markSummary_still (p : Dyn) : (markSummary p).still = p.still := rfl
@[simp] theorem putDam_still (d : DamId) (x : Dam) (p : Dyn) : (putDam d x p).still = p.still := rfl
@[simp] theorem putReach_still (r : ReachId) (x : Reach) (p : Dyn) : (putReach r x p).still = p.still := rfl
@[simp] theorem dequeue_still (g : GateId) (p : Dyn) : (dequeue g p).still = p.still := rfl

theorem uncredit_free (p : Dyn) : (uncredit p).running.isNone = p.running.isNone := by
  unfold uncredit; split <;> simp_all

@[simp] theorem uncredit_still (p : Dyn) : (uncredit p).still = p.still := by simp [Dyn.still, uncredit_free]

@[simp] theorem setCauses_still (g : GateId) (cs : Causes) (p : Dyn) : (setCauses g cs p).still = p.still := by
  simp [setCauses]

@[simp] theorem changeCauses_still (sel : GateId → Bool) (f : Causes → Causes) (p : Dyn) :
    (changeCauses sel f p).still = p.still :=
  foldl_keeps Dyn.still _ (fun p g => by split <;> simp) _ _

@[simp] theorem setHold_still (c : Tables) (d : DamId) (p : Dyn) : (setHold c d p).still = p.still := by
  simp only [setHold]; split <;> simp

@[simp] theorem clearHold_still (c : Tables) (d : DamId) (p : Dyn) : (clearHold c d p).still = p.still := by
  simp only [clearHold]; split <;> simp

@[simp] theorem enterHold_still (p : Dyn) : (enterHold p).still = p.still := by
  unfold enterHold
  split
  · rw [changeCauses_still, markSummary_still]; exact uncredit_still p
  · rw [markSummary_still]; exact uncredit_still p
  · rfl
  · rfl

@[simp] theorem linkAct_still (c : Tables) (l : Link) (s : Subject) (p : Dyn) : (linkAct c l s p).still = p.still := by
  unfold linkAct
  split
  · rfl
  · split <;> simp
  · split <;> simp
  · simp
  · split <;> rfl

@[simp] theorem offerLinks_still (c : Tables) (k : EventKind) (s : Subject) (p : Dyn) :
    (offerLinks c k s p).still = p.still :=
  foldl_keeps Dyn.still _ (fun p l => by split <;> simp) _ _

@[simp] theorem raise_still (c : Tables) (e : Event) (p : Dyn) : (raise c e p).still = p.still := by simp [raise]

@[simp] theorem reevaluate_still (c : Tables) (d : ReachId) (p : Dyn) : (reevaluate c d p).still = p.still := by
  simp only [reevaluate]; split <;> simp

@[simp] theorem reevaluateAll_still (c : Tables) (ds : List ReachId) (p : Dyn) :
    (reevaluateAll c ds p).still = p.still :=
  foldl_keeps Dyn.still _ (fun p d => by simp) _ _

@[simp] theorem changeTotal_still (c : Tables) (d : DamId) (o n : Nat) (p : Dyn) :
    (changeTotal c d o n p).still = p.still := by
  rw [changeTotal, markReach_still, reevaluateAll_still]; rfl

@[simp] theorem changeGateTotal_still (c : Tables) (g : GateId) (o n : Nat) (p : Dyn) :
    (changeGateTotal c g o n p).still = p.still := by
  unfold changeGateTotal; split <;> simp

theorem admission_still {c : Tables} {xs : List (DamId × Nat × Nat)} {p q : Dyn} (h : admission c xs p = .ok q) :
    q.still = p.still := by
  unfold admission at h
  dsimp only at h
  split at h
  · simp at h
  · injection h with h
    subst h
    rw [foldl_keeps Dyn.still _ (fun p d => by split <;> simp), reevaluateAll_still]
    rfl

@[simp] theorem setWarning_still (d : DamId) (w : Warning) (t : Timer) (p : Dyn) :
    (setWarning d w t p).still = p.still := by
  simp only [setWarning]; split <;> simp

@[simp] theorem silenceCheck_still (c : Tables) (d : DamId) (p : Dyn) : (silenceCheck c d p).still = p.still := by
  unfold silenceCheck; split <;> simp

@[simp] theorem silenceCheckOf_still (c : Tables) (g : GateId) (p : Dyn) :
    (silenceCheckOf c g p).still = p.still := by
  unfold silenceCheckOf; split <;> simp

@[simp] theorem releaseWarning_still (c : Tables) (d : DamId) (p : Dyn) :
    (releaseWarning c d p).still = p.still :=
  foldl_keeps Dyn.still _ (fun p g => by dsimp only; split <;> simp) _ _

@[simp] theorem dwellEnds_still (c : Tables) (d : DamId) (p : Dyn) : (dwellEnds c d p).still = p.still := by
  simp [dwellEnds]

@[simp] theorem soundAtEntry_still (c : Tables) (d : DamId) (p : Dyn) : (soundAtEntry c d p).still = p.still := by
  unfold soundAtEntry; split <;> simp

@[simp] theorem soundForOrder_still (c : Tables) (g : GateId) (d : DamId) (p : Dyn) :
    (soundForOrder c g d p).still = p.still := by
  simp only [soundForOrder]; split
  · simp
  · simp
  · split <;> simp

@[simp] theorem recoveryEnds_still (c : Tables) (g : GateId) (p : Dyn) : (recoveryEnds c g p).still = p.still := by
  simp only [recoveryEnds]; split <;> simp

@[simp] theorem settle_still (c : Tables) (g : GateId) (p : Dyn) : (settle c g p).still = p.still := by
  simp only [settle]; split
  · split <;> simp
  · simp

@[simp] theorem recordStep_still (c : Tables) (g : GateId) (dir : Direction) (p : Dyn) :
    (recordStep c g dir p).still = p.still := by
  unfold recordStep; split <;> simp

@[simp] theorem grant_still (c : Tables) (g : GateId) (p : Dyn) : (grant c g p).still = p.still := by
  simp only [grant]; split <;> simp

@[simp] theorem loseInterlock_still (c : Tables) (g : GateId) (dir : Direction) (k : CondId) (p : Dyn) :
    (loseInterlock c g dir k p).still = p.still := by
  simp [loseInterlock]

@[simp] theorem examine_still (c : Tables) : (l : List GateId) → (p : Dyn) → (examine c l p).dyn.still = p.still
  | [], p => rfl
  | g :: rest, p => by
    simp only [examine]
    split
    · split
      · simp
      · simp [examine_still c rest]
    · exact examine_still c rest p

@[simp] theorem scanLoop_still (c : Tables) : (n : Nat) → (p : Dyn) → (scanLoop c n p).1.still = p.still
  | 0, p => rfl
  | n + 1, p => by
    simp only [scanLoop]
    split
    · simp [scanLoop_still c n]
    · simp

@[simp] theorem scan_still (c : Tables) (p : Dyn) : (scan c p).still = p.still := by
  simp only [scan]
  rw [foldl_keeps Dyn.still _ (fun p g => by simp), scanLoop_still]

@[simp] theorem joinQueue_still (c : Tables) (g : GateId) (p : Dyn) : (joinQueue c g p).still = p.still := by
  unfold joinQueue; split <;> rfl

@[simp] theorem joinAll_still (c : Tables) (sel : GateId → Bool) (p : Dyn) : (joinAll c sel p).still = p.still :=
  foldl_keeps Dyn.still _ (fun p g => by split <;> simp) _ _

@[simp] theorem joinAndScan_still (c : Tables) (sel : GateId → Bool) (forced : Bool) (p : Dyn) :
    (joinAndScan c sel forced p).still = p.still := by
  simp only [joinAndScan]; split <;> simp

@[simp] theorem schedule_still (c : Tables) (before : Dyn) (forced : Bool) (p : Dyn) :
    (schedule c before forced p).still = p.still := by
  simp [schedule]

@[simp] theorem enterFaulted_still (c : Tables) (g : GateId) (k : FaultCause) (p : Dyn) :
    (enterFaulted c g k p).still = p.still := by
  simp only [enterFaulted]; split <;> simp

@[simp] theorem lagExpires_still (c : Tables) (g : GateId) (p : Dyn) : (lagExpires c g p).still = p.still := by
  simp [lagExpires]

@[simp] theorem slotWriteFailed_still (c : Tables) (g : GateId) (a : Access) (p : Dyn) :
    (slotWriteFailed c g a p).still = p.still := by
  unfold slotWriteFailed; split <;> simp

@[simp] theorem enterService_still (c : Tables) (g : GateId) (d : DamId) (p : Dyn) :
    (enterService c g d p).still = p.still := by
  simp only [enterService, schedule_still]
  split <;> simp

@[simp] theorem exitService_still (c : Tables) (g : GateId) (p : Dyn) : (exitService c g p).still = p.still := by
  simp [exitService]

@[simp] theorem commitTarget_still (c : Tables) (g : GateId) (target : Nat) (p : Dyn) :
    (commitTarget c g target p).still = p.still := by
  simp only [commitTarget]
  split
  · simp
  · split <;> simp
  · split
    · simp
    · split <;> simp
  · split <;> simp
  · split <;> simp
  · split <;> simp
  · rfl
  · rfl

@[simp] theorem reevaluateInterlocks_still (c : Tables) (sel : CondId → Bool) (p : Dyn) :
    (reevaluateInterlocks c sel p).still = p.still := by
  rw [reevaluateInterlocks, schedule_still]
  exact foldl_keeps Dyn.still _ (fun p g => by split <;> simp) _ _

@[simp] theorem applyReach_still (c : Tables) (r : ReachId) (x : Reach) (always : Bool) (p : Dyn) :
    (applyReach c r x always p).still = p.still := by
  simp only [applyReach]
  have key : ∀ q old new, (raiseLevel c r old new (raiseSplit c r old new q)).still = q.still := by
    intro q old new
    unfold raiseLevel raiseSplit
    (repeat' split) <;> simp
  split <;> (try rw [reevaluate_still]) <;> rw [key] <;> split <;> simp

@[simp] theorem deriveWith_still (c : Tables) (r : ReachId) (k : Sensor) (x : Sample) (p : Dyn) :
    (deriveWith c r k x p).still = p.still := by
  simp [deriveWith]

@[simp] theorem sampleExpires_still (c : Tables) (r : ReachId) (k : Sensor) (p : Dyn) :
    (sampleExpires c r k p).still = p.still := by
  simp [sampleExpires]

@[simp] theorem lastDamChanged_still (c : Tables) (p : Dyn) : (lastDamChanged c p).still = p.still :=
  foldl_keeps Dyn.still _ (fun p d => by
    split
    · simp
    · simp only [clearExceeded]; split <;> simp) _ _

@[simp] theorem commitItems_still (c : Tables) (items : List Item) (p : Dyn) :
    (commitItems c items p).still = p.still :=
  foldl_keeps Dyn.still _ (fun p e => by split <;> simp) _ _

end Sys2Proof.Machine
end

