-- ==== Sys2Proof/Laws/Links.lean ====
section
/-! SUPPORT. What raising events can do to the state besides the records it forms: `LinkFrame p q` says everything the
link actions and the EXCEEDED flags may change. -/

namespace Sys2Proof.Machine

@[simp] theorem withCauses_withCauses (x : Gate) (a b : Causes) : (x.withCauses a).withCauses b = x.withCauses b := by
  cases x with
  | mk st => cases st <;> simp only [Gate.withCauses] <;> split <;> simp_all

@[simp] theorem withCauses_causes (x : Gate) (a : Causes) : (x.withCauses a).causes = a := rfl
@[simp] theorem withCauses_target (x : Gate) (a : Causes) : (x.withCauses a).target = x.target := rfl
@[simp] theorem withCauses_command (x : Gate) (a : Causes) : (x.withCauses a).command = x.command := rfl
@[simp] theorem withCauses_feedback (x : Gate) (a : Causes) : (x.withCauses a).feedback = x.feedback := rfl
@[simp] theorem withCauses_feedbackKnown (x : Gate) (a : Causes) : (x.withCauses a).feedbackKnown = x.feedbackKnown := rfl
@[simp] theorem withCauses_awaiting (x : Gate) (a : Causes) : (x.withCauses a).awaiting = x.awaiting := rfl
@[simp] theorem withCauses_lagTimer (x : Gate) (a : Causes) : (x.withCauses a).lagTimer = x.lagTimer := rfl
@[simp] theorem withCauses_recoveryTimer (x : Gate) (a : Causes) : (x.withCauses a).recoveryTimer = x.recoveryTimer := rfl
@[simp] theorem withCauses_lastGrant (x : Gate) (a : Causes) : (x.withCauses a).lastGrant = x.lastGrant := rfl
@[simp] theorem withCauses_faultCause (x : Gate) (a : Causes) : (x.withCauses a).faultCause = x.faultCause := rfl
@[simp] theorem withCauses_lastRefusal (x : Gate) (a : Causes) : (x.withCauses a).lastRefusal = x.lastRefusal := rfl

@[simp] theorem withCauses_inService (x : Gate) (a : Causes) : (x.withCauses a).inService = x.inService := by
  cases x with
  | mk st => cases st <;> simp only [Gate.withCauses, Gate.inService] <;> split <;> rfl

/-- The state of a gate without a move outstanding does not follow its hold-cause set (R7). -/
theorem withCauses_state (x : Gate) (a : Causes) (h1 : x.state ≠ .moving) (h2 : x.state ≠ .held) :
    (x.withCauses a).state = x.state := by
  cases x with
  | mk st => cases st <;> simp_all [Gate.withCauses]

/-- The state of a gate with a move outstanding follows its hold-cause set (R7). -/
theorem withCauses_state_move (x : Gate) (a : Causes) (h : x.state = .moving ∨ x.state = .held) :
    (x.withCauses a).state = if a.isEmpty then .moving else .held := by
  cases x with
  | mk st => cases st <;> simp_all [Gate.withCauses]

theorem Gate.OnlyHolds.refl (x : Gate) : x.OnlyHolds x := Or.inl rfl

theorem Gate.OnlyHolds.trans {x y z : Gate} (h1 : x.OnlyHolds y) (h2 : y.OnlyHolds z) : x.OnlyHolds z := by
  rcases h1 with rfl | ⟨hs, cs, hi, hm, hd, rfl⟩
  · exact h2
  · rcases h2 with rfl | ⟨_, cs', hi', hm', hd', rfl⟩
    · exact Or.inr ⟨hs, cs, hi, hm, hd, rfl⟩
    · exact Or.inr ⟨hs, cs', by simp_all, fun h => hm' (hm h), fun h => hd' (hd h), by simp⟩

/-- Everything that link actions and EXCEEDED flags may change. -/
structure LinkFrame (p q : Dyn) : Prop where
  gates : ∀ g, (p.gates.get g).OnlyHolds (q.gates.get g)
  dams : ∀ d, ∃ h, q.dams.get d = { p.dams.get d with hold := h }
  totals : q.totals = p.totals
  reaches : ∀ r, ∃ b, q.reaches.get r = { p.reaches.get r with exceeded := b }
  queue : q.queue.Sublist p.queue
  mode : (q.mode = p.mode ∧ q.offer = p.offer) ∨
    (q.mode = .hold ∧ q.offer = none ∧ (p.mode = .run ∨ p.mode = .exiting))
  running : q.running = p.running ∨ q.running = (uncredit p).running
  buffer : ∃ l, q.logBuffer = p.logBuffer ++ l
  lost : p.logLost = true → q.logLost = true
  still : q.still = p.still

theorem LinkFrame.refl (p : Dyn) : LinkFrame p p where
  gates := fun _ => .refl _
  dams := fun d => ⟨(p.dams.get d).hold, rfl⟩
  totals := rfl
  reaches := fun r => ⟨(p.reaches.get r).exceeded, rfl⟩
  queue := .refl _
  mode := Or.inl ⟨rfl, rfl⟩
  running := Or.inl rfl
  buffer := ⟨[], by simp⟩
  lost := id
  still := rfl

/-- Uncrediting the job in progress twice is uncrediting it once. -/
theorem uncredit_running_congr {p q : Dyn} (h : q.running = p.running ∨ q.running = (uncredit p).running) :
    (uncredit q).running = (uncredit p).running := by
  have key : ∀ q : Dyn, (uncredit q).running =
      (match q.running with
        | some ⟨.refresh d o _ g rest, a⟩ => some ⟨.refresh d o false g rest, a⟩
        | x => x) := by
    intro q
    unfold uncredit
    split <;> simp_all
  rcases h with h | h
  · rw [key, key, h]
  · rw [key q, h, key p]
    cases p.running with
    | none => rfl
    | some r =>
      obtain ⟨j, a⟩ := r
      cases j <;> rfl

theorem LinkFrame.trans {p q r : Dyn} (h1 : LinkFrame p q) (h2 : LinkFrame q r) : LinkFrame p r where
  gates := fun g => (h1.gates g).trans (h2.gates g)
  dams := fun d => by
    obtain ⟨a, ha⟩ := h1.dams d
    obtain ⟨b, hb⟩ := h2.dams d
    exact ⟨b, by rw [hb, ha]⟩
  totals := h2.totals.trans h1.totals
  reaches := fun d => by
    obtain ⟨a, ha⟩ := h1.reaches d
    obtain ⟨b, hb⟩ := h2.reaches d
    exact ⟨b, by rw [hb, ha]⟩
  queue := h2.queue.trans h1.queue
  mode := by
    rcases h1.mode with ⟨a, b⟩ | ⟨a, b, d⟩
    · rcases h2.mode with ⟨a', b'⟩ | ⟨a', b', d'⟩
      · exact Or.inl ⟨a'.trans a, b'.trans b⟩
      · exact Or.inr ⟨a', b', a ▸ d'⟩
    · rcases h2.mode with ⟨a', b'⟩ | ⟨a', b', _⟩
      · exact Or.inr ⟨a'.trans a, b'.trans b, d⟩
      · exact Or.inr ⟨a', b', d⟩
  running := by
    rcases h2.running with h | h
    · exact h.symm ▸ h1.running
    · exact Or.inr (h.trans (uncredit_running_congr h1.running))
  buffer := by
    obtain ⟨a, ha⟩ := h1.buffer
    obtain ⟨b, hb⟩ := h2.buffer
    exact ⟨a ++ b, by rw [hb, ha, List.append_assoc]⟩
  lost := fun h => h2.lost (h1.lost h)
  still := h2.still.trans h1.still

/-- A fold of operations within the frame is within the frame. -/
theorem LinkFrame.foldl {α : Type} (f : Dyn → α → Dyn) (h : ∀ p x, LinkFrame p (f p x)) :
    (l : List α) → (p : Dyn) → LinkFrame p (l.foldl f p)
  | [], p => .refl p
  | x :: l, p => (h p x).trans (LinkFrame.foldl f h l (f p x))

/-- A change of a hold-cause set that gains MODE or DAM alone. -/
def Causes.Gains (a b : Causes) : Prop :=
  b.interlock = a.interlock ∧ (a.mode = true → b.mode = true) ∧ (a.dam = true → b.dam = true)

theorem setCauses_frame (g : GateId) (cs : Causes) (p : Dyn) (h : (p.gates.get g).inService = true)
    (hc : (p.gates.get g).causes.Gains cs) :
    LinkFrame p (setCauses g cs p) where
  gates := fun i => by
    rw [setCauses, putGate_gates, Table.put_get]
    split
    · rename_i hi
      subst hi
      exact Or.inr ⟨h, cs, hc.1, hc.2.1, hc.2.2, rfl⟩
    · exact .refl _
  dams := fun d => ⟨(p.dams.get d).hold, by simp [setCauses]⟩
  totals := by simp [setCauses]
  reaches := fun r => ⟨(p.reaches.get r).exceeded, by simp [setCauses]⟩
  queue := by
    rw [setCauses, putGate_queue]
    split
    · exact .refl _
    · exact List.filter_sublist
  mode := Or.inl (by simp [setCauses])
  running := Or.inl (by simp [setCauses])
  buffer := ⟨[], by simp [setCauses]⟩
  lost := by simp [setCauses]
  still := by simp

theorem changeCauses_frame (sel : GateId → Bool) (f : Causes → Causes) (hf : ∀ cs : Causes, cs.Gains (f cs))
    (p : Dyn) :
    LinkFrame p (changeCauses sel f p) :=
  LinkFrame.foldl _ (fun p g => by
    split
    · rename_i h
      exact setCauses_frame g _ p (by simp_all) (hf _)
    · exact .refl p) _ p

theorem markReach_frame (r : ReachId) (p : Dyn) : LinkFrame p (markReach r p) :=
  { LinkFrame.refl p with }

theorem markSummary_frame (p : Dyn) : LinkFrame p (markSummary p) :=
  { LinkFrame.refl p with }

theorem putHold_frame (d : DamId) (b : Bool) (p : Dyn) :
    LinkFrame p (putDam d { p.dams.get d with hold := b } p) :=
  { LinkFrame.refl p with
    dams := fun i => by
      rw [putDam_dams, Table.put_get]
      split
      · rename_i h
        subst h
        exact ⟨b, rfl⟩
      · exact ⟨_, rfl⟩ }

theorem setHold_frame (c : Tables) (d : DamId) (p : Dyn) : LinkFrame p (setHold c d p) := by
  simp only [setHold]
  split
  · exact .refl p
  · exact ((putHold_frame d true p).trans (changeCauses_frame _ (fun cs => { cs with dam := true }) (fun _ => ⟨rfl, id, fun _ => rfl⟩) _)).trans (markReach_frame _ _)

theorem enterHold_frame (p : Dyn) : LinkFrame p (enterHold p) := by
  unfold enterHold
  split
  · rename_i h
    refine LinkFrame.trans ?_ (changeCauses_frame _ (fun cs => { cs with mode := true }) (fun _ => ⟨rfl, fun _ => rfl, id⟩) _)
    exact
      { LinkFrame.refl p with
        dams := fun d => ⟨(p.dams.get d).hold, by simp⟩
        totals := by simp
        reaches := fun d => ⟨(p.reaches.get d).exceeded, by simp⟩
        gates := fun g => by simp [Gate.OnlyHolds]
        queue := by simp
        mode := Or.inr ⟨rfl, rfl, Or.inl h⟩
        running := Or.inr rfl
        buffer := ⟨[], by simp⟩
        lost := by simp
        still := by rw [markSummary_still]; exact uncredit_still p }
  · rename_i h
    exact
      { LinkFrame.refl p with
        dams := fun d => ⟨(p.dams.get d).hold, by simp⟩
        totals := by simp
        reaches := fun d => ⟨(p.reaches.get d).exceeded, by simp⟩
        gates := fun g => by simp [Gate.OnlyHolds]
        queue := by simp
        mode := Or.inr ⟨rfl, rfl, Or.inr h⟩
        running := Or.inr rfl
        buffer := ⟨[], by simp⟩
        lost := by simp
        still := by rw [markSummary_still]; exact uncredit_still p }
  · exact .refl p
  · exact .refl p

theorem linkAct_frame (c : Tables) (l : Link) (s : Subject) (p : Dyn) : LinkFrame p (linkAct c l s p) := by
  unfold linkAct
  split
  · exact .refl p
  · split
    · exact setHold_frame _ _ _
    · exact .refl p
  · split
    · exact setHold_frame _ _ _
    · exact .refl p
  · exact enterHold_frame p
  · split
    · exact { LinkFrame.refl p with }
    · exact .refl p

theorem offerLinks_frame (c : Tables) (k : EventKind) (s : Subject) (p : Dyn) : LinkFrame p (offerLinks c k s p) :=
  LinkFrame.foldl _ (fun p l => by
    split
    · exact linkAct_frame _ _ _ _
    · exact .refl p) _ p

theorem formRecord_frame (r : LogRecord) (p : Dyn) : LinkFrame p (formRecord r p) where
  gates := fun g => by simp [Gate.OnlyHolds]
  dams := fun d => ⟨(p.dams.get d).hold, by simp⟩
  totals := by simp
  reaches := fun d => ⟨(p.reaches.get d).exceeded, by simp⟩
  queue := by simp
  mode := Or.inl (by simp)
  running := Or.inl (by simp)
  buffer := by
    rcases formRecord_buffer r p with h | h
    · exact ⟨[r], h.1⟩
    · exact ⟨[], by simp [h.1]⟩
  lost := fun h => by
    rcases formRecord_buffer r p with k | k
    · rw [k.2.1, h]
    · exact k.2.1
  still := by simp

theorem raise_frame (c : Tables) (e : Event) (p : Dyn) : LinkFrame p (raise c e p) :=
  (formRecord_frame _ _).trans (offerLinks_frame _ _ _ _)

theorem putExceeded_frame (d : ReachId) (b : Bool) (p : Dyn) :
    LinkFrame p (putReach d { p.reaches.get d with exceeded := b } p) :=
  { LinkFrame.refl p with
    reaches := fun i => by
      rw [putReach_reaches, Table.put_get]
      split
      · rename_i h
        subst h
        exact ⟨b, rfl⟩
      · exact ⟨_, rfl⟩ }

theorem reevaluate_frame (c : Tables) (d : ReachId) (p : Dyn) : LinkFrame p (reevaluate c d p) := by
  simp only [reevaluate]
  split
  · exact ((putExceeded_frame d true p).trans (markReach_frame _ _)).trans (raise_frame _ _ _)
  · exact (putExceeded_frame d false p).trans (markReach_frame _ _)
  · exact .refl p
  · exact .refl p

theorem reevaluateAll_frame (c : Tables) (ds : List ReachId) (p : Dyn) : LinkFrame p (reevaluateAll c ds p) :=
  LinkFrame.foldl _ (fun p d => reevaluate_frame c d p) _ p

/-- A change of a total that is not an admission: the total, then what EXCEEDED flags bring (R27). -/
theorem changeTotal_frame (c : Tables) (d : DamId) (o n : Nat) (p : Dyn) :
    LinkFrame { p with totals := Table.put p.totals d (adjustTotal (p.totals.get d) o n) } (changeTotal c d o n p) :=
  (reevaluateAll_frame _ _ _).trans (markReach_frame _ _)

/-- The totals after an admission's changes. -/
def finalTotals (xs : List (DamId × Nat × Nat)) (t : Vector Word 6) : Vector Word 6 :=
  xs.foldl (fun t x => Table.put t x.1 (adjustTotal (t.get x.1) x.2.1 x.2.2)) t

/-- What an admission does (R35): refused, with the check's answer; or the totals, then what EXCEEDED flags bring. -/
theorem admission_frame (c : Tables) (xs : List (DamId × Nat × Nat)) (p : Dyn) :
    (∃ e, admissionCheck c p.reaches p.totals (finalTotals xs p.totals) = some e ∧ admission c xs p = .error e) ∨
      (admissionCheck c p.reaches p.totals (finalTotals xs p.totals) = none ∧
        ∃ q, admission c xs p = .ok q ∧ LinkFrame { p with totals := finalTotals xs p.totals } q) := by
  have e : admission c xs p =
      match admissionCheck c p.reaches p.totals (finalTotals xs p.totals) with
      | some e => .error e
      | none =>
        .ok ((List.finRange 6).foldl
          (fun q d => if p.totals.get d != (finalTotals xs p.totals).get d then markReach d q else q)
          (reevaluateAll c (reachesTouched c p.totals (finalTotals xs p.totals))
            { p with totals := finalTotals xs p.totals })) := rfl
  rw [e]
  cases h : admissionCheck c p.reaches p.totals (finalTotals xs p.totals) with
  | some e => exact Or.inl ⟨e, rfl, rfl⟩
  | none =>
    refine Or.inr ⟨rfl, _, rfl,
      LinkFrame.trans (reevaluateAll_frame c (reachesTouched c p.totals (finalTotals xs p.totals)) _) ?_⟩
    exact LinkFrame.foldl _ (fun q d => by
      split
      · exact markReach_frame _ _
      · exact .refl q) _ _

end Sys2Proof.Machine
end

