-- ==== Sys2Proof/Laws/Scheduler.lean ====
section
/-! SUPPORT. What a scan of the pending step queue can do (`ScanFrame`), and that gates, links and the scheduler leave
the totals and the reaches alone (`Dyn.rivers`). -/

namespace Sys2Proof.Machine

/-! ### Totals and reaches -/

/-- The totals and the reaches of a state. -/
def Dyn.rivers (p : Dyn) : Vector Word 6 × Vector Reach 6 := (p.totals, p.reaches)

theorem rivers_fields {p q : Dyn} (h : p.rivers = q.rivers) : p.totals = q.totals ∧ p.reaches = q.reaches := by
  simpa only [Dyn.rivers, Prod.mk.injEq] using h

@[simp] theorem putGate_rivers (g : GateId) (x : Gate) (p : Dyn) : (putGate g x p).rivers = p.rivers := by
  simp [Dyn.rivers]

@[simp] theorem formRecord_rivers (r : LogRecord) (p : Dyn) : (formRecord r p).rivers = p.rivers := by
  simp [Dyn.rivers]

@[simp] theorem setLogLost_rivers (p : Dyn) : (setLogLost p).rivers = p.rivers := by simp [Dyn.rivers]

@[simp] theorem markReach_rivers (r : ReachId) (p : Dyn) : (markReach r p).rivers = p.rivers := rfl
@[simp] theorem markSlot_rivers (g : GateId) (p : Dyn) : (markSlot g p).rivers = p.rivers := rfl
@[simp] theorem markGateMirror_rivers (g : GateId) (p : Dyn) : (markGateMirror g p).rivers = p.rivers := rfl
@[simp] theorem markSummary_rivers (p : Dyn) : (markSummary p).rivers = p.rivers := rfl
@[simp] theorem putDam_rivers (d : DamId) (x : Dam) (p : Dyn) : (putDam d x p).rivers = p.rivers := rfl
@[simp] theorem dequeue_rivers (g : GateId) (p : Dyn) : (dequeue g p).rivers = p.rivers := rfl

@[simp] theorem setCauses_rivers (g : GateId) (cs : Causes) (p : Dyn) : (setCauses g cs p).rivers = p.rivers := by
  simp [setCauses]

@[simp] theorem changeCauses_rivers (sel : GateId → Bool) (f : Causes → Causes) (p : Dyn) :
    (changeCauses sel f p).rivers = p.rivers :=
  foldl_keeps Dyn.rivers _ (fun p g => by split <;> simp) _ _

@[simp] theorem setHold_rivers (c : Tables) (d : DamId) (p : Dyn) : (setHold c d p).rivers = p.rivers := by
  simp only [setHold]; split <;> simp

@[simp] theorem clearHold_rivers (c : Tables) (d : DamId) (p : Dyn) : (clearHold c d p).rivers = p.rivers := by
  simp only [clearHold]; split <;> simp

@[simp] theorem uncredit_rivers (p : Dyn) : (uncredit p).rivers = p.rivers := by
  unfold uncredit; split <;> rfl

@[simp] theorem enterHold_rivers (p : Dyn) : (enterHold p).rivers = p.rivers := by
  unfold enterHold
  split
  · rw [changeCauses_rivers, markSummary_rivers]; exact uncredit_rivers p
  · rw [markSummary_rivers]; exact uncredit_rivers p
  · rfl
  · rfl

@[simp] theorem linkAct_rivers (c : Tables) (l : Link) (s : Subject) (p : Dyn) :
    (linkAct c l s p).rivers = p.rivers := by
  unfold linkAct
  split
  · rfl
  · split <;> simp
  · split <;> simp
  · simp
  · split <;> rfl

@[simp] theorem offerLinks_rivers (c : Tables) (k : EventKind) (s : Subject) (p : Dyn) :
    (offerLinks c k s p).rivers = p.rivers :=
  foldl_keeps Dyn.rivers _ (fun p l => by split <;> simp) _ _

@[simp] theorem raise_rivers (c : Tables) (e : Event) (p : Dyn) : (raise c e p).rivers = p.rivers := by simp [raise]

@[simp] theorem setWarning_rivers (d : DamId) (w : Warning) (t : Timer) (p : Dyn) :
    (setWarning d w t p).rivers = p.rivers := by
  simp only [setWarning]; split <;> simp

@[simp] theorem silenceCheck_rivers (c : Tables) (d : DamId) (p : Dyn) : (silenceCheck c d p).rivers = p.rivers := by
  unfold silenceCheck; split <;> simp

@[simp] theorem silenceCheckOf_rivers (c : Tables) (g : GateId) (p : Dyn) :
    (silenceCheckOf c g p).rivers = p.rivers := by
  unfold silenceCheckOf; split <;> simp

@[simp] theorem releaseWarning_rivers (c : Tables) (d : DamId) (p : Dyn) :
    (releaseWarning c d p).rivers = p.rivers :=
  foldl_keeps Dyn.rivers _ (fun p g => by dsimp only; split <;> simp) _ _

@[simp] theorem dwellEnds_rivers (c : Tables) (d : DamId) (p : Dyn) : (dwellEnds c d p).rivers = p.rivers := by
  simp [dwellEnds]

@[simp] theorem soundAtEntry_rivers (c : Tables) (d : DamId) (p : Dyn) : (soundAtEntry c d p).rivers = p.rivers := by
  unfold soundAtEntry; split <;> simp

@[simp] theorem soundForOrder_rivers (c : Tables) (g : GateId) (d : DamId) (p : Dyn) :
    (soundForOrder c g d p).rivers = p.rivers := by
  simp only [soundForOrder]; split
  · simp
  · simp
  · split <;> simp

@[simp] theorem recoveryEnds_rivers (c : Tables) (g : GateId) (p : Dyn) : (recoveryEnds c g p).rivers = p.rivers := by
  simp only [recoveryEnds]; split <;> simp

@[simp] theorem settle_rivers (c : Tables) (g : GateId) (p : Dyn) : (settle c g p).rivers = p.rivers := by
  simp only [settle]; split
  · split <;> simp
  · simp

@[simp] theorem recordStep_rivers (c : Tables) (g : GateId) (dir : Direction) (p : Dyn) :
    (recordStep c g dir p).rivers = p.rivers := by
  unfold recordStep; split <;> simp

@[simp] theorem grant_rivers (c : Tables) (g : GateId) (p : Dyn) : (grant c g p).rivers = p.rivers := by
  simp only [grant]; split <;> simp

@[simp] theorem loseInterlock_rivers (c : Tables) (g : GateId) (dir : Direction) (k : CondId) (p : Dyn) :
    (loseInterlock c g dir k p).rivers = p.rivers := by
  simp [loseInterlock]

@[simp] theorem examine_rivers (c : Tables) : (l : List GateId) → (p : Dyn) → (examine c l p).dyn.rivers = p.rivers
  | [], p => rfl
  | g :: rest, p => by
    simp only [examine]
    split
    · split
      · simp
      · simp [examine_rivers c rest]
    · exact examine_rivers c rest p

@[simp] theorem scanLoop_rivers (c : Tables) : (n : Nat) → (p : Dyn) → (scanLoop c n p).1.rivers = p.rivers
  | 0, p => rfl
  | n + 1, p => by
    simp only [scanLoop]
    split
    · simp [scanLoop_rivers c n]
    · simp

@[simp] theorem scan_rivers (c : Tables) (p : Dyn) : (scan c p).rivers = p.rivers := by
  simp only [scan]
  rw [foldl_keeps Dyn.rivers _ (fun p g => by simp), scanLoop_rivers]

@[simp] theorem joinQueue_rivers (c : Tables) (g : GateId) (p : Dyn) : (joinQueue c g p).rivers = p.rivers := by
  unfold joinQueue; split <;> rfl

@[simp] theorem joinAll_rivers (c : Tables) (sel : GateId → Bool) (p : Dyn) : (joinAll c sel p).rivers = p.rivers :=
  foldl_keeps Dyn.rivers _ (fun p g => by split <;> simp) _ _

@[simp] theorem joinAndScan_rivers (c : Tables) (sel : GateId → Bool) (forced : Bool) (p : Dyn) :
    (joinAndScan c sel forced p).rivers = p.rivers := by
  simp only [joinAndScan]; split <;> simp

@[simp] theorem schedule_rivers (c : Tables) (before : Dyn) (forced : Bool) (p : Dyn) :
    (schedule c before forced p).rivers = p.rivers := by
  simp [schedule]

@[simp] theorem commitTarget_rivers (c : Tables) (g : GateId) (target : Nat) (p : Dyn) :
    (commitTarget c g target p).rivers = p.rivers := by
  simp only [commitTarget]
  split
  · simp
  · split <;> simp
  · split
    · simp
    · split <;> simp
  · split <;> simp
  · split <;> simp
  · split <;> simp
  · rfl
  · rfl

/-! ### A scan -/

theorem Gate.sameOrder_refl (x : Gate) : x.sameOrder x := ⟨rfl, rfl, rfl, rfl, rfl⟩

theorem Gate.sameOrder_trans {x y z : Gate} (h1 : x.sameOrder y) (h2 : y.sameOrder z) : x.sameOrder z :=
  ⟨h2.1.trans h1.1, h2.2.1.trans h1.2.1, h2.2.2.1.trans h1.2.2.1, h2.2.2.2.1.trans h1.2.2.2.1,
    h2.2.2.2.2.trans h1.2.2.2.2⟩

theorem Gate.sameOrder_holds {x y : Gate} (h : x.OnlyHolds y) : x.sameOrder y := by
  rcases h with rfl | ⟨_, cs, _, _, _, rfl⟩
  · exact Gate.sameOrder_refl _
  · exact ⟨rfl, rfl, rfl, rfl, rfl⟩

theorem Gate.inService_holds {x y : Gate} (h : x.OnlyHolds y) : y.inService = x.inService := by
  rcases h with rfl | ⟨_, cs, _, _, _, rfl⟩
  · rfl
  · simp

/-- What an operation on one queued gate g may change: that gate but for its orders, its dam's history and warning, the
marks and the queue. -/
structure StepFrame (g : GateId) (p q : Dyn) : Prop where
  others : ∀ h, h ≠ g → q.gates.get h = p.gates.get h
  orders : (p.gates.get g).sameOrder (q.gates.get g)
  service : (p.gates.get g).inService = true → (q.gates.get g).inService = true
  sequence : ∀ d, (q.dams.get d).sequence = (p.dams.get d).sequence
  queue : q.queue.Sublist p.queue
  mode : q.mode = p.mode
  offer : q.offer = p.offer
  running : q.running = p.running
  buffer : q.logBuffer = p.logBuffer
  lost : q.logLost = p.logLost
  still : q.still = p.still
  rivers : q.rivers = p.rivers

theorem StepFrame.refl (g : GateId) (p : Dyn) : StepFrame g p p where
  others := fun _ _ => rfl
  orders := Gate.sameOrder_refl _
  service := id
  sequence := fun _ => rfl
  queue := .refl _
  mode := rfl
  offer := rfl
  running := rfl
  buffer := rfl
  lost := rfl
  still := rfl
  rivers := rfl

theorem StepFrame.trans {g : GateId} {p q r : Dyn} (h1 : StepFrame g p q) (h2 : StepFrame g q r) :
    StepFrame g p r where
  others := fun h hh => (h2.others h hh).trans (h1.others h hh)
  orders := Gate.sameOrder_trans h1.orders h2.orders
  service := fun h => h2.service (h1.service h)
  sequence := fun d => (h2.sequence d).trans (h1.sequence d)
  queue := h2.queue.trans h1.queue
  mode := h2.mode.trans h1.mode
  offer := h2.offer.trans h1.offer
  running := h2.running.trans h1.running
  buffer := h2.buffer.trans h1.buffer
  lost := h2.lost.trans h1.lost
  still := h2.still.trans h1.still
  rivers := h2.rivers.trans h1.rivers

theorem dequeue_step (g : GateId) (p : Dyn) : StepFrame g p (dequeue g p) :=
  { StepFrame.refl g p with queue := List.filter_sublist }

theorem putGate_step (g : GateId) (x : Gate) (p : Dyn) (ho : (p.gates.get g).sameOrder x)
    (hs : (p.gates.get g).inService = true → x.inService = true) : StepFrame g p (putGate g x p) where
  others := fun h hh => by simp [Ne.symm hh]
  orders := by simpa using ho
  service := by simpa using hs
  sequence := fun d => by simp
  queue := by
    rw [putGate_queue]
    split
    · exact .refl _
    · exact List.filter_sublist
  mode := by simp
  offer := by simp
  running := by simp
  buffer := by simp
  lost := by simp
  still := by simp
  rivers := by simp

theorem putDam_step (g : GateId) (d : DamId) (x : Dam) (p : Dyn) (hs : x.sequence = (p.dams.get d).sequence) :
    StepFrame g p (putDam d x p) :=
  { StepFrame.refl g p with
    sequence := fun e => by
      rw [putDam_dams, Table.put_get]
      split
      · rename_i h; exact h ▸ hs
      · rfl }

theorem markReach_step (g : GateId) (r : ReachId) (p : Dyn) : StepFrame g p (markReach r p) :=
  { StepFrame.refl g p with }

theorem setWarning_step (g : GateId) (d : DamId) (w : Warning) (t : Timer) (p : Dyn) :
    StepFrame g p (setWarning d w t p) := by
  simp only [setWarning]
  split
  · exact putDam_step g d _ p rfl
  · refine StepFrame.trans ?_ (markReach_step _ _ _)
    exact putDam_step g d _ p rfl

theorem silenceCheckOf_step (c : Tables) (g h : GateId) (p : Dyn) : StepFrame g p (silenceCheckOf c h p) := by
  unfold silenceCheckOf silenceCheck
  (repeat' split) <;> first | exact setWarning_step _ _ _ _ _ | exact StepFrame.refl _ _

theorem recoveryEnds_step (c : Tables) (g : GateId) (p : Dyn) : StepFrame g p (recoveryEnds c g p) := by
  simp only [recoveryEnds]
  split
  · refine StepFrame.trans ?_ (silenceCheckOf_step _ _ _ _)
    exact putGate_step g _ p ⟨rfl, rfl, rfl, rfl, rfl⟩ (fun _ => rfl)
  · refine putGate_step g _ p ⟨rfl, rfl, rfl, rfl, rfl⟩ (fun _ => ?_)
    simp only [Gate.inService, Gate.moveState]
    split <;> rfl

theorem settle_step (c : Tables) (g : GateId) (p : Dyn) : StepFrame g p (settle c g p) := by
  simp only [settle]
  split
  · have h := putGate_step g
      { p.gates.get g with
        state := .recovering
        causes := { (p.gates.get g).causes with interlock := false }
        recoveryTimer := .running (recoveryDwellOf c g) } p ⟨rfl, rfl, rfl, rfl, rfl⟩ (fun _ => rfl)
    split
    · exact h.trans (recoveryEnds_step _ _ _)
    · exact h
  · exact putGate_step g _ p ⟨rfl, rfl, rfl, rfl, rfl⟩ (fun _ => rfl)

theorem grant_step (c : Tables) (g : GateId) (p : Dyn) : StepFrame g p (grant c g p) := by
  have h : StepFrame g p
      (recordStep c g (directionTo (p.gates.get g).command (p.gates.get g).target)
        (putGate g ((p.gates.get g).granted (c.gates.get g) p.tick) (dequeue g p))) := by
    have h1 : StepFrame g (dequeue g p)
        (putGate g ((p.gates.get g).granted (c.gates.get g) p.tick) (dequeue g p)) :=
      putGate_step g _ _ ⟨rfl, rfl, rfl, rfl, rfl⟩ (fun h => h)
    refine ((dequeue_step g p).trans h1).trans ?_
    generalize putGate g ((p.gates.get g).granted (c.gates.get g) p.tick) (dequeue g p) = q
    unfold recordStep
    split
    · refine putDam_step _ _ _ _ ?_
      unfold Dam.withStep
      split <;> rfl
    · exact .refl _ _
  simp only [grant]
  split
  · exact h.trans (settle_step _ _ _)
  · exact h

/-- Everything that a scan may change: a gate that was not in the queue is only held, and a queued gate keeps its orders
and stays in service; a dam keeps its stamp sequence. -/
structure ScanFrame (p q : Dyn) : Prop where
  outside : ∀ g, g ∉ p.queue → (p.gates.get g).OnlyHolds (q.gates.get g)
  orders : ∀ g, (p.gates.get g).sameOrder (q.gates.get g)
  service : ∀ g, (p.gates.get g).inService = true → (q.gates.get g).inService = true
  sequence : ∀ d, (q.dams.get d).sequence = (p.dams.get d).sequence
  queue : q.queue.Sublist p.queue
  mode : (q.mode = p.mode ∧ q.offer = p.offer) ∨
    (q.mode = .hold ∧ q.offer = none ∧ (p.mode = .run ∨ p.mode = .exiting))
  running : q.running = p.running ∨ q.running = (uncredit p).running
  buffer : ∃ l, q.logBuffer = p.logBuffer ++ l
  lost : p.logLost = true → q.logLost = true
  still : q.still = p.still
  rivers : q.rivers = p.rivers

theorem ScanFrame.refl (p : Dyn) : ScanFrame p p where
  outside := fun _ _ => .refl _
  orders := fun _ => Gate.sameOrder_refl _
  service := fun _ => id
  sequence := fun _ => rfl
  queue := .refl _
  mode := Or.inl ⟨rfl, rfl⟩
  running := Or.inl rfl
  buffer := ⟨[], by simp⟩
  lost := id
  still := rfl
  rivers := rfl

theorem ScanFrame.trans {p q r : Dyn} (h1 : ScanFrame p q) (h2 : ScanFrame q r) : ScanFrame p r where
  outside := fun g hg => (h1.outside g hg).trans (h2.outside g fun h => hg (h1.queue.subset h))
  orders := fun g => Gate.sameOrder_trans (h1.orders g) (h2.orders g)
  service := fun g h => h2.service g (h1.service g h)
  sequence := fun d => (h2.sequence d).trans (h1.sequence d)
  queue := h2.queue.trans h1.queue
  mode := by
    rcases h1.mode with ⟨a, b⟩ | ⟨a, b, d⟩
    · rcases h2.mode with ⟨a', b'⟩ | ⟨a', b', d'⟩
      · exact Or.inl ⟨a'.trans a, b'.trans b⟩
      · exact Or.inr ⟨a', b', a ▸ d'⟩
    · rcases h2.mode with ⟨a', b'⟩ | ⟨a', b', _⟩
      · exact Or.inr ⟨a'.trans a, b'.trans b, d⟩
      · exact Or.inr ⟨a', b', d⟩
  running := by
    rcases h2.running with h | h
    · exact h.symm ▸ h1.running
    · exact Or.inr (h.trans (uncredit_running_congr h1.running))
  buffer := by
    obtain ⟨a, ha⟩ := h1.buffer
    obtain ⟨b, hb⟩ := h2.buffer
    exact ⟨a ++ b, by rw [hb, ha, List.append_assoc]⟩
  lost := fun h => h2.lost (h1.lost h)
  still := h2.still.trans h1.still
  rivers := h2.rivers.trans h1.rivers

/-- An operation on a queued gate is within the scan's frame. -/
theorem ScanFrame.ofStep {g : GateId} {p q : Dyn} (h : StepFrame g p q) (hg : g ∈ p.queue) : ScanFrame p q where
  outside := fun i hi => Or.inl (h.others i fun e => hi (e ▸ hg))
  orders := fun i => by
    by_cases e : i = g
    · exact e ▸ h.orders
    · rw [h.others i e]; exact Gate.sameOrder_refl _
  service := fun i => by
    by_cases e : i = g
    · exact e ▸ h.service
    · rw [h.others i e]; exact id
  sequence := h.sequence
  queue := h.queue
  mode := Or.inl ⟨h.mode, h.offer⟩
  running := Or.inl h.running
  buffer := ⟨[], by simp [h.buffer]⟩
  lost := fun e => h.lost.trans e
  still := h.still
  rivers := h.rivers

/-- An operation of the links that leaves totals and reaches alone is within the scan's frame. -/
theorem ScanFrame.ofLinks {p q : Dyn} (h : LinkFrame p q) (hr : q.rivers = p.rivers) : ScanFrame p q where
  outside := fun g _ => h.gates g
  orders := fun g => Gate.sameOrder_holds (h.gates g)
  service := fun g hs => (Gate.inService_holds (h.gates g)).trans hs
  sequence := fun d => by
    obtain ⟨b, hb⟩ := h.dams d
    rw [hb]
  queue := h.queue
  mode := h.mode
  running := h.running
  buffer := h.buffer
  lost := h.lost
  still := h.still
  rivers := hr

theorem loseInterlock_frame (c : Tables) (g : GateId) (dir : Direction) (k : CondId) (p : Dyn) (hg : g ∈ p.queue) :
    ScanFrame p (loseInterlock c g dir k p) := by
  have h : StepFrame g p (setCauses g { (p.gates.get g).causes with interlock := true } (dequeue g p)) := by
    refine (dequeue_step g p).trans (putGate_step g _ _ ⟨rfl, rfl, rfl, rfl, rfl⟩ fun e => ?_)
    rw [withCauses_inService]
    exact e
  exact (ScanFrame.ofStep h hg).trans (ScanFrame.ofLinks (formRecord_frame _ _) (by simp))

theorem loseInterlock_queue (c : Tables) (g : GateId) (dir : Direction) (k : CondId) (p : Dyn) :
    ∀ h ∈ p.queue, h ≠ g → h ∈ (loseInterlock c g dir k p).queue := by
  intro h hh hn
  simp only [loseInterlock, formRecord_queue, setCauses, putGate_queue, dequeue_queue]
  split <;> simp [hh, hn]

/-- One examination of distinct queued gates. -/
theorem examine_frame (c : Tables) : (l : List GateId) → (p : Dyn) → l.Nodup → (∀ g ∈ l, g ∈ p.queue) →
    ScanFrame p (examine c l p).dyn
  | [], p, _, _ => .refl p
  | g :: rest, p, hn, hl => by
    have hg : g ∈ p.queue := hl g (by simp)
    have hnr := (List.nodup_cons.mp hn).2
    simp only [examine]
    split
    · split
      · exact .ofStep (grant_step _ _ _) hg
      · rename_i k _
        refine (loseInterlock_frame c g _ k p hg).trans (examine_frame c rest _ hnr fun h hh => ?_)
        exact loseInterlock_queue _ _ _ _ _ h (hl h (by simp [hh])) fun e => (List.nodup_cons.mp hn).1 (e ▸ hh)
    · exact examine_frame c rest p hnr fun h hh => hl h (by simp [hh])

theorem scanLoop_frame (c : Tables) : (n : Nat) → (p : Dyn) → p.queue.Nodup → ScanFrame p (scanLoop c n p).1
  | 0, p, _ => .refl p
  | n + 1, p, hn => by
    have he := examine_frame c p.queue p hn fun _ h => h
    simp only [scanLoop]
    split
    · exact he.trans (scanLoop_frame c n _ (hn.sublist he.queue))
    · exact he

/-- A scan of a queue that holds no gate twice (R83). -/
theorem scan_frame (c : Tables) (p : Dyn) (hn : p.queue.Nodup) : ScanFrame p (scan c p) := by
  simp only [scan]
  have key : (l : List GateId) → (q : Dyn) →
      ScanFrame q (l.foldl (fun p g => offerLinks c .interlockLost (.gate g) p) q) := by
    intro l
    induction l with
    | nil => exact ScanFrame.refl
    | cons g l ih => exact fun q => (ScanFrame.ofLinks (offerLinks_frame _ _ _ _) (by simp)).trans (ih _)
  exact (scanLoop_frame c (p.queue.length + 1) p hn).trans (key _ _)

/-! ### Joining -/

/-- A gate joins, or nothing changes. -/
theorem joinQueue_eq (c : Tables) (g : GateId) (p : Dyn) :
    (joinable c p g = true ∧ joinQueue c g p = { p with queue := p.queue ++ [g] }) ∨
      (joinable c p g = false ∧ joinQueue c g p = p) := by
  unfold joinQueue
  cases h : joinable c p g <;> simp

/-- Joining changes the queue alone: it gains gates that may join, at its tail. -/
theorem joinFold_eq (c : Tables) (sel : GateId → Bool) : (l : List GateId) → (p : Dyn) →
    ∃ js, l.foldl (fun p g => if sel g then joinQueue c g p else p) p = { p with queue := p.queue ++ js } ∧
      (∀ g ∈ js, sel g = true ∧ joinable c p g = true) ∧ (p.queue.Nodup → (p.queue ++ js).Nodup)
  | [], p => ⟨[], by simp⟩
  | g :: l, p => by
    by_cases hs : sel g = true ∧ joinable c p g = true
    · obtain ⟨js, h1, h2, h3⟩ := joinFold_eq c sel l { p with queue := p.queue ++ [g] }
      have hj : (if sel g then joinQueue c g p else p) = { p with queue := p.queue ++ [g] } := by
        simp [hs.1, joinQueue, hs.2]
      have hg : g ∉ p.queue := by
        have := hs.2
        simp only [joinable, Bool.and_eq_true, Bool.not_eq_true', List.contains_eq_mem, decide_eq_false_iff_not] at this
        exact this.2
      refine ⟨g :: js, ?_, ?_, ?_⟩
      · rw [List.foldl_cons, hj, h1]
        simp
      · intro i hi
        rcases List.mem_cons.mp hi with rfl | hi
        · exact hs
        · refine ⟨(h2 i hi).1, ?_⟩
          have := (h2 i hi).2
          simp only [joinable, stepIntervalElapsed, Bool.and_eq_true, Bool.not_eq_true', List.contains_eq_mem,
            decide_eq_false_iff_not, List.mem_append, List.mem_singleton, not_or] at this ⊢
          exact ⟨this.1, this.2.1⟩
      · intro hn
        have hn' : (p.queue ++ [g]).Nodup := by
          rw [List.nodup_append]
          refine ⟨hn, by simp, ?_⟩
          intro a ha b hb e
          exact hg ((List.mem_singleton.mp hb) ▸ e ▸ ha)
        simpa using h3 hn'
    · obtain ⟨js, h1, h2, h3⟩ := joinFold_eq c sel l p
      have hj : (if sel g then joinQueue c g p else p) = p := by
        by_cases h : sel g = true
        · have : joinable c p g = false := by simpa [h] using hs
          simp [h, joinQueue, this]
        · simp [h]
      exact ⟨js, by rw [List.foldl_cons, hj, h1], h2, h3⟩

theorem joinAll_eq (c : Tables) (sel : GateId → Bool) (p : Dyn) :
    ∃ js, joinAll c sel p = { p with queue := p.queue ++ js } ∧
      (∀ g ∈ js, sel g = true ∧ joinable c p g = true) ∧ (p.queue.Nodup → (p.queue ++ js).Nodup) :=
  joinFold_eq c sel _ p

/-- Where no gate may join, joining and a scan that nothing forces change nothing. -/
theorem joinAndScan_none {c : Tables} {sel : GateId → Bool} {p : Dyn}
    (h : ∀ g, sel g = true → joinable c p g = false) : joinAndScan c sel false p = p := by
  obtain ⟨js, h1, h2, _⟩ := joinAll_eq c sel p
  have hj : js = [] := by
    cases js with
    | nil => rfl
    | cons g js =>
      obtain ⟨a, b⟩ := h2 g (by simp)
      rw [h g a] at b
      cases b
  subst hj
  simp [joinAndScan, h1]

/-- Joining and a scan, in the frame of a scan over the queue that the joins leave. -/
theorem joinAndScan_frame (c : Tables) (sel : GateId → Bool) (forced : Bool) (p : Dyn) (hn : p.queue.Nodup) :
    ∃ js, (∀ g ∈ js, sel g = true ∧ joinable c p g = true) ∧
      ScanFrame { p with queue := p.queue ++ js } (joinAndScan c sel forced p) := by
  obtain ⟨js, h1, h2, h3⟩ := joinAll_eq c sel p
  refine ⟨js, h2, ?_⟩
  simp only [joinAndScan, h1]
  split
  · exact scan_frame c _ (h3 hn)
  · exact .refl _

/-- A gate may join in RUN alone (R75). -/
theorem joinable_run {c : Tables} {p : Dyn} {g : GateId} (h : joinable c p g = true) :
    p.mode = .run ∧ (p.gates.get g).state = .moving := by
  simp only [joinable, Bool.and_eq_true, beq_iff_eq] at h
  exact ⟨h.1.1.1.2, h.1.1.1.1⟩

/-- Outside RUN nothing joins. -/
theorem schedule_idle {c : Tables} {before p : Dyn} (h : p.mode ≠ .run) : schedule c before false p = p :=
  joinAndScan_none fun g _ => by
    cases hj : joinable c p g
    · rfl
    · exact absurd (joinable_run hj).1 h

end Sys2Proof.Machine
end

