-- ==== Sys2Proof/Laws/Port.lean ====
section
/-! SUPPORT. The arbiter: what waits, what a grant changes, and what an event leaves after the arbiter has acted. -/

namespace Sys2Proof.Machine

/-! ### What waits -/

/-- A waiting refresh. -/
def Waiting.isRefresh : Waiting → Bool
  | .refresh _ => true
  | _ => false

/-- No refresh is offered in a class that is granted. -/
def NoRefreshWaits (p : Dyn) : Prop := p.offer = none ∨ refreshClass p = none

theorem refreshAt_none {p : Dyn} (h : NoRefreshWaits p) (k : Nat) : refreshAt k p = none := by
  unfold refreshAt
  split
  · rename_i d hd
    rcases h with h | h
    · simp [h] at hd
    · simp [h]
  · rfl

/-- The older of two marks is one of them. -/
theorem olderMark_eq {α : Type} {a b : Option (α × Nat)} {y : α × Nat} (h : olderMark a b = some y) :
    a = some y ∨ b = some y := by
  unfold olderMark at h
  split at h
  · exact Or.inr h
  · exact Or.inl h
  · split at h
    · exact Or.inr h
    · exact Or.inl h

/-- A head that is a refresh is the offered one, in its class. -/
theorem heads_refresh {p : Dyn} {w : Waiting} (hw : w ∈ waitingHeads p) (hr : w.isRefresh = true) :
    ∃ k, refreshAt k p = some w := by
  simp only [waitingHeads, List.reduceOption_mem_iff, List.mem_cons, List.not_mem_nil, or_false] at hw
  rcases hw with hw | hw | hw | hw | hw | hw | hw | hw
  · exact ⟨1, hw.symm⟩
  · rw [waitingTransaction, eq_comm, Option.map_eq_some_iff] at hw
    obtain ⟨_, _, rfl⟩ := hw; cases hr
  · rw [eq_comm, Option.map_eq_some_iff] at hw
    obtain ⟨_, _, rfl⟩ := hw; cases hr
  · unfold waitingPortal at hw
    split at hw <;> simp_all [Waiting.isRefresh]
  · unfold waitingRecord at hw
    split at hw
    · cases hw
    · split at hw <;> simp_all [Waiting.isRefresh]
  · unfold oldestMirror at hw
    dsimp only at hw
    rw [eq_comm, Option.map_eq_some_iff] at hw
    obtain ⟨⟨w', n⟩, hx, rfl⟩ := hw
    dsimp only at hr
    rcases olderMark_eq hx with hy | hy
    · rcases olderMark_eq hy with hz | hz
      · rw [Option.map_eq_some_iff] at hz
        obtain ⟨_, _, hz⟩ := hz
        cases hz; cases hr
      · rw [Option.map_eq_some_iff] at hz
        obtain ⟨_, _, hz⟩ := hz
        cases hz; cases hr
    · rw [Option.map_eq_some_iff] at hy
      obtain ⟨_, _, hz⟩ := hy
      cases hz; cases hr
  · exact ⟨7, hw.symm⟩
  · exact ⟨8, hw.symm⟩

/-- Without an offered refresh, no head of a class is a refresh. -/
theorem heads_noRefresh {p : Dyn} (h : NoRefreshWaits p) : ∀ w ∈ waitingHeads p, w.isRefresh = false := by
  intro w hw
  by_contra hr
  obtain ⟨k, hk⟩ := heads_refresh hw (by simpa using hr)
  simp [refreshAt_none h] at hk

/-- A waiting refresh is the offered one, and has a class. -/
theorem refresh_waits {p : Dyn} {d : DamId} (h : Waiting.refresh d ∈ waitingHeads p) :
    p.offer = some d ∧ (refreshClass p).isSome = true := by
  obtain ⟨k, hk⟩ := heads_refresh h rfl
  unfold refreshAt at hk
  split at hk
  · split at hk
    · rename_i hc
      exact ⟨by simp_all, by simp [hc]⟩
    · cases hk
  · cases hk

theorem offeredTogether_sub {p : Dyn} {w : Waiting} (h : w ∈ offeredTogether p) : w ∈ waitingHeads p := by
  unfold offeredTogether at h
  split at h
  · exact (List.mem_filter.mp h).1
  · exact h

/-- Where a job waits, one of the jobs offered together waits. -/
theorem offeredTogether_nil {p : Dyn} (h : offeredTogether p = []) : waitingHeads p = [] := by
  unfold offeredTogether at h
  split at h
  · rename_i hs
    exfalso
    obtain ⟨x, hx⟩ := Option.isSome_iff_exists.mp hs
    have hm : Waiting.slot x.1 ∈ waitingHeads p := by
      simp only [waitingHeads, List.reduceOption_mem_iff, List.mem_cons]
      simp [hx]
    have : Waiting.slot x.1 ∈ (waitingHeads p).filter Waiting.notPortal := List.mem_filter.mpr ⟨hm, rfl⟩
    rw [h] at this
    cases this
  · exact h

/-! ### What a grant changes -/

/-- A granted job that is no refresh holds the port. -/
theorem grantJob_running {c : Tables} {w : Waiting} {p : Dyn} (h : w.isRefresh = false) :
    (grantJob c w p).running.isSome = true := by
  cases w <;> simp_all [grantJob, Waiting.isRefresh]

/-- The fields of the part that only the store port writes: everything else of a state. -/
structure PortFrame (p q : Dyn) : Prop where
  gates : q.gates = p.gates
  dams : q.dams = p.dams
  totals : q.totals = p.totals
  reaches : q.reaches = p.reaches
  statusWords : q.statusWords = p.statusWords
  queue : q.queue = p.queue
  portals : q.portals = p.portals
  mode : q.mode = p.mode
  debt : q.debt = p.debt
  pointer : q.pointer = p.pointer
  progress : q.progress = p.progress
  offer : q.offer = p.offer
  pointerReset : q.pointerReset = p.pointerReset
  refreshTimer : q.refreshTimer = p.refreshTimer
  alarms : q.alarms = p.alarms
  logWrite : q.logWrite = p.logWrite
  logRead : q.logRead = p.logRead
  logLost : q.logLost = p.logLost
  hand : q.hand = p.hand
  answer : q.answer = p.answer
  passKind : q.passKind = p.passKind
  passFailed : q.passFailed = p.passFailed
  powerOnUnfinished : q.powerOnUnfinished = p.powerOnUnfinished
  tick : q.tick = p.tick
  moment : q.moment = p.moment

theorem PortFrame.refl (p : Dyn) : PortFrame p p := by constructor <;> rfl

/-- A grant of a job that is no refresh changes only the port's own fields. -/
theorem grantJob_frame {c : Tables} {w : Waiting} {p : Dyn} (h : w.isRefresh = false) :
    PortFrame p (grantJob c w p) := by
  cases w <;> first | (simp [Waiting.isRefresh] at h; done) | (constructor <;> rfl)

theorem GrantedByClass.of_busy {c : Tables} {p q : Dyn} (h : GrantedByClass c p q) (hp : p.running.isSome = true) :
    q = p := by
  cases h with
  | busy => rfl
  | idle _ hr => simp [hr] at hp
  | grants _ _ _ hr => simp [hr] at hp

theorem Granted.frame {c : Tables} {p q : Dyn} (h : Granted c p q) (hn : NoRefreshWaits p) : PortFrame p q := by
  rcases h with ⟨rfl, _⟩ | ⟨_, w, hw, hg⟩
  · exact .refl _
  · have hr := heads_noRefresh hn w (offeredTogether_sub hw)
    rw [hg.of_busy (grantJob_running hr)]
    exact grantJob_frame hr

/-- What the end of the grants leaves: a job holds the port, or none waits (R136). -/
theorem GrantedByClass.ends {c : Tables} {p q : Dyn} (h : GrantedByClass c p q) :
    q.running.isSome = true ∨ noJobWaits q = true := by
  induction h with
  | busy _ h => exact Or.inl h
  | idle _ _ h => exact Or.inr h
  | grants _ _ _ _ _ _ ih => exact ih

theorem Granted.ends {c : Tables} {p q : Dyn} (h : Granted c p q) : q.running.isSome = true ∨ noJobWaits q = true := by
  rcases h with ⟨rfl, h⟩ | ⟨_, _, _, h⟩
  · exact h
  · exact h.ends

/-! ### Empty refreshes (R114): each leaves fewer to grant -/

/-- The mode and the offer stand, or an entry into HOLD has withdrawn the offer. -/
def OfferStands (p q : Dyn) : Prop := (q.mode = p.mode ∧ q.offer = p.offer) ∨ (q.mode = .hold ∧ q.offer = none)

theorem OfferStands.refl (p : Dyn) : OfferStands p p := Or.inl ⟨rfl, rfl⟩

theorem OfferStands.trans {p q r : Dyn} (h1 : OfferStands p q) (h2 : OfferStands q r) : OfferStands p r := by
  rcases h2 with ⟨a, b⟩ | h
  · rcases h1 with ⟨a', b'⟩ | ⟨a', b'⟩
    · exact Or.inl ⟨a.trans a', b.trans b'⟩
    · exact Or.inr ⟨a.trans a', b.trans b'⟩
  · exact Or.inr h

theorem OfferStands.ofLinks {p q : Dyn} (h : LinkFrame p q) : OfferStands p q := h.mode.imp id fun x => ⟨x.1, x.2.1⟩

theorem examine_offer (c : Tables) : (l : List GateId) → (p : Dyn) → OfferStands p (examine c l p).dyn
  | [], p => .refl p
  | g :: rest, p => by
    simp only [examine]
    split
    · split
      · exact Or.inl ⟨(grant_step c g p).mode, (grant_step c g p).offer⟩
      · refine OfferStands.trans (Or.inl ?_) (examine_offer c rest _)
        simp [loseInterlock, setCauses]
    · exact examine_offer c rest p

theorem scanLoop_offer (c : Tables) : (n : Nat) → (p : Dyn) → OfferStands p (scanLoop c n p).1
  | 0, p => .refl p
  | n + 1, p => by
    simp only [scanLoop]
    split
    · exact (examine_offer c p.queue p).trans (scanLoop_offer c n _)
    · exact examine_offer c p.queue p

theorem schedule_offer (c : Tables) (before p : Dyn) (forced : Bool) : OfferStands p (schedule c before forced p) := by
  obtain ⟨js, h, _, _⟩ := joinAll_eq c (becameMoving before p) p
  have hj : OfferStands p { p with queue := p.queue ++ js } := Or.inl ⟨rfl, rfl⟩
  simp only [schedule, joinAndScan, h]
  split
  · exact (hj.trans (scanLoop_offer c _ _)).trans
      (.ofLinks (LinkFrame.foldl _ (fun p g => offerLinks_frame c .interlockLost (.gate g) p) _ _))
  · exact hj

/-- A bound on the refreshes that may be granted one after another with no write between them. -/
def refreshesLeft (p : Dyn) : Nat :=
  match p.mode with
  | .config => 0
  | .hold => if p.offer.isSome then 1 else 0
  | .run => (p.debt + 4).toNat
  | .exiting => 6 - p.progress + 5

theorem refreshesLeft_lt (p : Dyn) : refreshesLeft p < grantFuel p := by
  unfold refreshesLeft grantFuel
  split <;> first | omega | (split <;> omega)

theorem offerRun_left (p : Dyn) : refreshesLeft (offerRun p) = refreshesLeft p := by
  unfold offerRun
  split
  · rename_i h
    have hm : p.mode = .run := by simp_all
    simp [refreshesLeft, hm]
  · rfl

@[simp] theorem changeCauses_mode (sel : GateId → Bool) (f : Causes → Causes) (p : Dyn) :
    (changeCauses sel f p).mode = p.mode :=
  foldl_keeps Dyn.mode _ (fun p g => by split <;> simp [setCauses]) _ p

/-- The end of the exit pass leaves at most the refreshes of RUN from debt 0 down to -3. -/
theorem endExitPass_left (c : Tables) (p : Dyn) : refreshesLeft (endExitPass c p) ≤ 4 := by
  simp only [endExitPass, offerRun_left]
  generalize hp1 : changeCauses (fun _ => true) (fun cs => { cs with mode := false })
    (markSummary { p with mode := .run, debt := 0, progress := 0 }) = p1
  have hm : p1.mode = .run := by rw [← hp1, changeCauses_mode]; rfl
  have hs : p1.still = (markSummary { p with mode := .run, debt := 0, progress := 0 }).still := by
    rw [← hp1, changeCauses_still]
  have ht := (still_fields ((schedule_still c p false p1).trans hs)).2.2.1
  rcases schedule_offer c p p1 false with ⟨a, _⟩ | ⟨a, b⟩
  · rw [refreshesLeft, a, hm, ht]
    exact Nat.le_refl 4
  · simp [refreshesLeft, a, b]

/-- The completion of a refresh that was just granted leaves fewer than were left with it offered. -/
theorem refreshComplete_left (c : Tables) (d : DamId) {p : Dyn} (hc : (refreshClass p).isSome = true)
    (ho : p.offer = none) :
    refreshesLeft (refreshComplete c d (refreshOrigin p.mode).counts p) < refreshesLeft { p with offer := some d } := by
  have hl := c.lastDam.isLt
  have ha : (advancePointer c d p).mode = p.mode := rfl
  have hp : (advancePointer c d p).progress = p.progress := rfl
  cases hm : p.mode with
  | config => simp [refreshClass, hm] at hc
  | hold =>
    simp only [refreshComplete, ha, hm, refreshesLeft]
    simp [advancePointer, ho]
  | run =>
    have hd : -3 ≤ p.debt := by
      by_contra hn
      rw [refreshClass, hm] at hc
      simp only at hc
      rw [if_neg (by omega), if_neg (by omega), if_neg (by omega)] at hc
      cases hc
    simp only [refreshComplete, refreshOrigin, RefreshOrigin.counts, ha, hm, if_true, offerRun_left]
    simp only [refreshesLeft, markSummary_mode, markSummary_debt, advancePointer, hm]
    omega
  | exiting =>
    simp only [refreshComplete, refreshOrigin, RefreshOrigin.counts, ha, hm, hp, if_true]
    split
    · refine Nat.lt_of_le_of_lt (endExitPass_left c _) ?_
      simp only [refreshesLeft]
      omega
    · simp only [refreshesLeft]
      omega

/-- A granted refresh holds the port, or it had no gate to write, and fewer are left. -/
theorem grantRefresh_left (c : Tables) {p : Dyn} {d : DamId} (h : Waiting.refresh d ∈ waitingHeads p) :
    (grantJob c (.refresh d) p).running.isSome = true ∨
      refreshesLeft (grantJob c (.refresh d) p) < refreshesLeft p := by
  obtain ⟨ho, hc⟩ := refresh_waits h
  simp only [grantJob, grantRefresh]
  split
  · right
    have hl := refreshComplete_left c d (p := markReach d (putDam d
      { p.dams.get d with sequence := (p.dams.get d).sequence + 1 } { p with offer := none })) hc rfl
    refine Nat.lt_of_lt_of_eq hl ?_
    simp [refreshesLeft, ho]
  · left
    rfl

/-- A granted job holds the port, or it was a refresh with no gate to write, and fewer are left. -/
theorem grantJob_left (c : Tables) {p : Dyn} {w : Waiting} (h : w ∈ waitingHeads p) :
    (grantJob c w p).running.isSome = true ∨ refreshesLeft (grantJob c w p) < refreshesLeft p := by
  cases hw : w.isRefresh with
  | false => exact Or.inl (grantJob_running hw)
  | true =>
    cases w <;> first | (simp [Waiting.isRefresh] at hw; done) | exact grantRefresh_left c h

/-! ### The arbiter -/

theorem arbitrate_busy {c : Tables} {b : Bool} {p : Dyn} (h : p.running.isSome = true) : arbitrate c b p = p := by
  simp [arbitrate, h]

theorem grantByClass_busy {c : Tables} {n : Nat} {p : Dyn} (h : p.running.isSome = true) : grantByClass c n p = p := by
  cases n <;> simp [grantByClass, h]

/-- The grants by class, given more fuel than refreshes are left. -/
theorem grantByClass_grants (c : Tables) : (n : Nat) → (p : Dyn) → refreshesLeft p < n → GrantedByClass c p (grantByClass c n p)
  | 0, _, h => by omega
  | n + 1, p, h => by
    simp only [grantByClass]
    split
    · rename_i hr
      exact .busy p hr
    · rename_i hr
      have hr : p.running = none := by simpa using hr
      split
      · rename_i hh
        exact .idle p hr (by simpa [noJobWaits, List.head?_eq_none_iff] using hh)
      · rename_i w hh
        refine .grants p _ w hr hh ?_
        rcases grantJob_left c (List.mem_of_mem_head? hh) with hb | hl
        · rw [grantByClass_busy hb]
          exact .busy _ hb
        · exact grantByClass_grants c n _ (by omega)

/-- The arbiter after an event at a free port, or a busy one. -/
theorem arbitrate_granted {c : Tables} {b : Bool} {p : Dyn} (hb : b = p.running.isNone) :
    Granted c p (arbitrate c b p) := by
  cases hr : p.running with
  | some r => exact Or.inl ⟨arbitrate_busy (by simp [hr]), by simp [hr]⟩
  | none =>
    subst hb
    have hb' : arbitrate c p.running.isNone p =
        match (offeredTogether p)[Config.offerOrder p.moment % (offeredTogether p).length]? with
        | none => p
        | some w => grantByClass c (grantFuel p) (grantJob c w p) := by
      rw [arbitrate, hr]; rfl
    rw [hb']
    split
    · rename_i h
      left
      refine ⟨rfl, Or.inr ?_⟩
      rw [List.getElem?_eq_none_iff] at h
      have : offeredTogether p = [] := by
        by_contra hne
        have := Nat.mod_lt (Config.offerOrder p.moment) (List.length_pos_iff.mpr hne)
        omega
      simp [noJobWaits, offeredTogether_nil this]
    · rename_i w hw
      have hm := List.mem_of_getElem? hw
      refine Or.inr ⟨hr, w, hm, ?_⟩
      rcases grantJob_left c (offeredTogether_sub hm) with h | h
      · rw [grantByClass_busy h]
        exact .busy _ h
      · exact grantByClass_grants c _ _ (h.trans (refreshesLeft_lt p))

/-- After the completion of a job the grants go by class (R137). -/
theorem arbitrate_byClass {c : Tables} {p : Dyn} (hr : p.running = none) :
    GrantedByClass c p (arbitrate c false p) := by
  have h : arbitrate c false p = grantByClass c (grantFuel p) p := by simp [arbitrate, hr]
  exact h ▸ grantByClass_grants c _ p (refreshesLeft_lt p)

/-- Where the port is free and the arbiter's invariant holds, no refresh waits. -/
theorem noRefreshWaits_of_idle {p : Dyn} (h : noJobWaits p = true) : NoRefreshWaits p := by
  rw [noJobWaits, List.isEmpty_iff] at h
  by_contra hc
  rw [NoRefreshWaits, not_or] at hc
  obtain ⟨d, hd⟩ := Option.ne_none_iff_exists'.mp hc.1
  obtain ⟨k, hk⟩ := Option.ne_none_iff_exists'.mp hc.2
  have hk' : k = 1 ∨ k = 7 ∨ k = 8 := by
    unfold refreshClass at hk
    split at hk <;> first | (cases hk; done) | (simp_all; done) | skip
    all_goals (repeat' split at hk) <;> simp_all
  have hm : Waiting.refresh d ∈ waitingHeads p := by
    simp only [waitingHeads, List.reduceOption_mem_iff, List.mem_cons]
    rcases hk' with rfl | rfl | rfl <;> simp [refreshAt, hd, hk]
  rw [h] at hm
  cases hm

end Sys2Proof.Machine
end

