-- ==== Sys2Proof/Laws/Bus.lean ====
section
/-! SUPPORT. Bus commands: when a transaction passes, and what presenting it gives, whatever its handler. -/

namespace Sys2Proof.Machine

theorem accessCheck_none_iff (c : Tables) (p : Dyn) (t : Transaction) : accessCheck c p t = none ↔ Passes c p t := by
  have lanes : (lanesAllowed t = true) ↔ ((t.hi = true ∧ t.lo = true) ∨ pageKind t.page = .plain) := by
    simp [lanesAllowed]
  constructor
  · intro h
    simp only [accessCheck] at h
    by_cases h1 : p.passKind.isSome = true
    · simp [h1] at h
    by_cases h2 : (c.masters.get t.master).enabled = true
    swap
    · simp [h1, h2] at h
    by_cases h3 : t.odd = true
    · simp [h1, h2, h3] at h
    by_cases h4 : (c.descriptors.get t.page).present = true
    swap
    · simp [h1, h2, h3, h4] at h
    by_cases h5 : (c.descriptors.get t.page).limit.toNat ≤ t.word.val
    · simp [h1, h2, h3, h4, h5] at h
    by_cases h6 : (if t.write then (c.descriptors.get t.page).writeLevel
        else (c.descriptors.get t.page).readLevel).toNat < (c.masters.get t.master).level.toNat
    · simp only [h1, h2, h3, h4, h5, if_pos h6, Bool.not_true, Bool.false_eq_true, if_false, reduceCtorEq] at h
    simp only [h1, h2, h3, h4, h5, if_neg h6, Bool.not_true, Bool.false_eq_true, if_false] at h
    by_cases h7 : (t.write && !lanesAllowed t) = true
    · simp [h7] at h
    by_cases h8 : (t.write && partOwned t.page t.word) = true
    · simp [h7, h8] at h
    by_cases h9 : (t.write && needsLevelZero t.page t.word && (c.masters.get t.master).level != 0) = true
    · simp only [h7, h8, h9, if_true, if_false, Bool.false_eq_true, reduceCtorEq] at h
    refine ⟨by simpa using h1, h2, by simpa using h3, h4, by omega, by omega, ?_, ?_, ?_⟩
    · intro hw
      rw [← lanes]
      simpa [hw] using h7
    · intro hw
      simpa [hw] using h8
    · intro hw hz
      simpa [hw, hz] using h9
  · intro h
    obtain ⟨h1, h2, h3, h4, h5, h6, h7, h8, h9⟩ := h
    simp only [accessCheck]
    rw [if_neg (by simp [h1]), if_neg (by simp [h2]), if_neg (by simp [h3]), if_neg (by simp [h4]), if_neg (by omega),
      if_neg (by omega)]
    by_cases hw : t.write = true
    · have h7 := lanes.mpr (h7 hw)
      have h8 := h8 hw
      rw [if_neg (by simp [h7]), if_neg (by simp [h8])]
      by_cases hz : needsLevelZero t.page t.word = true
      · rw [if_neg (by simp [h9 hw hz])]
      · rw [if_neg (by simp [hz])]
    · rw [if_neg (by simp [hw]), if_neg (by simp [hw]), if_neg (by simp [hw])]

/-- A row that writes one handled word presents that WRITE to its handler. -/
theorem exec_write {i : Instr} {x : WriteTarget × BusWrite} (h : i.write? = some x) (s : State) :
    exec i s = .next (writeTo x.1 x.2 s) := by
  cases i <;> simp only [Instr.write?, Option.some.injEq, reduceCtorEq] at h <;> subst h <;> rfl

theorem transaction_write {i : Instr} {x : WriteTarget × BusWrite} (h : i.write? = some x) :
    i.transaction? = some (writeTransaction x.1.place.1 x.1.place.2 x.2) := by
  cases i <;> simp only [Instr.write?, Option.some.injEq, reduceCtorEq] at h <;> subst h <;> rfl

theorem presented_check (c : Tables) (p : Dyn) (t : Transaction) : accessCheck c (presented p) t = accessCheck c p t :=
  rfl

/-- A presented WRITE that its handler takes. -/
theorem presentWrite_taken {t : Transaction} {h : Handler} {s : State} {c1 : Tables} {p1 : Dyn}
    (hand : s.dyn.hand = none) (pass : Passes s.tables s.dyn t)
    (hh : h s.tables (presented s.dyn) = .taken c1 p1) :
    presentWrite t h s =
      { s with tables := c1, dyn := arbitrate c1 s.dyn.running.isNone (takeInHand t p1) } := by
  simp [presentWrite, hand, writeTaken, presented_check, (accessCheck_none_iff _ _ _).mpr pass, hh, afterHandler]

/-- A presented WRITE that its handler refuses. -/
theorem presentWrite_refused {t : Transaction} {h : Handler} {s : State} {code : Code} {detail : Nat}
    {g : Option GateId} {p1 : Dyn} (hand : s.dyn.hand = none) (pass : Passes s.tables s.dyn t)
    (hh : h s.tables (presented s.dyn) = .refused code detail g p1) :
    presentWrite t h s =
      { s with
        dyn := arbitrate s.tables s.dyn.running.isNone
          (offerOrderRefused s.tables g (refuseTransaction t code detail p1)) } := by
  simp [presentWrite, hand, writeTaken, presented_check, (accessCheck_none_iff _ _ _).mpr pass, hh, afterHandler]

/-- A presented WRITE that an access check refuses. -/
theorem presentWrite_checked {t : Transaction} {h : Handler} {s : State} {code : Code}
    (hand : s.dyn.hand = none) (hc : accessCheck s.tables s.dyn t = some code) :
    presentWrite t h s =
      { s with dyn := arbitrate s.tables s.dyn.running.isNone (refuseAtCheck t code (presented s.dyn)) } := by
  simp [presentWrite, hand, writeTaken, presented_check, hc]

/-- A command whose result is an arbitrated state gives that state. -/
theorem gives_of_arbitrate {i : Instr} {s : State} {c : Tables} {p : Dyn}
    (he : exec i s = .next { s with tables := c, dyn := arbitrate c s.dyn.running.isNone p })
    (hf : p.running.isNone = s.dyn.running.isNone) : Gives i s c p := by
  refine ⟨_, ?_, he⟩
  cases hr : s.dyn.running with
  | some r =>
    rw [hr] at hf
    have hp : p.running.isSome = true := by
      cases h : p.running
      · simp [h] at hf
      · rfl
    exact Or.inl ⟨arbitrate_busy hp, Or.inl hp⟩
  | none =>
    rw [hr] at hf
    exact arbitrate_granted hf.symm

/-- No refresh waits in a state whose offer, mode and debt are those of an idle one. -/
theorem noRefreshWaits_congr {p q : Dyn} (h : NoRefreshWaits p) (ho : q.offer = p.offer) (hm : q.mode = p.mode)
    (hd : q.debt = p.debt) : NoRefreshWaits q := by
  rcases h with h | h
  · exact Or.inl (ho.trans h)
  · right
    simpa only [refreshClass, hm, hd] using h

/-- No refresh waits after an event within the links' frame. -/
theorem noRefreshWaits_links {p q : Dyn} (h : NoRefreshWaits p) (hl : LinkFrame p q) : NoRefreshWaits q := by
  rcases hl.mode with ⟨hm, ho⟩ | ⟨_, ho, _⟩
  · exact noRefreshWaits_congr h ho hm (still_fields hl.still).2.2.1
  · exact Or.inl ho

end Sys2Proof.Machine
end

