-- ==== Sys2Proof/Laws/Memory.lean ====
section
/-! SUPPORT. The command store: every operation keeps its canonical form, and a read after a write. -/

namespace Sys2Proof.Machine

/-! ### The canonical form -/

theorem wfAbove_mono {m : Memory} {a b : Nat} (h : a ≤ b) (hw : Memory.wfAbove b m = true) :
    Memory.wfAbove a m = true := by
  cases m with
  | nil => rfl
  | cons x m =>
    obtain ⟨x, v⟩ := x
    simp only [Memory.wfAbove, Bool.and_eq_true, decide_eq_true_eq] at hw ⊢
    exact ⟨⟨by omega, hw.1.2⟩, hw.2⟩

theorem setByte_wfAbove (x : Nat) (v : BitVec 8) : (m : Memory) → (low : Nat) → low ≤ x →
    Memory.wfAbove low m = true → Memory.wfAbove low (m.setByte x v) = true
  | [], low, hx, _ => by
    simp only [Memory.setByte]
    split
    · rfl
    · simp_all [Memory.wfAbove]
  | (a, b) :: m, low, hx, h => by
    simp only [Memory.wfAbove, Bool.and_eq_true, decide_eq_true_eq, bne_iff_ne, ne_eq] at h
    obtain ⟨⟨h1, h2⟩, h3⟩ := h
    simp only [Memory.setByte]
    split
    · split
      · simp_all [Memory.wfAbove]
      · rename_i hlt hv
        have h3' := wfAbove_mono (show a + 1 ≤ a + 1 from Nat.le_refl _) h3
        simp [Memory.wfAbove, hx, hv, h2, h3', show x + 1 ≤ a from hlt]
    · split
      · rename_i hlt heq
        subst heq
        split
        · exact wfAbove_mono (by omega) h3
        · rename_i hv
          simp [Memory.wfAbove, hx, hv, h3]
      · rename_i hlt hne
        have := setByte_wfAbove x v m (a + 1) (by omega) h3
        simp [Memory.wfAbove, h1, h2, this]

/-- A byte write keeps the canonical form. -/
theorem setByte_wf (m : Memory) (x : Nat) (v : BitVec 8) (h : m.wf = true) : (m.setByte x v).wf = true :=
  setByte_wfAbove x v m 0 (Nat.zero_le _) h

/-- A word write keeps the canonical form. -/
theorem setWord_wf (m : Memory) (p : PageId) (w : WordIdx) (hi lo : Bool) (v : Word) (h : m.wf = true) :
    (m.setWord p w hi lo v).wf = true := by
  simp only [Memory.setWord]
  cases hi <;> cases lo <;> simp only [if_true, if_false, Bool.false_eq_true] <;>
    repeat (first | exact h | apply setByte_wf)

/-- The store's answer to an access keeps the canonical form. -/
theorem storeAfter_wf (m : Memory) (j : Job) (a : Access) (ans : StoreAnswer) (n : Nat) (h : m.wf = true) :
    (storeAfter m j a ans n).wf = true := by
  unfold storeAfter
  split
  · split
    · exact setWord_wf _ _ _ _ _ _ h
    · dsimp only
      split <;> exact setWord_wf _ _ _ _ _ _ h
  · exact h

/-- An abandoned access keeps the canonical form. -/
theorem storeAbandoned_wf (m : Memory) (r : Option Running) (n : Nat) (h : m.wf = true) :
    (storeAbandoned m r n).wf = true := by
  unfold storeAbandoned
  split
  · exact h
  · split
    · exact setWord_wf _ _ _ _ _ _ h
    · exact h

/-! ### Reading after writing -/

theorem byte_below {m : Memory} {low x : Nat} (h : Memory.wfAbove low m = true) (hx : x < low) :
    m.byte x = unlisted := by
  induction m generalizing low with
  | nil => rfl
  | cons y m ih =>
    obtain ⟨a, b⟩ := y
    simp only [Memory.wfAbove, Bool.and_eq_true, decide_eq_true_eq] at h
    rw [Memory.byte, if_neg (by omega)]
    exact ih h.2 (by omega)

theorem setByte_byteAbove (x : Nat) (v : BitVec 8) (y : Nat) : (m : Memory) → (low : Nat) →
    Memory.wfAbove low m = true → (m.setByte x v).byte y = if y = x then v else m.byte y
  | [], low, _ => by
    simp only [Memory.setByte]
    split <;> rename_i hv
    · split <;> simp [Memory.byte, hv]
    · simp only [Memory.byte, eq_comm]
  | (a, b) :: m, low, h => by
    simp only [Memory.wfAbove, Bool.and_eq_true, decide_eq_true_eq] at h
    have hb := h.2
    simp only [Memory.setByte]
    split
    · rename_i hlt
      split
      · rename_i hv
        split
        · rename_i hy
          subst hy
          rw [Memory.byte, if_neg (by omega), byte_below hb (by omega), hv]
        · rfl
      · split
        · rename_i hy; subst hy; simp [Memory.byte]
        · rename_i hy; rw [Memory.byte, if_neg (by omega)]
    · split
      · rename_i hlt heq
        subst heq
        split
        · rename_i hv
          split
          · rename_i hy; subst hy; rw [byte_below hb (by omega), hv]
          · rename_i hy; rw [Memory.byte, if_neg (by omega)]
        · split
          · rename_i hy; subst hy; simp [Memory.byte]
          · rename_i hy; rw [Memory.byte, if_neg (by omega), Memory.byte, if_neg (by omega)]
      · rename_i hlt hne
        have ih := setByte_byteAbove x v y m (a + 1) hb
        rw [Memory.byte, ih, Memory.byte]
        by_cases hy : a = y
        · subst hy; simp [Ne.symm hne]
        · simp [hy]

/-- A byte read after a byte write: the written value at its address, the former one elsewhere. -/
theorem setByte_byte (m : Memory) (h : m.wf = true) (x y : Nat) (v : BitVec 8) :
    (m.setByte x v).byte y = if y = x then v else m.byte y :=
  setByte_byteAbove x v y m 0 h

/-- A byte read after a word write: only the word's bytes on the lanes that are on change. -/
theorem setWord_byte (m : Memory) (h : m.wf = true) (p : PageId) (w : WordIdx) (hi lo : Bool) (v : Word) (y : Nat) :
    (m.setWord p w hi lo v).byte y =
      if y = wordAddress p w ∧ lo = true then v.extractLsb' 0 8
      else if y = wordAddress p w + 1 ∧ hi = true then v.extractLsb' 8 8
      else m.byte y := by
  simp only [Memory.setWord]
  cases hi <;> cases lo
  · simp
  · rw [if_neg Bool.false_ne_true, if_pos rfl, setByte_byte m h]; simp
  · rw [if_pos rfl, if_neg Bool.false_ne_true, setByte_byte m h]; simp
  · rw [if_pos rfl, if_pos rfl, setByte_byte _ (setByte_wf _ _ _ h), setByte_byte m h]
    by_cases h1 : y = wordAddress p w + 1
    · have : y ≠ wordAddress p w := by omega
      simp [h1]
    · simp [h1]

theorem high_of_append (a b : BitVec 8) : (a ++ b).extractLsb' 8 8 = a := by
  apply BitVec.eq_of_getLsbD_eq
  intro i hi
  rw [BitVec.getLsbD_extractLsb']
  have h := @BitVec.getLsbD_append 8 8 (8 + i) a b
  simp [hi, h]

theorem low_of_append (a b : BitVec 8) : (a ++ b).extractLsb' 0 8 = b := by
  apply BitVec.eq_of_getLsbD_eq
  intro i hi
  rw [BitVec.getLsbD_extractLsb']
  have h := @BitVec.getLsbD_append 8 8 i a b
  simp [hi, h]

/-- A word read after a write of the same word. -/
theorem setWord_word_self (m : Memory) (h : m.wf = true) (p : PageId) (w : WordIdx) (hi lo : Bool) (v : Word) :
    (m.setWord p w hi lo v).word p w = laneMerge hi lo v (m.word p w) := by
  rw [Memory.word, setWord_byte m h, setWord_byte m h, laneMerge]
  congr 1
  · cases hi <;> simp [Memory.word, high_of_append]
  · cases lo <;> simp [Memory.word, low_of_append]

/-- The address of a word names the word. -/
theorem wordAddress_inj {p q : PageId} {w x : WordIdx} (h : wordAddress p w = wordAddress q x) : p = q ∧ w = x := by
  have := w.isLt
  have := x.isLt
  unfold wordAddress at h
  exact ⟨by ext; omega, by ext; omega⟩

/-- A word read after a write of another word. -/
theorem setWord_word_ne (m : Memory) (h : m.wf = true) (p q : PageId) (w x : WordIdx) (hi lo : Bool) (v : Word)
    (hn : ¬(q = p ∧ x = w)) : (m.setWord p w hi lo v).word q x = m.word q x := by
  have hne : wordAddress q x ≠ wordAddress p w := fun e => hn ((wordAddress_inj e).imp id id)
  have hpar : ∀ (a b : PageId) (c d : WordIdx), wordAddress a c + 1 ≠ wordAddress b d := by
    intro a b c d
    unfold wordAddress
    omega
  rw [Memory.word, setWord_byte m h, setWord_byte m h, Memory.word]
  rw [if_neg (fun e => hpar _ _ _ _ e.1), if_neg (fun e => hne (by omega)), if_neg (fun e => hne e.1),
    if_neg (fun e => hpar _ _ _ _ e.1.symm)]

end Sys2Proof.Machine
end

