-- ==== Sys2Proof/Laws/PageMap.lean ====
section
/-! SUPPORT. The page map and the byte addresses agree: each handled word lies where its handler is looked up, and the
address of a word names that word. -/

namespace Sys2Proof.Machine

/-- The targets that a row of its own writes: every handled word but the part-owned entry of master 0. -/
def WriteTarget.hasRow : WriteTarget → Bool
  | .masterEntry m => m.val != 0
  | .plain => false
  | .unreached => false
  | _ => true

theorem targetOf_place_descriptor (p : PageId) :
    targetOf (WriteTarget.descriptor p).place.1 (WriteTarget.descriptor p).place.2 = .descriptor p := by
  by_cases h : p.val < 128
  · have : p.val % 128 = p.val := Nat.mod_eq_of_lt h
    simp [WriteTarget.place, targetOf, h, this]
  · have : 128 + p.val % 128 = p.val := by omega
    simp [WriteTarget.place, targetOf, h, this]

theorem targetOf_place_gate (g : GateId) (i : Fin 8) :
    targetOf (gateConfigPage g) (gateConfigWord g i) =
      if i.val = 0 then .serviceControl g else .gateConfig g ⟨i.val - 1, by omega⟩ := by
  have hg := g.isLt
  have hi := i.isLt
  have a : ¬(3 + g.val / 16 = 0) := by omega
  have b : ¬(3 + g.val / 16 = 1) := by omega
  have c : ¬(3 + g.val / 16 = 2) := by omega
  have d : 3 ≤ 3 + g.val / 16 ∧ 3 + g.val / 16 ≤ 5 := by omega
  have e : (8 * (g.val % 16) + i.val) % 8 = i.val := by omega
  have f : 16 * (3 + g.val / 16 - 3) + (8 * (g.val % 16) + i.val) / 8 = g.val := by omega
  simp only [targetOf, gateConfigPage, gateConfigWord, a, b, c, d, e, f, if_false, and_self, dif_pos]
  split <;> rfl

theorem targetOf_place_slot (g : GateId) (k : Fin 4) :
    targetOf (slotPage g) (slotWord g k) =
      if k.val = 0 then .order g else if k.val = 3 then .feedback g else .unreached := by
  revert g k; decide +kernel

theorem targetOf_place_reach (r : ReachId) (i : Fin 11) :
    targetOf (WriteTarget.reachWord r i).place.1 (WriteTarget.reachWord r i).place.2 = .reachWord r i := by
  revert r i; decide +kernel

theorem targetOf_place_condition (c : CondId) (i : Fin 2) :
    targetOf (WriteTarget.condition c i).place.1 (WriteTarget.condition c i).place.2 = .condition c i := by
  revert c i; decide +kernel

theorem targetOf_place_portalItem (p : PortalId) (i : Fin 125) :
    targetOf (WriteTarget.portalItem p i).place.1 (WriteTarget.portalItem p i).place.2 = .portalItem p i := by
  have hp := p.isLt
  have hi := i.isLt
  have a : ¬(17 + p.val = 0) := by omega
  have b : ¬(17 + p.val = 1) := by omega
  have c : ¬(17 + p.val = 2) := by omega
  have d : ¬(3 ≤ 17 + p.val ∧ 17 + p.val ≤ 5) := by omega
  have e : ¬(17 + p.val = 6) := by omega
  have f : ¬(17 + p.val = 7) := by omega
  have g : ¬(14 ≤ 17 + p.val ∧ 17 + p.val ≤ 15) := by omega
  have h : ¬(17 + p.val = 16) := by omega
  have j : 17 ≤ 17 + p.val ∧ 17 + p.val ≤ 20 := by omega
  have k : ¬(i.val + 1 = 0) := by omega
  have l : i.val + 1 < 126 := by omega
  simp only [WriteTarget.place, targetOf, portalPage, a, b, c, d, e, f, g, h, j, k, l, dif_neg, dif_pos, if_false,
    not_false_eq_true, and_self, Nat.add_sub_cancel, Nat.add_sub_cancel_left]

/-- The handler of a row's word is looked up where the row's word lies (Table 7-6, Tables 11-2 to 11-7). -/
theorem targetOf_place (x : WriteTarget) (h : x.hasRow = true) : targetOf x.place.1 x.place.2 = x := by
  cases x with
  | mode => rfl
  | lastDam => rfl
  | refreshInterval => rfl
  | keepMask => rfl
  | logReadIndex => rfl
  | alarmClear => rfl
  | masterEntry m => revert m; decide
  | descriptor p => exact targetOf_place_descriptor p
  | serviceControl g => exact targetOf_place_gate g 0
  | gateConfig g i =>
    refine (targetOf_place_gate g ⟨i.val + 1, by omega⟩).trans ?_
    simp
  | damDwell d k => revert d; cases k <;> decide
  | holdControl d => revert d; decide
  | refreshKeep d => revert d; decide
  | reachWord r i => exact targetOf_place_reach r i
  | matrix i => revert i; decide
  | portalConfig p i => revert p i; decide
  | condition c i => exact targetOf_place_condition c i
  | link l i => revert l i; decide +kernel
  | order g => exact (targetOf_place_slot g 0).trans rfl
  | feedback g => exact (targetOf_place_slot g 3).trans rfl
  | sensor r k => revert r; cases k <;> decide
  | statusWord n => revert n; decide
  | portalHeader p => revert p; decide
  | portalItem p i => exact targetOf_place_portalItem p i
  | plain => cases h
  | unreached => cases h

/-- The byte address of a word names its page, its index and its alignment (R121). -/
theorem address_of_byteAddress (q : PageId) (w : WordIdx) (odd : Bool) :
    addressPage (byteAddress q w odd) = q ∧ addressWord (byteAddress q w odd) = w ∧
      addressOdd (byteAddress q w odd) = odd := by
  have hq := q.isLt
  have hw := w.isLt
  have ho : odd.toNat ≤ 1 := by cases odd <;> decide
  have hn : (byteAddress q w odd).toNat = 256 * q.val + 2 * w.val + odd.toNat := by
    rw [byteAddress, BitVec.toNat_ofNat]
    omega
  refine ⟨?_, ?_, ?_⟩
  · ext; simp only [addressPage, hn]; omega
  · ext; simp only [addressWord, hn]; omega
  · rw [addressOdd, hn]
    cases odd <;> simp <;> omega

end Sys2Proof.Machine
end

