-- ==== Sys2Proof/Tests/Slice0.lean ====
section
/-! SUPPORT. Own tests: ill-formed commands are refused, the manual's worked figures, one-step effects on small states,
and for each statement with hypotheses a concrete state that meets them (`hyps_` theorems), clause by clause. -/

namespace Sys2Proof.Tests

set_option Elab.async false

open Sys2Proof.Machine

/-! ### Small states -/

/-- The part after its power-on pass: CONFIG, nothing in service, the store port free. -/
def ready : State :=
  { State.reset with dyn := { State.reset.dyn with passKind := none, running := none, powerOnUnfinished := false } }

/-- A state with its dynamic part changed. -/
def dynOf (s : State) (f : Dyn → Dyn) : State := { s with dyn := f s.dyn }

/-- A state with its configuration changed. -/
def tabOf (s : State) (f : Tables → Tables) : State := { s with tables := f s.tables }

/-- The same state in another mode. -/
def inMode (m : Mode) (s : State) : State := dynOf s fun p => { p with mode := m }

/-- The same state with a mirror write in progress, so that the arbiter grants nothing. -/
def busy (s : State) : State := dynOf s fun p => { p with running := some ⟨.summary, ownWrite 0 1 0⟩ }

/-- The same state with a job in progress. -/
def doing (j : Job) (a : Access) (s : State) : State := dynOf s fun p => { p with running := some ⟨j, a⟩ }

/-- A gate's configuration and record set. -/
def gateAt (g : GateId) (c : GateConfig) (x : Gate) (s : State) : State :=
  { s with
    tables := { s.tables with gates := Table.put s.tables.gates g c }
    dyn := { s.dyn with gates := Table.put s.dyn.gates g x } }

/-- A dam's record set. -/
def damAt (d : DamId) (x : Dam) (s : State) : State := dynOf s fun p => { p with dams := Table.put p.dams d x }

/-- A dam's dwells set. -/
def dwells (d : DamId) (warning recovery : Word) (s : State) : State :=
  tabOf s fun c => { c with dams := Table.put c.dams d ⟨warning, recovery, false⟩ }

/-- A reach's record set, with the limits of a level state that is not LOW or HIGH. -/
def reachAt (r : ReachId) (c : ReachConfig) (x : Reach) (s : State) : State :=
  { s with
    tables := { s.tables with reaches := Table.put s.tables.reaches r c }
    dyn := { s.dyn with reaches := Table.put s.dyn.reaches r x } }

/-- A link entry set. -/
def linkAt (l : LinkId) (x : Link) (s : State) : State :=
  tabOf s fun c => { c with links := Table.put c.links l x }

/-- A wicket gate of dam 0 that passes every check of R3. -/
def wicket : GateConfig :=
  { dam := 0, kind := .wicket, coefficient := 200, stepSize := 20, stepInterval := 30, lagLimit := 50, tolerance := 2,
    orderLevel := 0, openRef := 63, closeRef := 63 }

/-- A flood gate of dam 0 that passes every check of R3. -/
def flood : GateConfig := { wicket with kind := .flood }

/-- A gate's record in a state, with a target and a command. -/
def gateIn (st : GateState) (target command : Nat) : Gate :=
  { Gate.initial with state := st, target := target, command := command }

/-- In RUN, with gate 3 of dam 0 MOVING from 0 to 100 and not yet in the queue. -/
def moving : State := gateAt 3 wicket (gateIn .moving 100 0) (inMode .run ready)

/-- The same with the gate in the queue. -/
def queued : State := dynOf moving fun p => { p with queue := [3] }

/-- Dam 0 stepped open at tick 0, and the same-dam open after open interval is 5. -/
def staggered (s : State) : State :=
  tabOf (damAt 0 { Dam.initial with lastOpen := some 0 } s) fun c => { c with matrix := Table.put c.matrix 0 5 }

/-- Gate 3 needs condition 2 to open, and the condition, bit 0 of status word 0 set, is false. -/
def interlocked (s : State) : State :=
  tabOf s fun c => { c with
    gates := Table.put c.gates 3 { c.gates.get 3 with openRef := 2 }
    conditions := Table.put c.conditions 2 ⟨0, .anySet, 1⟩ }

/-- Gate 3 is held by that condition. -/
def lost : State :=
  interlocked (gateAt 3 wicket { gateIn .held 100 0 with causes := ⟨false, false, true⟩ } (inMode .run ready))

/-- A write by master 0 with both lanes on. -/
def word (data : Word) : BusWrite := ⟨0, false, true, true, data⟩

/-- The transaction that a bus command presents. -/
def trOf (i : Instr) : Transaction :=
  match i.transaction? with
  | some t => t
  | none => ⟨0, 0, 0, false, false, false, false, 0⟩

/-- The command's own outcome satisfies a test. -/
def gives (i : Instr) (s : State) (f : State → Bool) : Bool :=
  match exec i s with
  | .next t => f t
  | _ => false

/-! ### Checkers for the hypotheses -/

/-- The arbiter has nothing to grant. -/
def idleB (s : State) : Bool := s.dyn.running.isSome || noJobWaits s.dyn

theorem idle {s : State} (h : idleB s = true) : PortIdle s := by
  intro hr
  simpa [idleB, hr] using h

/-- A bus command that the port takes: it presents a transaction, none is in hand, and the access checks pass. -/
def takesB (i : Instr) (s : State) : Bool :=
  idleB s && (i.transaction?.isSome && (s.dyn.hand.isNone && (accessCheck s.tables s.dyn (trOf i)).isNone))

/-- The hypotheses that every statement about a bus command shares. -/
def Takes (i : Instr) (s : State) : Prop := PortIdle s ∧ Accepted i s (trOf i)

theorem takes {i : Instr} {s : State} (h : takesB i s = true) : Takes i s := by
  simp only [takesB, Bool.and_eq_true, Option.isNone_iff_eq_none] at h
  obtain ⟨hi, ht, hh, hc⟩ := h
  refine ⟨idle hi, ⟨?_, hh, (accessCheck_none_iff _ _ _).mp hc⟩⟩
  unfold trOf
  cases hx : i.transaction? with
  | none => simp [hx] at ht
  | some t => rfl

/-- The conditions on a gate record, as a check. -/
def soundB (x : Gate) (kind : GateKind) : Bool :=
  decide ((x.state = .outOfService → x.target = x.command ∧ x.causes.isEmpty = true ∧ x.lagTimer = .stopped) ∧
    (x.state = .closed → kind = .flood ∧ x.target = 0 ∧ x.command = 0) ∧
    (x.state = .settled → x.target = x.command ∧ (kind = .flood → 0 < x.command)) ∧
    (x.state = .moving → x.target ≠ x.command ∧ x.causes.isEmpty = true) ∧
    (x.state = .held → x.target ≠ x.command ∧ x.causes.isEmpty = false) ∧
    (x.state = .warning → kind = .flood ∧ x.command = 0 ∧ 0 < x.target) ∧
    (x.state = .recovering → kind = .flood ∧ x.command = 0) ∧
    (x.state = .faulted → x.target = x.command) ∧
    (x.causes.interlock = true → x.state = .held) ∧
    (x.recoveryTimer ≠ .stopped → x.state = .recovering))

/-- GatesSound as a check. -/
def gatesB (s : State) : Bool :=
  decide (s.dyn.queue.Nodup ∧
    ∀ g ∈ s.dyn.queue,
      (s.dyn.gates.get g).state = .moving ∧ (s.dyn.gates.get g).causes.isEmpty = true ∧ s.dyn.mode = .run) &&
  (List.finRange 48).all fun g => soundB (s.dyn.gates.get g) (s.tables.gates.get g).kind

theorem sound {s : State} (h : gatesB s = true) : GatesSound s := by
  simp only [gatesB, Bool.and_eq_true, decide_eq_true_eq, List.all_eq_true] at h
  refine ⟨h.1, fun g => ?_⟩
  have hg := h.2 g (List.mem_finRange g)
  simp only [soundB, decide_eq_true_eq] at hg
  obtain ⟨h1, h2, h3, h4, h5, h6, h7, h8, h9, h10⟩ := hg
  exact ⟨h1, h2, h3, h4, h5, h6, h7, h8, h9, h10⟩

/-- NothingDue as a check. -/
def quietB (s : State) : Bool :=
  decide ((∀ g, lagDue g s.tables s.dyn = false) ∧ (∀ g, recoveryDue g s.tables s.dyn = false) ∧
    (∀ d, dwellDue d s.tables s.dyn = false) ∧ (∀ r, sampleDue r .a s.tables s.dyn = false) ∧
    (∀ r, sampleDue r .b s.tables s.dyn = false) ∧ refreshDue s.tables s.dyn = false ∧
    (∀ g, grantTickDue g s.tables s.dyn = false) ∧ (∀ d, historyDue d .opening s.tables s.dyn = false) ∧
    (∀ d, historyDue d .closing s.tables s.dyn = false) ∧ ∀ g, joinable s.tables s.dyn g = false)

theorem quiet {s : State} (h : quietB s = true) : NothingDue s := by
  simp only [quietB, decide_eq_true_eq] at h
  obtain ⟨h1, h2, h3, h4, h5, h6, h7, h8, h9, h10⟩ := h
  exact ⟨h1, h2, h3, fun r k => by cases k <;> [exact h4 r; exact h5 r], h6, h7,
    fun d dir => by cases dir <;> [exact h8 d; exact h9 d], h10⟩

/-! ### Ill-formed commands -/

theorem test_wf_modeWriteConfig : (Instr.modeWriteConfig (word 1)).wellFormed = false := by decide +kernel
theorem test_wf_modeWriteRun : (Instr.modeWriteRun (word 0)).wellFormed = false := by decide +kernel
theorem test_wf_modeWriteHold : (Instr.modeWriteHold (word 1)).wellFormed = false := by decide +kernel
theorem test_wf_serviceEntry : (Instr.serviceEntry 3 (word 0)).wellFormed = false := by decide +kernel
theorem test_wf_serviceExit : (Instr.serviceExit 3 (word 1)).wellFormed = false := by decide +kernel
theorem test_wf_damHoldSet : (Instr.damHoldSet 0 (word 0)).wellFormed = false := by decide +kernel
theorem test_wf_damHoldClear : (Instr.damHoldClear 0 (word 1)).wellFormed = false := by decide +kernel
/-- Byte 0 is the mode word, which has rows of its own. -/
theorem test_wf_plainWrite : (Instr.plainWrite 0 0 true true 0).wellFormed = false := by decide +kernel
theorem test_wf_plainWrite_page40 : (Instr.plainWrite 10240 0 true true 0).wellFormed = true := by decide +kernel

/-! ### The manual's figures -/

/-- Table 7-3's descriptors and a gate's word 7 after a power-on reset, as Section 11 spells them. -/
theorem test_power_on_words :
    descriptorWord (Descriptor.powerOn 0) = 0xE010 ∧ descriptorWord (Descriptor.powerOn 14) = 0xF880 ∧
      descriptorWord (Descriptor.powerOn 21) = 0x8080 ∧ GateConfig.powerOn.word 6 = 0x3F3F ∧
      GateConfig.powerOn.word 0 = 0 := by decide +kernel

/-- The release example of 00_scope.md and those of 2.9. -/
theorem test_release : release 200 640 = 500 ∧ release 240 720 = 675 ∧ release 100 600 = 234 ∧
    release 255 1000 = 996 := by decide +kernel

/-- The CRC with generator x^16 + x^12 + x^5 + 1 over one word of zeros, started at FFFFh. -/
theorem test_crc : crc [0] = 0x1D0F := by decide +kernel

/-- Table 2-6. -/
theorem test_level_states :
    let c := { ReachConfig.powerOn with highMark := 850, lowMark := 300, hysteresis := 20 }
    nextLevelState c .unknown 840 = .normal ∧ nextLevelState c .normal 850 = .high ∧
      nextLevelState c .high 835 = .high ∧ nextLevelState c .high 829 = .normal ∧
      nextLevelState c .normal 299 = .low ∧ nextLevelState c .low 310 = .low ∧
      nextLevelState c .low 320 = .normal := by decide +kernel

/-- Openings in packed decimal: 640 is 0640h, and a digit above 9 does not decode. -/
theorem test_decimal : bcdWord 640 = 0x0640 ∧ decodeValue true 1000 0x0640 = some 640 ∧
    decodeValue true 1000 0x064A = none ∧ decodeValue true 1000 0x1001 = none := by decide +kernel

/-- The cascade of 2.9 before its first order. -/
def threeDams : State :=
  let g (d : BitVec 3) (k : BitVec 8) : GateConfig := { wicket with dam := d, coefficient := k }
  let r (c f s d k l : Word) : ReachConfig :=
    { ReachConfig.powerOn with ceiling := c, floor := f, surplus := s, draw := d, cutCeiling := k, lowDraw := l }
  let x (c d : Word) (st : LevelState) : Reach :=
    { Reach.initial ReachConfig.powerOn with levelState := st, ceff := c, deff := d }
  let s := gateAt 0 (g 0 200) (gateIn .settled 640 640) <| gateAt 1 (g 0 128) (gateIn .settled 500 500) <|
    gateAt 8 (g 1 240) (gateIn .settled 600 600) <| gateAt 9 (g 1 100) (gateIn .settled 300 300) <|
    gateAt 16 (g 2 255) (gateIn .settled 800 800) <|
    reachAt 0 (r 900 200 150 120 700 30) (x 900 120 .normal) <|
    reachAt 1 (r 1000 300 100 150 800 80) (x 800 150 .high) <|
    reachAt 2 (r 1200 400 0 0 900 0) (x 1200 0 .normal) (inMode .run ready)
  dynOf (tabOf s fun c => { c with lastDam := 2 }) fun p =>
    { p with totals := Table.put (Table.put (Table.put p.totals 0 750) 1 679) 2 796 }

/-- 2.9: gate 8 to 720 is admitted, and then gate 9 to 600 would be refused with CEILING, reach 1. -/
theorem test_bounds_across_dams :
    admissionCheck threeDams.tables threeDams.dyn.reaches threeDams.dyn.totals
        (orderTotals threeDams.tables threeDams.dyn 8 720) = none ∧
      ((orderTotals threeDams.tables threeDams.dyn 8 720).get 1).toNat = 792 ∧
      admissionCheck threeDams.tables threeDams.dyn.reaches (orderTotals threeDams.tables threeDams.dyn 8 720)
        (Table.put (orderTotals threeDams.tables threeDams.dyn 8 720) 1 909) = some (.ceiling, 1) := by decide +kernel

/-! ### The hypotheses of the statements about time -/

/-- Gate 3 of dam 0, held back by the stagger, stands in the queue ahead of gate 40 of dam 3. -/
def pair : State :=
  dynOf (gateAt 40 { wicket with dam := 3 } (gateIn .moving 100 0) (staggered queued)) fun p => { p with queue := [3, 40] }

/-- TICK: nothing due with an empty queue; two queued gates; one that is eligible; one that is not; one whose interlock is
false. -/
theorem hyps_tick :
    (PortIdle pair ∧ NothingDue pair ∧ GatesSound pair ∧ pair.dyn.queue.length = 2) ∧
    (PortIdle (interlocked queued) ∧ NothingDue (interlocked queued) ∧ (interlocked queued).dyn.queue = [3] ∧
      eligible (interlocked queued).tables { (interlocked queued).dyn with tick := 1 } 3 = true ∧
      falseCondition (interlocked queued).tables (interlocked queued).dyn.statusWords 3 .opening = some 2) ∧
    (PortIdle ready ∧ NothingDue ready ∧ ready.dyn.queue = []) ∧
    (PortIdle queued ∧ NothingDue queued ∧ queued.dyn.queue = [3] ∧ (queued.dyn.gates.get 3).state = .moving ∧
      falseCondition queued.tables queued.dyn.statusWords 3
        (directionTo (queued.dyn.gates.get 3).command (queued.dyn.gates.get 3).target) = none ∧
      eligible queued.tables { queued.dyn with tick := queued.dyn.tick + 1 } 3 = true) ∧
    PortIdle (staggered queued) ∧ NothingDue (staggered queued) ∧
      eligible (staggered queued).tables { (staggered queued).dyn with tick := 1 } 3 = false :=
  ⟨⟨idle (by decide +kernel), quiet (by decide +kernel), sound (by decide +kernel), rfl⟩,
    ⟨idle (by decide +kernel), quiet (by decide +kernel), by decide +kernel⟩,
    ⟨idle (by decide +kernel), quiet (by decide +kernel), rfl⟩,
    ⟨idle (by decide +kernel), quiet (by decide +kernel), by decide +kernel⟩,
    idle (by decide +kernel), quiet (by decide +kernel), by decide +kernel⟩

/-- One step: the scan passes over gate 3 and grants gate 40 its step (R83). -/
theorem test_scan :
    gives .tick (busy pair) (fun t =>
      t.dyn.queue == [3] && (t.dyn.gates.get 3).command == 0 && (t.dyn.gates.get 40).command == 20) = true := by
  decide +kernel

/-- The lag timer of gate 3 has reached its expiry arrival. -/
def lagging : State :=
  gateAt 3 wicket { gateIn .moving 100 20 with awaiting := true, lagTimer := .running 0 } (inMode .run ready)

theorem hyps_lag : PortIdle lagging ∧ (lagging.dyn.gates.get 3).lagTimer = .running 0 ∧
    (lagging.dyn.gates.get 3).inService = true :=
  ⟨idle (by decide +kernel), by decide +kernel⟩

/-- The recovery timer of flood gate 3 has reached its expiry arrival, with a target and hold causes. -/
def recovering (target : Nat) (cs : Causes) : State :=
  gateAt 3 flood { gateIn .recovering target 0 with recoveryTimer := .running 0, causes := cs }
    (damAt 0 { Dam.initial with warning := .sounded } (inMode .run ready))

/-- Target 0; a target above 0 with no hold cause, and with one. -/
theorem hyps_recovery :
    (PortIdle (recovering 0 ⟨false, false, false⟩) ∧
      ((recovering 0 ⟨false, false, false⟩).dyn.gates.get 3).target = 0 ∧
      ((recovering 0 ⟨false, false, false⟩).tables.gates.get 3).kind = .flood) ∧
    (PortIdle (recovering 1 ⟨false, false, false⟩) ∧ GatesSound (recovering 1 ⟨false, false, false⟩) ∧
      0 < ((recovering 1 ⟨false, false, false⟩).dyn.gates.get 3).target ∧
      ((recovering 1 ⟨false, false, false⟩).dyn.gates.get 3).causes.isEmpty = true) ∧
    PortIdle (recovering 1 ⟨false, true, false⟩) ∧ GatesSound (recovering 1 ⟨false, true, false⟩) ∧
      ((recovering 1 ⟨false, true, false⟩).dyn.gates.get 3).causes.isEmpty = false :=
  ⟨⟨idle (by decide +kernel), by decide +kernel⟩,
    ⟨idle (by decide +kernel), sound (by decide +kernel), by decide +kernel⟩,
    idle (by decide +kernel), sound (by decide +kernel), by decide +kernel⟩

/-- Dam 0's warning dwell has reached its expiry arrival, with flood gate 3 in WARNING. -/
def sounding (m : Mode) (cs : Causes) : State :=
  gateAt 3 flood { gateIn .warning 100 0 with causes := cs }
    (damAt 0 { Dam.initial with warning := .sounding, dwellTimer := .running 0 } (inMode m ready))

/-- The same in RUN with gate 7 in WARNING too, and dam 0's step at this tick holding both back. -/
def soundingTwo : State :=
  gateAt 7 flood (gateIn .warning 200 0)
    (damAt 0 { Dam.initial with warning := .sounding, dwellTimer := .running 0, lastOpen := some 0 }
      (staggered (sounding .run ⟨false, false, false⟩)))

/-- HOLD; RUN with no gate to release; RUN with two that are not eligible; RUN with one. -/
theorem hyps_dwell :
    (PortIdle soundingTwo ∧ GatesSound soundingTwo ∧ (soundingTwo.dyn.dams.get 0).dwellTimer = .running 0 ∧
      soundingTwo.dyn.mode = .run ∧
      ∀ g, g ∈ soundingTwo.dyn.queue ∨
        ((soundingTwo.tables.gates.get g).inDam 0 = true ∧ (soundingTwo.dyn.gates.get g).state = .warning) →
          eligible soundingTwo.tables soundingTwo.dyn g = false) ∧
    (PortIdle (sounding .hold ⟨true, false, false⟩) ∧ (sounding .hold ⟨true, false, false⟩).dyn.mode ≠ .run) ∧
    (PortIdle (sounding .run ⟨false, true, false⟩) ∧
      ∀ g, ((sounding .run ⟨false, true, false⟩).tables.gates.get g).inDam 0 = true →
        ((sounding .run ⟨false, true, false⟩).dyn.gates.get g).state = .warning →
        ((sounding .run ⟨false, true, false⟩).dyn.gates.get g).causes.isEmpty = false) ∧
    PortIdle (sounding .run ⟨false, false, false⟩) ∧ GatesSound (sounding .run ⟨false, false, false⟩) ∧
      ((sounding .run ⟨false, false, false⟩).dyn.dams.get 0).dwellTimer = .running 0 ∧
      (sounding .run ⟨false, false, false⟩).dyn.mode = .run ∧
      ((sounding .run ⟨false, false, false⟩).dyn.gates.get 3).state = .warning :=
  ⟨⟨idle (by decide +kernel), sound (by decide +kernel), by decide +kernel⟩,
    ⟨idle (by decide +kernel), by decide +kernel⟩, ⟨idle (by decide +kernel), by decide +kernel⟩,
    idle (by decide +kernel), sound (by decide +kernel), by decide +kernel⟩

/-- One step: the released gates join in ascending gate number (R76), and the warning line stays asserted. -/
theorem test_dwell_joins :
    gives (.warningDwellExpiry 0) (busy soundingTwo) (fun t => t.dyn.queue == [3, 7] && warnLine t.dyn 0) = true := by
  decide +kernel

/-- Sensor B of reach 5 was fresh and has reached its expiry arrival. -/
def expiring : State :=
  reachAt 5 .powerOn { Reach.initial .powerOn with b := ⟨840, .fresh, .running 0⟩, level := 840, levelState := .normal }
    ready

theorem hyps_sample : PortIdle expiring ∧ ((expiring.dyn.reaches.get 5).sample .b).timer = .running 0 :=
  ⟨idle (by decide +kernel), by decide +kernel⟩

/-- The refresh interval timer has reached its expiry arrival, in a mode at a debt; flood gate 3 of dam 0 is in service,
and dam 0 is kept in HOLD. -/
def due (m : Mode) (debt : Int) : State :=
  dynOf (tabOf (gateAt 3 wicket (gateIn .settled 0 0) (inMode m ready)) fun c =>
    { c with dams := Table.put c.dams 0 ⟨0, 0, true⟩ }) fun p => { p with refreshTimer := .running 0, debt := debt }

/-- The same with gate 3 out of service. -/
def noGate (s : State) : State := gateAt 3 wicket (gateIn .outOfService 0 0) s

/-- CONFIG and EXITING; HOLD with a refresh offered, and with none, of a dam with a gate and without; RUN at the debts -4,
6 and 7. -/
theorem hyps_refresh_interval :
    PortIdle (due .config 0) ∧ PortIdle (due .exiting 0) ∧
    PortIdle (dynOf (busy (due .hold 0)) fun p => { p with offer := some 0 }) ∧
    (PortIdle (due .hold 0) ∧ (due .hold 0).dyn.offer = none ∧ holdRefreshRunning (due .hold 0).dyn = false ∧
      keptDam (due .hold 0).tables (due .hold 0).dyn = some 0 ∧
      gatesOfDam (due .hold 0).tables (due .hold 0).dyn 0 = [3]) ∧
    (PortIdle (noGate (due .hold 0)) ∧ keptDam (noGate (due .hold 0)).tables (noGate (due .hold 0)).dyn = some 0 ∧
      gatesOfDam (noGate (due .hold 0)).tables (noGate (due .hold 0)).dyn 0 = []) ∧
    (PortIdle (due .run (-4)) ∧ (due .run (-4)).dyn.debt < 7 ∧ (due .run (-4)).dyn.offer = none) ∧
    (PortIdle (busy (due .run 6)) ∧ (busy (due .run 6)).dyn.debt < 7) ∧
    PortIdle (due .run 7) ∧ (due .run 7).dyn.refreshTimer = .running 0 ∧ (due .run 7).dyn.mode = .run ∧
      (due .run 7).dyn.debt = 7 :=
  ⟨idle (by decide +kernel), idle (by decide +kernel), idle (by decide +kernel),
    ⟨idle (by decide +kernel), by decide +kernel⟩, ⟨idle (by decide +kernel), by decide +kernel⟩,
    ⟨idle (by decide +kernel), by decide +kernel⟩, ⟨idle (by decide +kernel), by decide +kernel⟩,
    idle (by decide +kernel), by decide +kernel⟩

/-- Gate 3 joins: eligible; not eligible; eligible with its condition false. -/
theorem hyps_step_interval :
    (PortIdle moving ∧ moving.dyn.queue = [] ∧ joinable moving.tables moving.dyn 3 = true ∧
      (∀ h : GateId, h.val < 3 → joinable moving.tables moving.dyn h = false) ∧
      falseCondition moving.tables moving.dyn.statusWords 3 .opening = none ∧
      directionTo (moving.dyn.gates.get 3).command (moving.dyn.gates.get 3).target = .opening ∧
      eligible moving.tables moving.dyn 3 = true) ∧
    (PortIdle (staggered moving) ∧ (staggered moving).dyn.queue = [] ∧
      joinable (staggered moving).tables (staggered moving).dyn 3 = true ∧
      (∀ h : GateId, h.val < 3 → joinable (staggered moving).tables (staggered moving).dyn h = false) ∧
      falseCondition (staggered moving).tables (staggered moving).dyn.statusWords 3 .opening = none ∧
      eligible (staggered moving).tables (staggered moving).dyn 3 = false) ∧
    PortIdle (interlocked moving) ∧ (interlocked moving).dyn.queue = [] ∧
      joinable (interlocked moving).tables (interlocked moving).dyn 3 = true ∧
      (∀ h : GateId, h.val < 3 → joinable (interlocked moving).tables (interlocked moving).dyn h = false) ∧
      eligible (interlocked moving).tables (interlocked moving).dyn 3 = true ∧
      falseCondition (interlocked moving).tables (interlocked moving).dyn.statusWords 3 .opening = some 2 :=
  ⟨⟨idle (by decide +kernel), by decide +kernel⟩, ⟨idle (by decide +kernel), by decide +kernel⟩,
    idle (by decide +kernel), by decide +kernel⟩

/-- Records at tick 0 that are 65,535 ticks old, and at 65,534 not yet. -/
def old (now : BitVec 32) : State :=
  dynOf (damAt 5 { Dam.initial with lastOpen := some 0, lastClose := some 0 }
    (gateAt 47 wicket { gateIn .settled 0 0 with lastGrant := some 0 } ready)) fun p => { p with tick := now }

theorem hyps_aged :
    PortIdle (old 65535) ∧ aged (old 65535).dyn.tick ((old 65535).dyn.gates.get 47).lastGrant = true ∧
      aged (old 65535).dyn.tick ((old 65535).dyn.dams.get 5).lastOpen = true ∧
      aged (old 65535).dyn.tick ((old 65535).dyn.dams.get 5).lastClose = true ∧
      aged (old 65534).dyn.tick ((old 65534).dyn.gates.get 47).lastGrant = false ∧
      ∀ dir, aged (old 65534).dyn.tick (((old 65534).dyn.dams.get 5).lastStep dir) = false :=
  ⟨idle (by decide +kernel), by decide +kernel, by decide +kernel, by decide +kernel, by decide +kernel,
    fun dir => by cases dir <;> decide +kernel⟩

/-- Commands that the protocol excludes, each at a state of the tests above. -/
theorem hyps_untimely :
    ((Instr.order 3 (word 5)).transaction? = some (trOf (.order 3 (word 5))) ∧
      (dynOf ready fun p => { p with hand := some (trOf (.order 3 (word 5))) }).dyn.hand.isSome = true) ∧
    (ready.dyn.gates.get 3).lagTimer ≠ .running 0 ∧ (ready.dyn.gates.get 3).recoveryTimer ≠ .running 0 ∧
    (ready.dyn.dams.get 0).dwellTimer ≠ .running 0 ∧ ((ready.dyn.reaches.get 0).sample .a).timer ≠ .running 0 ∧
    ready.dyn.refreshTimer ≠ .running 0 ∧
    stepIntervalElapsed (gateAt 3 wicket { gateIn .moving 100 20 with lastGrant := some 0 } ready).tables
      (gateAt 3 wicket { gateIn .moving 100 20 with lastGrant := some 0 } ready).dyn 3 = false ∧
    ∀ r, State.reset.dyn.running = some r → r.job.isForwarded = false := by
  refine ⟨by decide +kernel, by decide +kernel, by decide +kernel, by decide +kernel, by decide +kernel,
    by decide +kernel, by decide +kernel, ?_⟩
  intro r hr
  cases hr
  rfl

/-! ### Passage on the station bus -/

/-- The state of 7.8: master 2 enabled at level 1, master 5 disabled, page 40 with limit 64 and write level 1. -/
def checked : State :=
  tabOf ready fun c => { c with
    masters := Table.put c.masters 2 ⟨true, 1⟩
    descriptors := Table.put c.descriptors 40 ⟨true, 0, 1, false, 64⟩ }

/-- The code of the first check that a transaction fails. -/
def checkOf (s : State) (i : Instr) : Option Code := firstFailing (accessTable s.tables s.dyn (trOf i))

/-- Table 7-8, its eight transactions; with lanes and levels as the table gives them. -/
theorem test_table_7_8 :
    checkOf checked (.stationBusRead 10240 5 true true) = some .masterOff ∧
    checkOf checked (.plainWrite 10243 2 false true 0) = some .misaligned ∧
    checkOf checked (.plainWrite 10380 2 true true 0) = some .beyondLimit ∧
    checkOf checked (.plainWrite 10260 2 false true 0) = none ∧
    checkOf checked (.plainWrite 768 2 true true 0) = some .level ∧
    checkOf checked (.plainWrite 3658 2 true true 0) = some .partOwned ∧
    checkOf checked (.plainWrite 3656 2 false true 0) = some .partialWrite ∧
    checkOf checked (.stationBusRead 2120 2 true true) = none := by decide +kernel

/-- The same row and address: gate 9's ORDER word lies at byte 3,656. -/
theorem test_order_address :
    (Instr.order 9 (word 5)).write? = some (.order 9, word 5) ∧
      byteAddress (WriteTarget.order 9).place.1 (WriteTarget.order 9).place.2 false = 3656 := by decide +kernel

/-- Page 3 given write level 3, and page 21 made not present: the checks that Table 7-8 does not show. -/
def opened : State :=
  tabOf checked fun c => { c with
    descriptors := Table.put (Table.put c.descriptors 3 ⟨true, 3, 3, false, 128⟩) 21 ⟨false, 0, 0, false, 128⟩ }

/-- A transaction refused at each check of Table 7-4 and at R127. -/
theorem hyps_access_checks :
    (PortIdle checked ∧ checked.dyn.hand = none ∧
      (Instr.stationBusRead 10240 5 true true).transaction? = some (trOf (.stationBusRead 10240 5 true true)) ∧
      checkOf checked (.stationBusRead 10240 5 true true) = some .masterOff) ∧
    (PortIdle State.reset ∧ State.reset.dyn.hand = none ∧
      checkOf State.reset (.stationBusRead 0 0 true true) = some .notReady) ∧
    checkOf opened (.stationBusRead 5376 0 true true) = some .notPresent ∧
    checkOf opened (.gateConfigWrite 0 0 { word 0 with master := 2 }) = some .level :=
  ⟨⟨idle (by decide +kernel), by decide +kernel⟩, ⟨idle (by decide +kernel), by decide +kernel⟩, by decide +kernel⟩

theorem hyps_forwarded :
    Takes (.stationBusRead 2120 0 true false) ready ∧
    ((Instr.plainWrite 10260 0 false true 7).wellFormed = true ∧ Takes (.plainWrite 10260 0 false true 7) ready) :=
  ⟨takes (by decide +kernel), by decide +kernel, takes (by decide +kernel)⟩

/-- One step: the store answers a READ of a word that nothing has written. -/
theorem test_forwarded_read :
    gives (.forwardedAccessComplete .ok)
      (dynOf (doing (.forwarded (trOf (.stationBusRead 2120 2 true true))) ⟨8, 36, false, true, true, 0⟩ ready)
        fun p => { p with hand := some (trOf (.stationBusRead 2120 2 true true)) })
      (fun t => t.dyn.answer == some ⟨2, .doneRead 0⟩ && t.dyn.hand.isNone) = true := by decide +kernel

/-! ### Configuration and control words -/

/-- The access checks refuse it; the gate is OUT_OF_SERVICE; it is in service. -/
theorem hyps_gate_config :
    (PortIdle State.reset ∧ (Instr.gateConfigWrite 47 6 (word 0x3F3F)).transaction?.isSome = true ∧
      ¬ Passes State.reset.tables State.reset.dyn (trOf (.gateConfigWrite 47 6 (word 0x3F3F)))) ∧
    (Takes (.gateConfigWrite 47 0 (word 0x105)) ready ∧ (ready.dyn.gates.get 47).state = .outOfService) ∧
    Takes (.gateConfigWrite 3 6 (word 0)) moving ∧ (moving.dyn.gates.get 3).state ≠ .outOfService :=
  ⟨⟨idle (by decide +kernel), by decide +kernel, fun h => absurd h.ready (by decide +kernel)⟩,
    ⟨takes (by decide +kernel), by decide +kernel⟩, takes (by decide +kernel), by decide +kernel⟩

/-- One step: a taken write of word 1 of gate 47's record. -/
theorem test_gate_config :
    gives (.gateConfigWrite 47 0 (word 0x105)) ready (fun t => t.tables.gates.get 47 ==
      { GateConfig.powerOn with kind := .flood, dam := 5 }) = true := by decide +kernel

/-- The refresh keep word at 1 and 2, the refresh interval at 1 and 0, the log read index at 63 and 64. -/
theorem hyps_dam_and_control :
    Takes (.damDwellWrite 5 .warning (word 0)) ready ∧ Takes (.damDwellWrite 5 .recovery (word 65535)) ready ∧
    (Takes (.refreshKeepWrite 0 (word 1)) ready ∧ (1 : Word).toNat ≤ 1) ∧
    (Takes (.refreshKeepWrite 0 (word 2)) ready ∧ 1 < (2 : Word).toNat) ∧ Takes (.keepMaskWrite (word 0x3F)) ready ∧
    (Takes (.refreshIntervalWrite (word 1)) ready ∧ (1 : Word) ≠ 0) ∧ Takes (.refreshIntervalWrite (word 0)) ready ∧
    (Takes (.logReadIndexWrite (word 63)) ready ∧ (63 : Word).toNat ≤ 63) ∧
    (Takes (.logReadIndexWrite (word 64)) ready ∧ 63 < (64 : Word).toNat) ∧
    Takes (.masterEntryWrite 6 (word 0x8001)) ready :=
  ⟨takes (by decide +kernel), takes (by decide +kernel), ⟨takes (by decide +kernel), by decide⟩,
    ⟨takes (by decide +kernel), by decide⟩, takes (by decide +kernel), ⟨takes (by decide +kernel), by decide⟩,
    takes (by decide +kernel), ⟨takes (by decide +kernel), by decide⟩, ⟨takes (by decide +kernel), by decide⟩,
    takes (by decide +kernel)⟩

/-- One step: the keep mask keeps its six flags. -/
theorem test_keep_mask :
    gives (.keepMaskWrite (word 0xFFE1)) ready (fun t => t.tables.keepMask == 0x21) = true := by decide +kernel

/-- The alarm clear word by a master of level 3, and the place of its word in the power-on pass. -/
theorem hyps_alarm_clear :
    Takes (.alarmClearWrite (word 5)) ready ∧
      (passAccess Tables.powerOn State.reset.dyn .powerOn 7).page = 0 ∧
      (passAccess Tables.powerOn State.reset.dyn .powerOn 7).word = 7 :=
  ⟨takes (by decide +kernel), by decide +kernel⟩

/-- Page 20 without its fixed limit, page 17 decimal, page 21 with limits 0 and 129; page 255 with limits 1 and 128. -/
theorem hyps_descriptor :
    (¬ Passes State.reset.tables State.reset.dyn (trOf (.descriptorWrite 0 (word 0))) ∧
      (Instr.descriptorWrite 0 (word 0)).transaction?.isSome = true) ∧
    (Takes (.descriptorWrite 20 (word 0x807F)) ready ∧
      firstFailing (descriptorTable 20 0x807F) = some .fixedField ∧
      firstFailing (descriptorTable 17 0x8480) = some .badConfig ∧
      firstFailing (descriptorTable 21 0x8000) = some .badConfig ∧
      firstFailing (descriptorTable 21 0x8081) = some .badConfig) ∧
    Takes (.descriptorWrite 255 (word 0x8001)) ready ∧ firstFailing (descriptorTable 255 0x8001) = none ∧
      firstFailing (descriptorTable 255 0x8080) = none :=
  ⟨⟨fun h => absurd h.ready (by decide +kernel), by decide +kernel⟩, ⟨takes (by decide +kernel), by decide +kernel⟩,
    takes (by decide +kernel), by decide +kernel⟩

/-- Maximum count 0 and 1; words 16, 17 and 125 of the page. -/
theorem hyps_portal_words :
    (Takes (.portalConfigWrite 3 0 (word 0x8010)) ready ∧ (0x8010 : Word).extractLsb' 0 4 = 0) ∧
    (Takes (.portalConfigWrite 3 0 (word 0x8001)) ready ∧ (0x8001 : Word).extractLsb' 0 4 ≠ 0) ∧
    Takes (.portalConfigWrite 3 1 (word 0x3F)) ready ∧
    (Takes (.portalItemWrite 0 15 (word 7)) ready ∧ (ready.dyn.portals.get 0).busy = false) ∧
    Takes (.portalItemWrite 0 16 (word 7)) ready ∧ Takes (.portalItemWrite 0 124 (word 7)) ready :=
  ⟨⟨takes (by decide +kernel), by decide +kernel⟩, ⟨takes (by decide +kernel), by decide +kernel⟩,
    takes (by decide +kernel), ⟨takes (by decide +kernel), by decide +kernel⟩, takes (by decide +kernel),
    takes (by decide +kernel)⟩

/-- A link kind of 11, an index of 6 for a level event, an action of 5 and an alarm 4 are refused; ALARM 3 is not. -/
theorem hyps_link_entry :
    (Takes (.linkEntryWrite 15 0 (word 0x0B3F)) ready ∧ linkRefused 11 63 0 0 = true) ∧
    (Takes (.linkEntryWrite 15 0 (word 0x0006)) ready ∧ linkRefused 0 6 0 0 = true ∧ linkRefused 0 5 0 0 = false) ∧
    (Takes (.linkEntryWrite 15 1 (word 0x0403)) ready ∧ linkRefused 0 0 4 3 = false) ∧
    linkRefused 0 0 4 4 = true ∧ linkRefused 0 0 5 0 = true ∧ linkRefused 9 0 0 0 = true ∧
    linkRefused 10 3 1 5 = false ∧ linkRefused 10 4 0 0 = true ∧ linkRefused 8 47 0 0 = false ∧
    linkRefused 8 48 0 0 = true ∧ linkRefused 0 0 1 6 = true :=
  ⟨⟨takes (by decide +kernel), by decide +kernel⟩, ⟨takes (by decide +kernel), by decide +kernel⟩,
    ⟨takes (by decide +kernel), by decide +kernel⟩, by decide +kernel⟩

/-! ### Gates and dams -/

/-- Gate 3 out of service with its feedback known, at a dam in a warning state. -/
def feedbackAt (c : GateConfig) (v : Nat) (st : Warning) : State :=
  gateAt 3 c { Gate.initial with feedback := v, feedbackKnown := true }
    (damAt 0 { Dam.initial with warning := st } (inMode .run ready))

theorem fits_wicket : RecordFits wicket 0 :=
  ⟨by decide, by decide, by decide, by decide, by decide, by decide, by decide⟩

theorem fits_flood : RecordFits flood 0 :=
  ⟨by decide, by decide, by decide, by decide, by decide, by decide, by decide⟩

/-- A wicket gate; an open flood gate at a SILENT dam, and at a SOUNDING one. -/
theorem hyps_service_entry :
    (Takes (.serviceEntry 3 (word 1)) (feedbackAt wicket 0 .silent) ∧ GatesSound (feedbackAt wicket 0 .silent) ∧
      ((feedbackAt wicket 0 .silent).dyn.gates.get 3).state = .outOfService ∧
      RecordFits ((feedbackAt wicket 0 .silent).tables.gates.get 3) (feedbackAt wicket 0 .silent).tables.lastDam ∧
      ((feedbackAt wicket 0 .silent).dyn.gates.get 3).feedbackKnown = true) ∧
    Takes (.serviceEntry 3 (word 1)) (feedbackAt flood 1000 .silent) ∧
    RecordFits ((feedbackAt flood 1000 .silent).tables.gates.get 3) (feedbackAt flood 1000 .silent).tables.lastDam ∧
    0 < ((feedbackAt flood 1000 .silent).dyn.gates.get 3).feedback ∧
    Takes (.serviceEntry 3 (word 1)) (feedbackAt flood 1 .sounding) ∧ GatesSound (feedbackAt flood 1 .sounding) ∧
    ((feedbackAt flood 1 .sounding).dyn.dams.get 0).warning = .sounding :=
  ⟨⟨takes (by decide +kernel), sound (by decide +kernel), by decide +kernel, fits_wicket, by decide +kernel⟩,
    takes (by decide +kernel), fits_flood, by decide +kernel, takes (by decide +kernel), sound (by decide +kernel),
    by decide +kernel⟩

/-- One step: an open flood gate adopts its feedback and its dam is SOUNDED (R4, R22). -/
theorem test_service_entry :
    gives (.serviceEntry 3 (word 1)) (busy (feedbackAt flood 640 .silent)) (fun t =>
      (t.dyn.gates.get 3).state == .settled && (t.dyn.gates.get 3).command == 640 &&
        t.dyn.totals.get 0 == 500 && (t.dyn.dams.get 0).warning == .sounded) = true := by decide +kernel

/-- The value 2; ON in service; OFF out of service; a record that fails a check; feedback not known. -/
theorem hyps_service_without_effect :
    (Takes (.serviceEntry 3 (word 2)) ready ∧ 1 < (word 2).data.toNat) ∧
    (Takes (.serviceExit 3 (word 2)) ready ∧ 1 < (word 2).data.toNat) ∧
    (Takes (.serviceEntry 3 (word 1)) moving ∧ (moving.dyn.gates.get 3).state ≠ .outOfService) ∧
    (Takes (.serviceExit 3 (word 0)) ready ∧ (ready.dyn.gates.get 3).state = .outOfService) ∧
    (Takes (.serviceEntry 3 (word 1)) ready ∧ ¬ RecordFits (ready.tables.gates.get 3) ready.tables.lastDam) ∧
    Takes (.serviceEntry 3 (word 1)) (gateAt 3 wicket .initial ready) ∧
      RecordFits ((gateAt 3 wicket .initial ready).tables.gates.get 3) (gateAt 3 wicket .initial ready).tables.lastDam ∧
      ((gateAt 3 wicket .initial ready).dyn.gates.get 3).feedbackKnown = false :=
  ⟨⟨takes (by decide +kernel), by decide⟩, ⟨takes (by decide +kernel), by decide⟩,
    ⟨takes (by decide +kernel), by decide +kernel⟩, ⟨takes (by decide +kernel), by decide +kernel⟩,
    ⟨takes (by decide +kernel), fun h => absurd h.stepInterval (by decide +kernel)⟩, takes (by decide +kernel),
    fits_wicket, by decide +kernel⟩

theorem hyps_service_exit :
    Takes (.serviceExit 3 (word 0)) queued ∧ (word 0).data = 0 ∧ (queued.dyn.gates.get 3).state ≠ .outOfService :=
  ⟨takes (by decide +kernel), rfl, by decide +kernel⟩

/-- One step: the gate leaves the queue and its target is its command (R5). -/
theorem test_service_exit :
    gives (.serviceExit 3 (word 0)) (busy queued) (fun t =>
      (t.dyn.gates.get 3).state == .outOfService && (t.dyn.gates.get 3).target == 0 && t.dyn.queue == []) = true := by
  decide +kernel

/-- Dam 0's hold flag is set, and gate 3 is held by it alone. -/
def damHeld : State :=
  gateAt 3 wicket { gateIn .held 100 0 with causes := ⟨false, true, false⟩ }
    (damAt 0 { Dam.initial with hold := true } (inMode .run ready))

/-- The same while the gate waits for its feedback to settle. -/
def damHeldWaiting : State :=
  gateAt 3 wicket { gateIn .held 100 20 with causes := ⟨false, true, false⟩, awaiting := true } damHeld

/-- Set with a value of 2; set already; clear before; cleared already; held by others or waiting; released. -/
theorem hyps_dam_hold :
    (Takes (.damHoldSet 0 (word 2)) moving ∧ Takes (.damHoldClear 0 (word 2)) moving) ∧
    (Takes (.damHoldSet 0 (word 1)) damHeld ∧ (damHeld.dyn.dams.get 0).hold = true) ∧
    (Takes (.damHoldSet 0 (word 1)) queued ∧ (queued.dyn.dams.get 0).hold = false) ∧
    (Takes (.damHoldClear 0 (word 0)) moving ∧ GatesSound moving ∧ (moving.dyn.dams.get 0).hold = false) ∧
    (Takes (.damHoldClear 0 (word 0)) damHeldWaiting ∧ GatesSound damHeldWaiting ∧
      (damHeldWaiting.dyn.dams.get 0).hold = true ∧
      ∀ g, (damHeldWaiting.dyn.gates.get g).state = .held → NotYet damHeldWaiting g) ∧
    Takes (.damHoldClear 0 (word 0)) damHeld ∧ GatesSound damHeld ∧ (damHeld.dyn.dams.get 0).hold = true ∧
      ∀ l, (damHeld.tables.links.get l).action = .none :=
  ⟨⟨takes (by decide +kernel), takes (by decide +kernel)⟩, ⟨takes (by decide +kernel), by decide +kernel⟩,
    ⟨takes (by decide +kernel), by decide +kernel⟩,
    ⟨takes (by decide +kernel), sound (by decide +kernel), by decide +kernel⟩,
    ⟨takes (by decide +kernel), sound (by decide +kernel), by decide +kernel, by unfold NotYet; decide +kernel⟩,
    takes (by decide +kernel), sound (by decide +kernel), by decide +kernel⟩

/-- One step: the released gate joins the queue and is granted a step of 20. -/
theorem test_dam_hold_clear :
    gives (.damHoldClear 0 (word 0)) (busy damHeld) (fun t =>
      (t.dyn.gates.get 3).state == .moving && (t.dyn.gates.get 3).command == 20 && t.dyn.queue == []) = true := by
  decide +kernel

/-- Gate 3 awaits settle at command 20 with tolerance 2. -/
def awaiting (grant : Option (BitVec 32)) : State :=
  gateAt 3 wicket
    { gateIn .moving 100 20 with awaiting := true, lagTimer := .running 40, lastGrant := grant } (inMode .run ready)

/-- The same behind gate 4 in the queue, where dam 0's step at this tick holds both back. -/
def awaitingBehind : State :=
  dynOf (staggered (gateAt 4 wicket (gateIn .moving 100 0) (awaiting none))) fun p => { p with queue := [4] }

/-- 1001 does not decode; 23 does not agree; 22 agrees before the interval has run, and after; the gate joins behind
another with none eligible; it joins an empty queue with its condition false. -/
theorem hyps_feedback :
    (Takes (.feedbackWrite 3 (word 1001)) (awaiting none) ∧ GatesSound (awaiting none) ∧
      decodeValue ((awaiting none).tables.descriptors.get (slotPage 3)).decimal 1000 1001 = none) ∧
    (Takes (.feedbackWrite 3 (word 23)) (awaiting none) ∧ ¬(23 ≤ 20 + wicket.tolerance.toNat)) ∧
    (Takes (.feedbackWrite 3 (word 22)) (awaiting (some 0)) ∧ GatesSound (awaiting (some 0)) ∧
      22 ≤ 20 + wicket.tolerance.toNat ∧
      stepIntervalElapsed (awaiting (some 0)).tables (awaiting (some 0)).dyn 3 = false) ∧
    (Takes (.feedbackWrite 3 (word 22)) awaitingBehind ∧ GatesSound awaitingBehind ∧
      stepIntervalElapsed awaitingBehind.tables awaitingBehind.dyn 3 = true ∧ 3 ∉ awaitingBehind.dyn.queue ∧
      ∀ h, h ∈ awaitingBehind.dyn.queue ∨ h = 3 → eligible awaitingBehind.tables awaitingBehind.dyn h = false) ∧
    (Takes (.feedbackWrite 3 (word 22)) (interlocked (awaiting none)) ∧ GatesSound (interlocked (awaiting none)) ∧
      (interlocked (awaiting none)).dyn.queue = [] ∧
      eligible (interlocked (awaiting none)).tables (interlocked (awaiting none)).dyn 3 = true ∧
      falseCondition (interlocked (awaiting none)).tables (interlocked (awaiting none)).dyn.statusWords 3 .opening =
        some 2) ∧
    Takes (.feedbackWrite 3 (word 18)) (awaiting none) ∧ 20 ≤ 18 + wicket.tolerance.toNat ∧
      ((awaiting none).dyn.gates.get 3).inService = true ∧
      stepIntervalElapsed (awaiting none).tables (awaiting none).dyn 3 = true ∧
      (awaiting none).dyn.queue = [] ∧
      falseCondition (awaiting none).tables (awaiting none).dyn.statusWords 3 .opening = none :=
  ⟨⟨takes (by decide +kernel), sound (by decide +kernel), by decide +kernel⟩,
    ⟨takes (by decide +kernel), by decide +kernel⟩,
    ⟨takes (by decide +kernel), sound (by decide +kernel), by decide +kernel⟩,
    ⟨takes (by decide +kernel), sound (by decide +kernel), by decide +kernel⟩,
    ⟨takes (by decide +kernel), sound (by decide +kernel), by decide +kernel⟩, takes (by decide +kernel),
    by decide +kernel⟩

/-- One step each: the gate joins at the tail, and it is held by its interlock (R77, R82). -/
theorem test_feedback :
    gives (.feedbackWrite 3 (word 22)) (busy awaitingBehind) (fun t => t.dyn.queue == [4, 3]) = true ∧
    gives (.feedbackWrite 3 (word 22)) (busy (interlocked (awaiting none))) (fun t =>
      t.dyn.queue == [] && (t.dyn.gates.get 3).state == .held &&
        t.dyn.logBuffer.any fun r => r.code == 6 && r.detail == 2) = true := by decide +kernel

/-! ### Levels, the last dam, the scheduler -/

/-- 10,000 does not decode; 9999 does, with a sample timeout of 0 and of 1. -/
theorem hyps_sensor :
    (Takes (.sensorWrite 5 .b (word 10000)) ready ∧
      decodeValue (ready.tables.descriptors.get 16).decimal 9999 10000 = none) ∧
    Takes (.sensorWrite 5 .b (word 9999)) ready ∧
      decodeValue (ready.tables.descriptors.get 16).decimal 9999 9999 = some 9999 :=
  ⟨⟨takes (by decide +kernel), by decide +kernel⟩, takes (by decide +kernel), by decide +kernel⟩

/-- One step: a fresh sample at the high mark takes the reach from NORMAL to HIGH, where the cut ceiling is in force. -/
theorem test_sensor :
    gives (.sensorWrite 0 .a (word 850))
      (busy (reachAt 0
        { ReachConfig.powerOn with ceiling := 900, cutCeiling := 700, highMark := 850, sampleTimeout := 10 }
        { Reach.initial .powerOn with levelState := .normal, ceff := 900 } ready))
      (fun t => (t.dyn.reaches.get 0).levelState == .high && (t.dyn.reaches.get 0).ceff == 700 &&
        (t.dyn.reaches.get 0).a == ⟨850, .fresh, .running 10⟩) = true := by decide +kernel

/-- One step: a level that cuts the ceiling below the total raises BOUND_EXCEEDED, and its link sets alarm 2 (R37). -/
theorem test_bound_exceeded :
    gives (.sensorWrite 0 .a (word 850))
      (busy (linkAt 4 ⟨.boundExceeded, 63, .alarm, 2⟩ (dynOf (reachAt 0
        { ReachConfig.powerOn with ceiling := 900, cutCeiling := 700, highMark := 850, sampleTimeout := 10 }
        { Reach.initial .powerOn with levelState := .high, ceff := 900 } ready)
        fun p => { p with totals := Table.put p.totals 0 750 })))
      (fun t => (t.dyn.reaches.get 0).exceeded && alarmLine t.dyn 2 &&
        t.dyn.logBuffer.any fun r => r.code == 4 && r.qualifier == 0 && r.value == 750 && r.detail == 700) = true := by
  decide +kernel

/-- R81 between dams: a step of dam 1 holds a gate of dam 0 back for the adjacent interval. -/
theorem test_eligible :
    eligibleFor (tabOf moving fun c => { c with matrix := Table.put c.matrix 4 5 }).tables
      (damAt 1 { Dam.initial with lastOpen := some 0 } moving).dyn 3 .opening = false ∧
    eligibleFor (tabOf moving fun c => { c with matrix := Table.put c.matrix 4 5 }).tables
      { (damAt 1 { Dam.initial with lastOpen := some 0 } moving).dyn with tick := 5 } 3 .opening = true := by
  decide +kernel

/-- Words 6 and 9 above 9999, word 10, words 0 and 5, and words 6 and 9 at 9999. -/
theorem hyps_reach_record :
    (Takes (.reachRecordWrite 5 6 (word 10000)) ready ∧ Takes (.reachRecordWrite 5 9 (word 10000)) ready ∧
      9999 < (10000 : Word).toNat) ∧
    Takes (.reachRecordWrite 5 10 (word 65535)) ready ∧ Takes (.reachRecordWrite 0 0 (word 65535)) ready ∧
    Takes (.reachRecordWrite 0 5 (word 65535)) ready ∧ Takes (.reachRecordWrite 0 6 (word 9999)) ready ∧
    Takes (.reachRecordWrite 0 9 (word 9999)) ready :=
  ⟨⟨takes (by decide +kernel), takes (by decide +kernel), by decide⟩, takes (by decide +kernel),
    takes (by decide +kernel), takes (by decide +kernel), takes (by decide +kernel), takes (by decide +kernel)⟩

/-- L written with 6, unchanged, in RUN, below an in-service gate's dam, and with 5. -/
theorem hyps_last_dam :
    Takes (.lastDamWrite (word 6)) ready ∧ Takes (.lastDamWrite (word 0)) ready ∧
    (Takes (.lastDamWrite (word 1)) moving ∧ moving.dyn.mode ≠ .config) ∧
    (Takes (.lastDamWrite (word 1)) (inMode .config threeDams) ∧
      ((inMode .config threeDams).dyn.gates.get 16).inService = true ∧
      1 < ((inMode .config threeDams).tables.gates.get 16).dam.toNat) ∧
    Takes (.lastDamWrite (word 5)) (inMode .config threeDams) ∧ (5 : DamId) ≠ (inMode .config threeDams).tables.lastDam ∧
      ∀ g, ((inMode .config threeDams).dyn.gates.get g).inService = true →
        ((inMode .config threeDams).tables.gates.get g).dam.toNat ≤ 5 :=
  ⟨takes (by decide +kernel), takes (by decide +kernel), ⟨takes (by decide +kernel), by decide +kernel⟩,
    ⟨takes (by decide +kernel), by decide +kernel⟩, takes (by decide +kernel), by decide +kernel⟩

/-- The interval that holds queued gate 3 back written with 1 and with 0. -/
theorem hyps_stagger :
    (Takes (.staggerMatrixWrite 0 (word 1)) (staggered queued) ∧
      ∀ g ∈ (staggered queued).dyn.queue,
        eligible { (staggered queued).tables with matrix := Table.put (staggered queued).tables.matrix 0 1 }
          (staggered queued).dyn g = false) ∧
    GatesSound (staggered queued) ∧
    Takes (.staggerMatrixWrite 0 (word 0)) (staggered queued) ∧ (staggered queued).dyn.queue = [3] ∧
      ((staggered queued).dyn.gates.get 3).state = .moving ∧
      eligible { (staggered queued).tables with matrix := Table.put (staggered queued).tables.matrix 0 0 }
        (staggered queued).dyn 3 = true ∧
      falseCondition (staggered queued).tables (staggered queued).dyn.statusWords 3 .opening = none :=
  ⟨⟨takes (by decide +kernel), by decide +kernel⟩, sound (by decide +kernel), takes (by decide +kernel),
    by decide +kernel⟩

/-! ### Interlocks and orders -/

/-- Gate 3 is held by a false condition; in CONFIG it can join at no event. -/
theorem hyps_status_and_condition :
    Takes (.statusWordWrite 0 (word 1)) lost ∧ GatesSound lost ∧
    Takes (.interlockConditionWrite 2 1 (word 0)) lost ∧
    (Takes (.statusWordWrite 0 (word 1)) (inMode .config lost) ∧ GatesSound (inMode .config lost) ∧
      ∀ g, NotYet (inMode .config lost) g) :=
  ⟨takes (by decide +kernel), sound (by decide +kernel), takes (by decide +kernel), takes (by decide +kernel),
    sound (by decide +kernel), by unfold NotYet; decide +kernel⟩

/-- One step: the station status word turns the condition true and the held gate moves on. -/
theorem test_status_word :
    gives (.statusWordWrite 0 (word 1)) (busy lost) (fun t =>
      (t.dyn.gates.get 3).causes.isEmpty && (t.dyn.gates.get 3).command == 20) = true := by decide +kernel

/-- Gate 3 in service at rest at dam 0, whose reach admits totals up to 1000, in RUN. -/
def settled : State :=
  gateAt 3 wicket (gateIn .settled 0 0)
    (reachAt 0 { ReachConfig.powerOn with ceiling := 1000, cutCeiling := 1000 }
      { Reach.initial .powerOn with ceff := 1000 } (inMode .run ready))

/-- NOT_RUNNING, BAD_DIGIT, GATE_STATE, ORDER_LEVEL, INTERLOCK with its condition, and CEILING with its reach. -/
theorem hyps_order_refused :
    (Takes (.order 3 (word 5)) ready ∧
      firstFailing (orderTable ready.tables ready.dyn 0 3 (some 5)) = some .notRunning) ∧
    (Takes (.order 3 (word 1001)) settled ∧ decodeValue (settled.tables.descriptors.get 14).decimal 1000 1001 = none ∧
      firstFailing (orderTable settled.tables settled.dyn 0 3 none) = some .badDigit) ∧
    (Takes (.order 4 (word 5)) settled ∧
      firstFailing (orderTable settled.tables settled.dyn 0 4 (some 5)) = some .gateState) ∧
    (Takes (.order 3 { word 5 with master := 2 }) (tabOf settled fun c => { c with
        masters := Table.put c.masters 2 ⟨true, 1⟩ }) ∧
      firstFailing (orderTable (tabOf settled fun c => { c with masters := Table.put c.masters 2 ⟨true, 1⟩ }).tables
        settled.dyn 2 3 (some 5)) = some .orderLevel) ∧
    (Takes (.order 3 (word 1000)) (interlocked settled) ∧
      decodeValue ((interlocked settled).tables.descriptors.get (slotPage 3)).decimal 1000 1000 = some 1000 ∧
      firstFailing (orderTable (interlocked settled).tables settled.dyn 0 3 (some 1000)) = some .interlock ∧
      ((falseCondition (interlocked settled).tables settled.dyn.statusWords 3 .opening).map (·.val)).getD 0 = 2) ∧
    Takes (.order 9 (word 1000)) threeDams ∧
      decodeValue (threeDams.tables.descriptors.get (slotPage 9)).decimal 1000 1000 = some 1000 ∧
      firstFailing (orderTable threeDams.tables threeDams.dyn 0 9 (some 1000)) = none ∧
      1000 ≠ (threeDams.dyn.gates.get 9).target ∧
      admissionCheck threeDams.tables threeDams.dyn.reaches threeDams.dyn.totals
        (orderTotals threeDams.tables threeDams.dyn 9 1000) = some (.ceiling, 1) :=
  ⟨⟨takes (by decide +kernel), by decide +kernel⟩, ⟨takes (by decide +kernel), by decide +kernel⟩,
    ⟨takes (by decide +kernel), by decide +kernel⟩, ⟨takes (by decide +kernel), by decide +kernel⟩,
    ⟨takes (by decide +kernel), by decide +kernel⟩, takes (by decide +kernel), by decide +kernel⟩

theorem hyps_order_without_change :
    Takes (.order 3 (word 0)) settled ∧
      decodeValue (settled.tables.descriptors.get (slotPage 3)).decimal 1000 0 = some (settled.dyn.gates.get 3).target ∧
      settled.dyn.mode = .run ∧ (settled.dyn.gates.get 3).state = .settled ∧
      (settled.tables.masters.get 0).level.toNat ≤ (settled.tables.gates.get 3).orderLevel.toNat ∧
    Takes (.order 3 (word 0)) (inMode .hold settled) ∧ (settled.tables.masters.get 0).level = 0 :=
  ⟨takes (by decide +kernel), by decide +kernel, by decide +kernel, by decide +kernel, by decide +kernel,
    takes (by decide +kernel), by decide +kernel⟩

/-- What every clause of the statement on committed orders asks, as a check: an order of gate 3 of dam 0 to v. -/
def commitsB (s : State) (v : Nat) : Bool :=
  decide (decodeValue (s.tables.descriptors.get (slotPage 3)).decimal 1000 (BitVec.ofNat 16 v) = some v ∧
    (s.tables.gates.get 3).inDam 0 = true ∧ firstFailing (orderTable s.tables s.dyn 0 3 (some v)) = none ∧
    v ≠ (s.dyn.gates.get 3).target ∧
    admissionCheck s.tables s.dyn.reaches s.dyn.totals (orderTotals s.tables s.dyn 3 v) = none ∧
    ∀ r, (s.dyn.reaches.get r).exceeded = (firstViolated s.tables s.dyn.totals s.dyn.reaches r).isSome)

/-- The same gate under way from 20 to 100, where its release is 78. -/
def underWay : State :=
  dynOf (gateAt 3 wicket (gateIn .moving 100 20) settled) fun p => { p with totals := Table.put p.totals 0 78 }

/-- At rest in HOLD; under way; at rest in RUN, eligible and not; the greatest opening. -/
theorem hyps_order_committed :
    (Takes (.order 3 (word 1000)) (inMode .hold settled) ∧ GatesSound (inMode .hold settled) ∧
      FloodGatesWarned (inMode .hold settled) ∧ commitsB (inMode .hold settled) 1000 = true ∧
      NotYet (inMode .hold settled) 3) ∧
    (Takes (.order 3 (word 1)) underWay ∧ GatesSound underWay ∧ commitsB underWay 1 = true ∧
      (underWay.dyn.gates.get 3).state = .moving ∧ 3 ∉ underWay.dyn.queue) ∧
    (Takes (.order 3 (word 100)) settled ∧ GatesSound settled ∧ FloodGatesWarned settled ∧
      commitsB settled 100 = true ∧ ¬ NotYet settled 3 ∧ settled.dyn.queue = [] ∧
      (Gate.committed (settled.dyn.gates.get 3) .wicket 0 0 .silent 100).state = .moving ∧
      eligibleFor settled.tables settled.dyn 3 .opening = true) ∧
    Takes (.order 3 (word 100)) (staggered settled) ∧ commitsB (staggered settled) 100 = true ∧
      eligibleFor (staggered settled).tables (staggered settled).dyn 3 .opening = false :=
  ⟨⟨takes (by decide +kernel), sound (by decide +kernel), by unfold FloodGatesWarned; decide +kernel,
      by decide +kernel, by unfold NotYet; decide +kernel⟩,
    ⟨takes (by decide +kernel), sound (by decide +kernel), by decide +kernel⟩,
    ⟨takes (by decide +kernel), sound (by decide +kernel), by unfold FloodGatesWarned; decide +kernel,
      by decide +kernel, by unfold NotYet; decide +kernel, by decide +kernel⟩,
    takes (by decide +kernel), by decide +kernel⟩

/-- One step: 2.9's first order. -/
theorem test_order :
    gives (.order 8 (word 720)) (busy threeDams) (fun t =>
      t.dyn.totals.get 1 == 792 && (t.dyn.gates.get 8).target == 720 && (t.dyn.gates.get 8).command == 620 &&
        t.dyn.queue == []) = true := by decide +kernel

/-! ### Portals -/

/-- The cascade of 5.8, where master 3 of level 2 has written the two items and the check word of its request. -/
def swap : State :=
  let g (kind : GateKind) (k : BitVec 8) (o : BitVec 2) (r : BitVec 6) : GateConfig :=
    { wicket with dam := 1, kind := kind, coefficient := k, orderLevel := o, openRef := r }
  let s := gateAt 8 (g .wicket 200 0 63) (gateIn .settled 640 640) <|
    gateAt 9 (g .wicket 240 1 63) (gateIn .settled 600 600) <| gateAt 12 (g .flood 192 1 6) (gateIn .closed 0 0) <|
    reachAt 1 { ReachConfig.powerOn with ceiling := 1100, cutCeiling := 1000, floor := 900 }
      { Reach.initial .powerOn with levelState := .high, ceff := 1000, exceeded := true } <|
    dwells 1 600 0 (inMode .run ready)
  dynOf
    (tabOf s fun c => { c with
      lastDam := 2, masters := Table.put c.masters 3 ⟨true, 2⟩
      portals := Table.put c.portals 1 ⟨true, 2, 1, 4, 6⟩ })
    fun p => { p with
      totals := Table.put p.totals 1 1062
      portals := Table.put p.portals 1
        { p.portals.get 1 with
          buffer := Table.put (Table.put (Table.put (p.portals.get 1).buffer 0 0x24C8) 1 0x31F4) 2
            (crc [0x2125, 0x24C8, 0x31F4]) } }

/-- The same with the portal busy. -/
def swapBusy : State :=
  dynOf swap fun p => { p with portals := Table.put p.portals 1 { p.portals.get 1 with busy := true } }

/-- A write by master 3. -/
def word3 (data : Word) : BusWrite := { word data with master := 3 }

/-- Word 125 and the header of a busy portal; a write of its result word; a read of its page. -/
theorem hyps_busy_portal :
    (Takes (.portalItemWrite 1 124 (word3 0)) swapBusy ∧ Takes (.portalHeaderWrite 1 (word3 0x2125)) swapBusy ∧
      (swapBusy.dyn.portals.get 1).busy = true) ∧
    ((trOf (.plainWrite 4860 3 true true 0)).page = portalPage 1 ∧
      126 ≤ (trOf (.plainWrite 4860 3 true true 0)).word.val ∧ swapBusy.dyn.hand = none ∧
      firstFailing ((accessTable swapBusy.tables swapBusy.dyn (trOf (.plainWrite 4860 3 true true 0))).take 7) = none) ∧
    Takes (.stationBusRead 4860 3 true true) swapBusy ∧
      (trOf (.stationBusRead 4860 3 true true)).page = portalPage 1 :=
  ⟨⟨takes (by decide +kernel), takes (by decide +kernel), by decide +kernel⟩, by decide +kernel,
    takes (by decide +kernel), by decide +kernel⟩

/-- The same with the two gates granted at this tick, so that neither can join the queue, dam 1's steps at this tick
holding back any other, and reach 0 EXCEEDED, whose draw bound does not hold. -/
def swapLater : State :=
  tabOf
    (damAt 1 { Dam.initial with lastOpen := some 0, lastClose := some 0 }
      (dynOf swap fun p => { p with
        reaches := Table.put p.reaches 0 { p.reaches.get 0 with exceeded := true }
        gates := Table.put (Table.put p.gates 9 { p.gates.get 9 with lastGrant := some 0 }) 12
          { p.gates.get 12 with lastGrant := some 0 } }))
    fun c => { c with matrix := Table.tab fun _ => 5 }

/-- A request with count 0 is refused, one with a wrong check word too, and that of 5.8 passes with its two items; with
neither gate able to join; and with no gate named eligible and EXCEEDED agreeing with the bounds. -/
theorem hyps_portal_request :
    (Takes (.portalHeaderWrite 1 (word3 0)) swap ∧ (swap.dyn.portals.get 1).busy = false ∧
      requestOutcome swap.tables swap.dyn 1 3 0 = some (.portalFormat, 0) ∧
      requestOutcome swap.tables swap.dyn 1 3 0x2126 = some (.crc, 0)) ∧
    Takes (.portalHeaderWrite 1 (word3 0x2125)) swap ∧ GatesSound swap ∧
      requestOutcome swap.tables swap.dyn 1 3 0x2125 = none ∧
      (itemWords 0x2125 (swap.dyn.portals.get 1)).map (fun x => (itemGate x, itemOpening x)) =
        [(9, 200), (12, 500)] ∧
    FloodGatesWarned swap ∧
    (Takes (.portalHeaderWrite 1 (word3 0x2125)) swapLater ∧ GatesSound swapLater ∧ FloodGatesWarned swapLater ∧
      requestOutcome swapLater.tables swapLater.dyn 1 3 0x2125 = none ∧
      ∀ g, g = 9 ∨ g = 12 → g ∉ swapLater.dyn.queue ∧ NotYet swapLater g) ∧
    (∀ r, (swapLater.dyn.reaches.get r).exceeded =
      (firstViolated swapLater.tables swapLater.dyn.totals swapLater.dyn.reaches r).isSome) ∧
    (batchCommitted swapLater.tables swapLater.dyn [(9, 200), (12, 500)]).1.get 9 =
      { gateIn .moving 200 600 with lastGrant := some 0 } ∧
    (batchCommitted swapLater.tables swapLater.dyn [(9, 200), (12, 500)]).1.get 12 =
      { gateIn .warning 500 0 with lastGrant := some 0 } ∧
    swapLater.dyn.queue = [] ∧ eligibleFor swapLater.tables swapLater.dyn 9 .closing = false ∧
    eligibleFor swapLater.tables swapLater.dyn 12 .opening = false :=
  ⟨⟨takes (by decide +kernel), by decide +kernel⟩, takes (by decide +kernel), sound (by decide +kernel),
    by decide +kernel, by decide +kernel, by unfold FloodGatesWarned; decide +kernel,
    ⟨takes (by decide +kernel), sound (by decide +kernel), by unfold FloodGatesWarned; decide +kernel,
      by decide +kernel, by unfold NotYet; decide +kernel⟩, by decide +kernel⟩

/-- One step: Table 5-6, but that gate 9 has been granted its first step of 20. -/
theorem test_portal_request :
    gives (.portalHeaderWrite 1 (word3 0x2125)) (busy swap) (fun t =>
      (t.dyn.gates.get 9).target == 200 && (t.dyn.gates.get 9).command == 580 &&
        (t.dyn.gates.get 12).state == .warning && t.dyn.totals.get 1 == 1062 &&
        (t.dyn.reaches.get 1).exceeded && (t.dyn.dams.get 1).warning == .sounding &&
        t.dyn.portalJobs == [⟨1, 37, .done, none, 0, [(9, 200), (12, 500)]⟩]) = true := by decide +kernel

/-! ### Modes and refreshes -/

/-- Every row of the table of R106 and the values that name no mode, each at its mode. -/
theorem hyps_mode_writes :
    (Takes (.modeWriteConfig (word 4)) ready ∧ Takes (.modeWriteConfig (word 7)) ready ∧
      Takes (.modeWriteConfig (word 3)) ready ∧ Takes (.modeWriteConfig (word 0)) ready ∧
      Takes (.modeWriteHold (word 2)) ready) ∧
    (Takes (.modeWriteConfig (word 0)) (inMode .hold ready) ∧ Takes (.modeWriteRun (word 1)) (inMode .exiting ready)) ∧
    (Takes (.modeWriteRun (word 1)) (inMode .config settled) ∧ (inMode .config settled).dyn.offer = none) ∧
    (Takes (.modeWriteConfig (word 0)) settled ∧ (settled.dyn.gates.get 3).inService = true) ∧
    (Takes (.modeWriteConfig (word 0)) (inMode .run ready) ∧ ∀ g, (ready.dyn.gates.get g).inService = false) ∧
    (Takes (.modeWriteRun (word 1)) (inMode .hold settled) ∧ Takes (.modeWriteRun (word 1)) (inMode .hold ready) ∧
      gatesOfDam (inMode .hold ready).tables (inMode .hold ready).dyn (inMode .hold ready).dyn.pointer = []) ∧
    Takes (.modeWriteHold (word 2)) (inMode .exiting ready) ∧ Takes (.modeWriteHold (word 2)) queued :=
  ⟨⟨takes (by decide +kernel), takes (by decide +kernel), takes (by decide +kernel), takes (by decide +kernel),
      takes (by decide +kernel)⟩,
    ⟨takes (by decide +kernel), takes (by decide +kernel)⟩, ⟨takes (by decide +kernel), by decide +kernel⟩,
    ⟨takes (by decide +kernel), by decide +kernel⟩, ⟨takes (by decide +kernel), by decide +kernel⟩,
    ⟨takes (by decide +kernel), takes (by decide +kernel), by decide +kernel⟩, takes (by decide +kernel),
    takes (by decide +kernel)⟩

/-- One step: into HOLD, the moving gate is held and the queue is empty (R109). -/
theorem test_mode_hold :
    gives (.modeWriteHold (word 2)) (busy queued) (fun t =>
      t.dyn.mode == .hold && (t.dyn.gates.get 3).state == .held && (t.dyn.gates.get 3).causes.mode &&
        t.dyn.queue == []) = true := by decide +kernel

/-- A refresh of dam 0 at its STAMP write of gate 3, with gates still to write. -/
def refreshing (m : Mode) (counts : Bool) (rest : List GateId) : State :=
  doing (.refresh 0 (match m with | .hold => .hold | .exiting => .pass | _ => .run) counts 3 rest)
    (ownWrite 14 14 0x0102) (inMode m settled)

/-- The same in a cascade of dams 0 to 2, of which only dam 0 has a gate. -/
def cascade (m : Mode) (rest : List GateId) : State :=
  tabOf (refreshing m true rest) fun c => { c with lastDam := 2 }

/-- HOLD with a refresh of an abandoned pass in progress (R111; log entry 42): RUN is written. -/
def abandoned : State :=
  inMode .hold (doing (.refresh 0 .pass false 3 []) (ownWrite 14 14 0x0102) settled)

/-- RUN written in HOLD while a refresh is in progress: one of HOLD, and one of an abandoned pass. -/
theorem hyps_run_in_hold :
    (Takes (.modeWriteRun (word 1)) (refreshing .hold false []) ∧ refreshRunning (refreshing .hold false []).dyn = true) ∧
    Takes (.modeWriteRun (word 1)) abandoned ∧ refreshRunning abandoned.dyn = true ∧ abandoned.dyn.mode = .hold ∧
      ((word 1).data.extractLsb' 0 3).toNat = 1 :=
  ⟨⟨takes (by decide +kernel), by decide +kernel⟩, takes (by decide +kernel), by decide +kernel⟩

/-- One step each: RUN is written and no refresh is offered yet; that refresh done in EXITING, the pass makes its first
offer, which the port takes up, and the progress is 0 (log entry 42). -/
theorem test_run_in_hold :
    gives (.modeWriteRun (word 1)) abandoned (fun t =>
      t.dyn.mode == .exiting && t.dyn.progress == 0 && t.dyn.offer == none) = true ∧
    gives (.refreshAccessDone .ok) (inMode .exiting abandoned) (fun t =>
      t.dyn.mode == .exiting && t.dyn.progress == 0 &&
        t.dyn.running == some ⟨.refresh 0 .pass true 3 [], ownWrite 14 14 0x0102⟩) = true := by decide +kernel

/-- Gates left; the last one in HOLD, in RUN and in EXITING; a FAULTED gate; an ERROR with gates left, and at the last. -/
theorem hyps_refresh_done :
    (StoreCanonical (refreshing .run true [4]) ∧
      (refreshing .run true [4]).dyn.running = some ⟨.refresh 0 .run true 3 [4], ownWrite 14 14 0x0102⟩ ∧
      ((refreshing .run true [4]).dyn.gates.get 3).state ≠ .faulted) ∧
    (StoreCanonical (refreshing .hold false []) ∧ (refreshing .hold false []).dyn.mode = .hold ∧
      (refreshing .hold false []).dyn.offer = none) ∧
    ((refreshing .run true []).dyn.mode = .run ∧ (refreshing .run true []).dyn.offer = none) ∧
    ((refreshing .exiting false []).dyn.mode = .exiting ∧
      ((refreshing .exiting false []).dyn.gates.get 3).state ≠ .faulted) ∧
    ((gateAt 3 wicket (gateIn .faulted 0 0) (refreshing .run true [])).dyn.gates.get 3).state = .faulted := by
  unfold StoreCanonical
  decide +kernel

/-- One step: an ERROR leaves the next gate's STAMP to be written (R118). -/
theorem test_refresh_error :
    gives (.refreshAccessDone .error) (refreshing .run true [4]) (fun t =>
      t.dyn.running == some ⟨.refresh 0 .run true 4 [], ownWrite 14 18 0⟩ &&
        t.dyn.logBuffer.any fun r => r.code == 8 && r.subject == 3) = true := by decide +kernel

/-- The pass of a cascade of one dam ends, with a READ waiting. -/
def passEnding : State :=
  dynOf (refreshing .exiting true []) fun p => { p with hand := some (trOf (.stationBusRead 2120 0 true true)) }

/-- A transaction waits; no transaction waits; the last dam has no gate, at a free port. -/
theorem hyps_exit_pass :
    (StoreCanonical passEnding ∧ GatesSound passEnding ∧
      passEnding.dyn.running = some ⟨.refresh 0 .pass true 3 [], ownWrite 14 14 0x0102⟩ ∧
      passEnding.dyn.mode = .exiting ∧ passEnding.tables.lastDam.val + 1 ≤ passEnding.dyn.progress + 1 ∧
      passEnding.dyn.hand.isSome = true ∧ passEnding.dyn.offer = none ∧
      ∀ l, (passEnding.tables.links.get l).action = .none) ∧
    (GatesSound (refreshing .exiting true []) ∧ (refreshing .exiting true []).dyn.hand = none ∧
      (refreshing .exiting true []).dyn.offer = none) ∧
    GatesSound (inMode .exiting ready) ∧ (inMode .exiting ready).dyn.running = none ∧
      (inMode .exiting ready).dyn.mode = .exiting ∧
      (inMode .exiting ready).tables.lastDam.val + 1 ≤ (inMode .exiting ready).dyn.progress + 1 ∧
      gatesOfDam (inMode .exiting ready).tables (inMode .exiting ready).dyn 0 = [] ∧
      ∀ l, ((inMode .exiting ready).tables.links.get l).action = .none :=
  ⟨⟨by unfold StoreCanonical; decide +kernel, sound (by decide +kernel), by decide +kernel⟩,
    ⟨sound (by decide +kernel), by decide +kernel⟩, sound (by decide +kernel), by decide +kernel⟩

/-- One step: at the end of the pass the mode is RUN, the debt 0, and the waiting READ is granted. -/
theorem test_exit_pass :
    gives (.refreshAccessDone .ok) passEnding (fun t =>
      t.dyn.mode == .run && t.dyn.debt == 0 && t.dyn.offer == some 0 &&
        t.dyn.running == some ⟨.forwarded (trOf (.stationBusRead 2120 0 true true)),
          ⟨8, 36, false, true, true, 0⟩⟩) = true := by decide +kernel

/-! ### The store port -/

/-- A part where every kind of job waits. -/
def crowded : Dyn :=
  { queued.dyn with
    offer := some 0
    hand := some (trOf (.stationBusRead 2120 0 true true))
    slotMarks := Table.put (Table.put queued.dyn.slotMarks 5 (some 2)) 3 (some 2)
    portalJobs := [⟨1, 37, .refused, some .crc, 0, []⟩]
    logBuffer := [⟨.reset, 0, 0, 0, 0, 255, 0, 0, 0, .mode .config⟩]
    gateMirrorMarks := Table.put queued.dyn.gateMirrorMarks 7 (some 1)
    reachMirrorMarks := Table.put queued.dyn.reachMirrorMarks 2 (some 1)
    summaryMark := some 1 }

/-- The same with the higher classes served, one after another. -/
def served : List Dyn :=
  let p1 : Dyn := { crowded with hand := none }
  let p2 : Dyn := { p1 with slotMarks := Table.tab fun _ => none }
  let p3 : Dyn := { p2 with portalJobs := [] }
  let p4 : Dyn := { p3 with logRead := 1 }
  let p5 : Dyn := { p4 with gateMirrorMarks := Table.tab fun _ => none }
  let p6 : Dyn := { p5 with reachMirrorMarks := Table.tab fun _ => none }
  let p7 : Dyn := { p6 with summaryMark := none }
  [{ crowded with debt := 5 }, { crowded with debt := 4 }, p1, p2, p3, p4, p5, p6, p7]

/-- Every class of Table 8-1 is the greatest that waits in one of these parts. -/
theorem hyps_highest_class :
    served.map (fun p => (waitingHeads p).head?) =
      [some (.refresh 0), some (.forwarded (trOf (.stationBusRead 2120 0 true true))), some (.slot 3),
        some (.portal ⟨1, 37, .refused, some .crc, 0, []⟩ []),
        some (.log ⟨.reset, 0, 0, 0, 0, 255, 0, 0, 0, .mode .config⟩ []), some (.gateMirror 7), some (.reachMirror 2),
        some .summary, some (.refresh 0)] ∧
    crowded.running = none ∧ gatesOfDam settled.tables settled.dyn 0 = [3] ∧
    (gatesOfDam ready.tables (inMode .run ready).dyn 0 = [] ∧ (inMode .run ready).dyn.mode = .run ∧
      (inMode .hold ready).dyn.mode = .hold ∧ (inMode .exiting ready).dyn.mode = .exiting) ∧
    (0 + 1 < (cascade .exiting []).tables.lastDam.val + 1 ∧ gatesOfDam (cascade .exiting []).tables
      (cascade .exiting []).dyn 1 = []) ∧ ready.tables.lastDam.val + 1 ≤ 0 + 1 := by
  decide +kernel

/-- One step: the last gate's STAMP of the pass's first refresh is answered, and dams 1 and 2 have no gates: the pass ends
in that event. In RUN at debt 7 the forced refreshes of dams 1 and 2 complete in the same way, and the one then due waits. -/
theorem test_empty_refreshes :
    gives (.refreshAccessDone .ok) (cascade .exiting []) (fun t =>
      t.dyn.mode == .run && t.dyn.debt == 0 && t.dyn.pointer == 0 && t.dyn.offer == some 0 &&
        ((List.finRange 6).map fun d => (t.dyn.dams.get d).sequence) == [0, 1, 1, 0, 0, 0] &&
        t.dyn.running.map (·.job) == some (.reachMirror 1 0 none)) = true ∧
    gives (.refreshAccessDone .ok) (dynOf (cascade .run []) fun p => { p with debt := 7 }) (fun t =>
      t.dyn.mode == .run && t.dyn.debt == 4 && t.dyn.pointer == 0 && t.dyn.offer == some 0 &&
        ((List.finRange 6).map fun d => (t.dyn.dams.get d).sequence) == [0, 1, 1, 0, 0, 0] &&
        t.dyn.running.map (·.job) == some (.reachMirror 1 0 none)) = true := by decide +kernel

/-- One step: an access of each kind of job, answered OK and ERROR. -/
theorem test_slot_write :
    gives (.slotWriteAccessDone .ok) (doing (.slot 3 false) (ownWrite 14 13 20) moving)
      (fun t => t.dyn.running == some ⟨.slot 3 true, ownWrite 14 14 0x0003⟩ && Memory.word t.store 14 13 == 20) = true ∧
    gives (.slotWriteAccessDone .error) (doing (.slot 3 false) (ownWrite 14 13 20) moving)
      (fun t => (t.dyn.gates.get 3).state == .faulted && (t.dyn.gates.get 3).faultCause == some .store) = true := by
  decide +kernel

/-- A forwarded access; both accesses of a slot write, with gates MOVING, FAULTED and OUT_OF_SERVICE. -/
theorem hyps_forwarded_and_slot :
    (StoreCanonical moving ∧ moving.dyn.offer = none ∧
      (doing (.forwarded (trOf (.stationBusRead 2120 0 true true))) ⟨8, 36, false, true, true, 0⟩ moving).dyn.running =
        some ⟨.forwarded (trOf (.stationBusRead 2120 0 true true)), ⟨8, 36, false, true, true, 0⟩⟩) ∧
    (doing (.slot 3 true) (ownWrite 14 14 3) moving).dyn.running = some ⟨.slot 3 true, ownWrite 14 14 3⟩ ∧
    (moving.tables.gates.get 3).inDam 0 = true ∧ (moving.dyn.gates.get 3).state = .moving ∧
    ((gateAt 3 wicket (gateIn .faulted 0 0) moving).dyn.gates.get 3).state = .faulted ∧
    (moving.dyn.gates.get 4).state = .outOfService := by
  unfold StoreCanonical
  decide +kernel

/-- A portal job of two echoes at each access, and a log record job at words 0, 7 and 8. -/
theorem hyps_portal_and_log :
    StoreCanonical ready ∧ ready.dyn.offer = none ∧
    (∀ k, (doing (.portal ⟨1, 37, .done, none, 0, [(9, 200), (12, 500)]⟩ k) (ownWrite 14 36 200) ready).dyn.running =
      some ⟨.portal ⟨1, 37, .done, none, 0, [(9, 200), (12, 500)]⟩ k, ownWrite 14 36 200⟩) ∧
    ([((9 : GateId), 200), (12, 500)][0 + 1]? = some (12, 500) ∧ 1 + 1 = [((9 : GateId), 200), (12, 500)].length ∧
      [((9 : GateId), 200), (12, 500)].length < 3) ∧
    ∀ r n k, (doing (.log r n k) (ownWrite 10 0 0) ready).dyn.running = some ⟨.log r n k, ownWrite 10 0 0⟩ :=
  ⟨by unfold StoreCanonical; decide +kernel, rfl, fun _ => rfl, by decide +kernel, fun _ _ _ => rfl⟩

/-- One step: the last write of a portal job frees the portal, and the last of a record job moves the write index. -/
theorem test_portal_and_log_done :
    gives (.portalJobAccessDone .ok)
      (doing (.portal ⟨1, 37, .refused, some .crc, 0, []⟩ 1) (ownWrite 18 127 0x1800) swapBusy)
      (fun t => !(t.dyn.portals.get 1).busy && Memory.word t.store 18 127 == 0x1800) = true ∧
    gives (.logRecordAccessDone .ok)
      (doing (.log ⟨.reset, 0, 0, 0, 0, 255, 0, 0, 0, .mode .config⟩ 63 8) (ownWrite 0 5 0) ready)
      (fun t => t.dyn.logWrite == 0 && Memory.word t.store 0 5 == 0) = true := by decide +kernel

/-- Mirror writes at their first and last words, with and without an earlier ERROR. -/
theorem hyps_mirror :
    (∀ f, (doing (.gateMirror 3 3 f) (ownWrite 8 15 0) ready).dyn.running =
      some ⟨.gateMirror 3 3 f, ownWrite 8 15 0⟩) ∧
    (∀ f, (doing (.reachMirror 5 7 f) (ownWrite 9 111 0) ready).dyn.running =
      some ⟨.reachMirror 5 7 f, ownWrite 9 111 0⟩) ∧
    (busy ready).dyn.running = some ⟨.summary, ownWrite 0 1 0⟩ ∧ (busy ready).dyn.offer = none :=
  ⟨fun _ => rfl, fun _ => rfl, rfl, rfl⟩

/-- One step: a failed summary write raises STORE_FAULT, whose record is at once taken up by the port (R140). -/
theorem test_mirror_error :
    gives (.mirrorWriteAccessDone .error) (busy ready)
      (fun t => match t.dyn.running with | some ⟨.log r _ _, _⟩ => r.code == 8 && r.kind == .event | _ => false) =
      true := by decide +kernel

/-- The first write of a pass; the last of a reset line pass, in CONFIG. -/
theorem hyps_pass :
    (StoreCanonical State.reset ∧
      State.reset.dyn.running = some ⟨.pass .powerOn 0, passFirstAccess⟩ ∧ 0 + 1 < PassKind.powerOn.length) ∧
    (doing (.pass .resetLine (PassKind.resetLine.length - 1)) (ownWrite 0 1 0x8000) State.reset).dyn.mode = .config ∧
    PassKind.resetLine.length ≤ (PassKind.resetLine.length - 1) + 1 ∧
    ∀ kind : PassKind, kind = .powerOn ∨ kind = .resetLine → 2 + 1 < kind.length := by
  refine ⟨by unfold StoreCanonical; decide +kernel, by decide +kernel, by decide +kernel, ?_⟩
  rintro kind (rfl | rfl) <;> decide +kernel

/-- Words of the two passes: the descriptor of page 20 with its fixed limit, and the STAMP of gate 47. -/
theorem test_pass_words :
    passAccess Tables.powerOn State.reset.dyn .powerOn 36 = ownWrite 1 20 0xF880 ∧
    passAccess Tables.powerOn State.reset.dyn .resetLine 303 = ownWrite 15 62 0 := by decide +kernel

/-- One step: the pass goes on, and ends with transactions taken again and its RESET record. -/
theorem test_pass :
    gives (.passWriteAccessDone .error) State.reset
      (fun t => t.dyn.passFailed == 1 && t.dyn.passKind == some .powerOn &&
        t.dyn.running == some ⟨.pass .powerOn 1, ownWrite 0 0 0⟩) = true ∧
    gives (.passWriteAccessDone .ok)
      (doing (.pass .powerOn (PassKind.powerOn.length - 1)) (ownWrite 0 1 0x8000) State.reset)
      (fun t => t.dyn.passKind.isNone && t.dyn.refreshTimer == .running 10 &&
        match t.dyn.running with | some ⟨.log r _ _, _⟩ => r.kind == .reset | _ => false) = true := by decide +kernel

/-! ### Invariants -/

/-- The command moves a bound of reach d in force toward its limit, and is taken. -/
def moves (i : Instr) (s : State) (b : Bound) (d : ReachId) : Bool :=
  gives i s fun t =>
    b.inForce s.tables.lastDam d && b.movedToward (b.expression s.dyn.totals d) (b.expression t.dyn.totals d)

/-- A request of one item, gate 9 to 500, at the portal of 5.8. -/
def lower : State :=
  dynOf swap fun p => { p with
    portals := Table.put p.portals 1
      { p.portals.get 1 with
        buffer := Table.put (Table.put (p.portals.get 1).buffer 0 0x25F4) 1 (crc [0x1125, 0x25F4]) } }

/-- Orders that move each of the four bounds toward its limit, 2.9's first among them, and a request that does. -/
theorem hyps_admissions :
    moves (.order 8 (word 720)) (busy threeDams) .ceiling 1 = true ∧
    moves (.order 8 (word 720)) (busy threeDams) .surplus 1 = true ∧
    moves (.order 8 (word 720)) (busy threeDams) .draw 0 = true ∧
    moves (.order 9 (word 290)) (busy threeDams) .floor 1 = true ∧
    moves (.portalHeaderWrite 1 (word3 0x1125)) (busy lower) .floor 1 = true := by decide +kernel

/-- The state of 2.9 with exact totals meets the invariants, and a step of it answers a next state. -/
theorem hyps_invariants :
    (∃ t, step { threeDams with pending := [.order 8 (word 720)] } = .next t) ∧ StoreCanonical threeDams ∧
      GatesSound threeDams ∧ CausesFollow threeDams ∧ InterlockSound threeDams ∧ FloodGatesWarned threeDams ∧
      TotalsExact threeDams ∧ OpeningsInRange threeDams ∧ LevelsInRange threeDams ∧ LinksValid threeDams ∧ PortIdle threeDams ∧ DebtInRange threeDams ∧
      (∀ r : ReachId, r.val ≤ 2 →
        (threeDams.dyn.reaches.get r).ceff =
          effectiveCeiling (threeDams.tables.reaches.get r) (threeDams.dyn.reaches.get r).levelState) ∧
      ∀ q, (threeDams.dyn.portals.get q).busy = false := by
  refine ⟨⟨_, rfl⟩, by unfold StoreCanonical; decide +kernel, sound (by decide +kernel), ?_, ?_, ?_, ?_, ?_, ?_, ?_,
    idle (by decide +kernel), ?_, by decide +kernel, by decide +kernel⟩
  · unfold CausesFollow; decide +kernel
  · unfold InterlockSound; decide +kernel
  · unfold FloodGatesWarned; decide +kernel
  · unfold TotalsExact; decide +kernel
  · unfold OpeningsInRange; decide +kernel
  · unfold LevelsInRange; decide +kernel
  · unfold LinksValid; decide +kernel
  · unfold DebtInRange; decide +kernel

/-- The other invariants, at the state right after reset with a tick waiting. -/
theorem hyps_invariants_reset :
    (∃ t, step { State.reset with pending := [.tick] } = .next t) ∧ LimitsFollowLevel State.reset ∧
      FixedEntries State.reset ∧ PortalsSound State.reset ∧ HandSound State.reset := by
  refine ⟨⟨_, rfl⟩, ?_, ?_, ?_, ?_⟩
  · unfold LimitsFollowLevel; decide +kernel
  · unfold FixedEntries; decide +kernel
  · unfold PortalsSound; decide +kernel
  · intro t a h; cases h

end Sys2Proof.Tests
end

section
/-! What presenting the WRITE of a row gives (R121, R125 to R130), in the words of the claims: taken, refused by its
handler, or refused by an access check. -/

namespace Sys2Proof.Machine

/-! ### Taken and refused writes, whatever the row -/

/-- A transaction taken as it was presented is the state `held` of the claims. -/
theorem takeInHand_presented (s : State) (t : Transaction) : takeInHand t (presented s.dyn) = held s t := rfl

/-- A transaction refused as it was presented is the state `refusedWith` of the claims. -/
theorem refuseTransaction_presented (s : State) (t : Transaction) (code : Code) (detail : Nat) :
    refuseTransaction t code detail (presented s.dyn) = refusedWith s t code detail := rfl

theorem refusedWith_running (s : State) (t : Transaction) (code : Code) (detail : Nat) :
    (refusedWith s t code detail).running = s.dyn.running :=
  formRecord_running _ _

/-- The transaction that an accepted row presents is the WRITE of its word. -/
theorem Accepted.transaction_eq {i : Instr} {x : WriteTarget} {w : BusWrite} {s : State} {t : Transaction}
    (hi : i.write? = some (x, w)) (ha : Accepted i s t) : t = writeTransaction x.place.1 x.place.2 w :=
  Option.some.inj (ha.presents.symm.trans (transaction_write hi))

/-- A row's WRITE that its handler takes, with new tables and no other effect. -/
theorem gives_held_of_taken {i : Instr} {x : WriteTarget} {w : BusWrite} {s : State} {t : Transaction} {c : Tables}
    (hi : i.write? = some (x, w)) (ha : Accepted i s t)
    (hh : handlerOf w.master w.data x s.tables (presented s.dyn) = .taken c (presented s.dyn)) :
    Gives i s c (held s t) := by
  obtain rfl := ha.transaction_eq hi
  have he := presentWrite_taken ha.noneInHand ha.passes hh
  rw [takeInHand_presented] at he
  exact gives_of_arbitrate ((exec_write hi s).trans (congrArg _ he)) rfl

/-- A row's WRITE that its handler refuses, with no other effect and no event. -/
theorem gives_refusedWith_of_refused {i : Instr} {x : WriteTarget} {w : BusWrite} {s : State} {t : Transaction}
    {code : Code} {detail : Nat} (hi : i.write? = some (x, w)) (ha : Accepted i s t)
    (hh : handlerOf w.master w.data x s.tables (presented s.dyn) = .refused code detail none (presented s.dyn)) :
    Gives i s s.tables (refusedWith s t code detail) := by
  obtain rfl := ha.transaction_eq hi
  have he := presentWrite_refused ha.noneInHand ha.passes hh
  rw [offerOrderRefused, refuseTransaction_presented] at he
  exact gives_of_arbitrate ((exec_write hi s).trans (congrArg _ he))
    (congrArg Option.isNone (refusedWith_running s _ code detail))

/-! ### Writes that an access check refuses -/

/-- The arbiter at the end of an event after which no refresh waits at a free port writes the port's own fields alone. -/
theorem arbitrate_portFrame {c : Tables} {b : Bool} {p : Dyn} (hb : b = p.running.isNone)
    (hn : p.running = none → NoRefreshWaits p) : PortFrame p (arbitrate c b p) := by
  cases hr : p.running with
  | some r =>
    rw [arbitrate_busy (by simp [hr])]
    exact .refl p
  | none => exact (arbitrate_granted hb).frame (hn hr)

/-- A refusal at an access check answers the transaction, may form a record, and leaves all else as it was. -/
theorem refuseAtCheck_keeps (t : Transaction) (code : Code) (p : Dyn) :
    (refuseAtCheck t code p).hand = none ∧ (refuseAtCheck t code p).running = p.running ∧
      (refuseAtCheck t code p).offer = p.offer ∧ (refuseAtCheck t code p).mode = p.mode ∧
      (refuseAtCheck t code p).debt = p.debt := by
  unfold refuseAtCheck
  split
  · exact ⟨rfl, rfl, rfl, rfl, rfl⟩
  · simp [refuseTransaction]

/-- A WRITE that does not pass the access checks touches no configuration and leaves the hand as it was. -/
theorem presentWrite_of_not_passes {t : Transaction} {h : Handler} {s : State} (idle : PortIdle s)
    (hp : ¬ Passes s.tables s.dyn t) :
    (presentWrite t h s).tables = s.tables ∧ (presentWrite t h s).dyn.hand = s.dyn.hand := by
  cases hand : s.dyn.hand with
  | some t' => simp [presentWrite, hand]
  | none =>
    obtain ⟨code, hc⟩ := Option.ne_none_iff_exists'.mp (mt (accessCheck_none_iff _ _ _).mp hp)
    obtain ⟨hhand, hrun, hoffer, hmode, hdebt⟩ := refuseAtCheck_keeps t code (presented s.dyn)
    have frame : PortFrame (refuseAtCheck t code (presented s.dyn)) (arbitrate s.tables s.dyn.running.isNone _) :=
      arbitrate_portFrame (congrArg Option.isNone hrun.symm) fun hr =>
        noRefreshWaits_congr (noRefreshWaits_of_idle (idle (hrun.symm.trans hr))) hoffer hmode hdebt
    rw [presentWrite_checked hand hc]
    exact ⟨rfl, frame.hand.trans hhand⟩

/-- A row's WRITE that does not pass the access checks. -/
theorem exec_write_of_not_passes {i : Instr} {x : WriteTarget} {w : BusWrite} {s : State} {t : Transaction}
    (idle : PortIdle s) (hi : i.write? = some (x, w)) (ht : i.transaction? = some t)
    (hp : ¬ Passes s.tables s.dyn t) :
    ∃ u, exec i s = .next u ∧ u.tables = s.tables ∧ u.dyn.hand = s.dyn.hand := by
  obtain rfl := Option.some.inj (ht.symm.trans (transaction_write hi))
  exact ⟨_, exec_write hi s, presentWrite_of_not_passes idle hp⟩

/-! ### The gate configuration words (R1) -/

theorem Gate.inService_eq_false_iff (x : Gate) : x.inService = false ↔ x.state = .outOfService := by
  simp [Gate.inService]

theorem handleGateConfig_outOfService {g : GateId} {c : Tables} {p : Dyn} (h : (p.gates.get g).state = .outOfService)
    (i : Fin 7) (data : Word) :
    handleGateConfig g i data c p =
      .taken { c with gates := Table.put c.gates g ((c.gates.get g).withWord i data) } p := by
  simp [handleGateConfig, (Gate.inService_eq_false_iff _).mpr h]

theorem handleGateConfig_inService {g : GateId} {p : Dyn} (h : (p.gates.get g).state ≠ .outOfService) (i : Fin 7)
    (data : Word) (c : Tables) : handleGateConfig g i data c p = .refused .inService 0 none p := by
  have hs : (p.gates.get g).inService = true := by
    simpa using mt (Gate.inService_eq_false_iff _).mp h
  simp [handleGateConfig, hs, Handled.refuse]

/-- Settles O20: the access checks, then the handler's two cases by the gate's state. -/
theorem gateConfigurationWrite : Obligations.GateConfigurationWrite := by
  intro s g i w tr idle presents
  have hi : (Instr.gateConfigWrite g i w).write? = some (.gateConfig g i, w) := rfl
  refine ⟨exec_write_of_not_passes idle hi presents, fun accepted out => ?taken, fun accepted inService => ?refused⟩
  case taken => exact gives_held_of_taken hi accepted (handleGateConfig_outOfService (p := presented s.dyn) out i w.data)
  case refused =>
    exact gives_refusedWith_of_refused hi accepted
      (handleGateConfig_inService (p := presented s.dyn) inService i w.data s.tables)

end Sys2Proof.Machine
end

section
/-! The pure evaluations as rules: the derived level, the split flag, the level state and the effective limits of a reach
(R31, R42 to R44), and eligibility in the stagger intervals (R81, Table 4-1). -/

namespace Sys2Proof.Machine

/-! ### Levels (2.6, 2.7) -/

theorem derivedLevel_eq (a b : Sample) : derivedLevel a b =
    if a.freshness = .fresh ∧ b.freshness = .fresh then some (max a.value b.value)
    else if a.freshness = .fresh then some a.value
    else if b.freshness = .fresh then some b.value
    else none := by
  unfold derivedLevel
  cases a.freshness <;> cases b.freshness <;> simp

/-- The values differ by more than the tolerance exactly when one lies above the other by more than it. -/
theorem splitFlag_iff (c : ReachConfig) (a b : Sample) : splitFlag c a b = true ↔
    a.freshness = .fresh ∧ b.freshness = .fresh ∧
      (a.value + c.splitTolerance.toNat < b.value ∨ b.value + c.splitTolerance.toNat < a.value) := by
  have apart : c.splitTolerance.toNat < max a.value b.value - min a.value b.value ↔
      a.value + c.splitTolerance.toNat < b.value ∨ b.value + c.splitTolerance.toNat < a.value := by omega
  simp [splitFlag, apart, and_assoc]

theorem nextLevelState_of_unknown_or_normal (c : ReachConfig) (v : Nat) {state : LevelState}
    (h : state = .unknown ∨ state = .normal) : nextLevelState c state v = levelFromNormal c v := by
  obtain rfl | rfl := h <;> rfl

theorem nextLevelState_high (c : ReachConfig) (v : Nat) : nextLevelState c .high v =
    if (c.highMark.toNat : Int) - (c.hysteresis.toNat : Int) ≤ (v : Int) then .high
    else nextLevelState c .normal v := rfl

/-- R44's signed bound of LOW is the sum that the model takes over the natural numbers. -/
theorem nextLevelState_low (c : ReachConfig) (v : Nat) : nextLevelState c .low v =
    if (v : Int) < (c.lowMark.toNat : Int) + (c.hysteresis.toNat : Int) then .low
    else nextLevelState c .normal v := by
  have bound : (v : Int) < (c.lowMark.toNat : Int) + (c.hysteresis.toNat : Int) ↔
      v < c.lowMark.toNat + c.hysteresis.toNat := by omega
  simp [nextLevelState, bound]

theorem Reach.derived_levelState_of_known {x : Reach} {v : Nat} (h : derivedLevel x.a x.b = some v)
    (c : ReachConfig) : (x.derived c).levelState = nextLevelState c x.levelState v := by
  simp [Reach.derived, h]

theorem Reach.derived_levelState_of_unknown {x : Reach} (h : derivedLevel x.a x.b = none) (c : ReachConfig) :
    (x.derived c).levelState = .unknown := by
  simp [Reach.derived, h]

/-! ### Effective limits (R31) -/

@[simp] theorem minWord_toNat (a b : Word) : (minWord a b).toNat = min a.toNat b.toNat := by
  unfold minWord
  split <;> omega

theorem effectiveCeiling_toNat (c : ReachConfig) (x : LevelState) : (effectiveCeiling c x).toNat =
    if x = .high ∨ x = .unknown then min c.ceiling.toNat c.cutCeiling.toNat else c.ceiling.toNat := by
  cases x <;> simp [effectiveCeiling]

theorem effectiveDraw_toNat (c : ReachConfig) (x : LevelState) : (effectiveDraw c x).toNat =
    if x = .low then min c.draw.toNat c.lowDraw.toNat else c.draw.toNat := by
  cases x <;> simp [effectiveDraw]

/-! ### Eligibility (R81) -/

theorem matrixIndex_val (relation : Fin 2) (earlier later : Direction) : (matrixIndex relation earlier later).val =
    4 * relation.val + (if earlier = .closing then 2 else 0) + (if later = .closing then 1 else 0) := by
  cases earlier <;> cases later <;> rfl

theorem Direction.forall_iff {P : Direction → Prop} : (∀ dir, P dir) ↔ P .opening ∧ P .closing :=
  ⟨fun h => ⟨h _, h _⟩, fun ⟨opening, closing⟩ dir => by cases dir <;> assumption⟩

/-- An absent record satisfies every interval (R73, R81). -/
theorem passedAtLeast_iff (now : BitVec 32) (since : Option (BitVec 32)) (n : Nat) :
    passedAtLeast now since n = true ↔ ∀ t, since = some t → n ≤ (now - t).toNat := by
  cases since <;> simp [passedAtLeast]

theorem staggerMet_iff (c : Tables) (now : BitVec 32) (n : Dam) (relation : Fin 2) (dir : Direction) :
    staggerMet c now n relation dir = true ↔
      ∀ earlier since, n.lastStep earlier = some since →
        (c.matrix.get (matrixIndex relation earlier dir)).toNat ≤ (now - since).toNat := by
  simp [staggerMet, passedAtLeast_iff, Direction.forall_iff]

/-- The relations exclude each other: no dam is one above or one below itself. -/
theorem eligibleFor_iff_staggerMet (c : Tables) (p : Dyn) (g : GateId) (dir : Direction) :
    eligibleFor c p g dir = true ↔
      ∀ n : DamId,
        (n.val = (c.gates.get g).dam.toNat → staggerMet c p.tick (p.dams.get n) 0 dir = true) ∧
        (n.val + 1 = (c.gates.get g).dam.toNat ∨ n.val = (c.gates.get g).dam.toNat + 1 →
          staggerMet c p.tick (p.dams.get n) 1 dir = true) := by
  simp only [eligibleFor, List.all_eq_true, List.mem_finRange, true_imp_iff]
  refine forall_congr' fun n => ?_
  by_cases same : n.val = (c.gates.get g).dam.toNat
  case pos => simp [same]
  case neg =>
    by_cases adjacent : n.val + 1 = (c.gates.get g).dam.toNat ∨ n.val = (c.gates.get g).dam.toNat + 1 <;>
      simp [same, adjacent]

theorem eligibleFor_iff (c : Tables) (p : Dyn) (g : GateId) (dir : Direction) :
    eligibleFor c p g dir = true ↔
      ∀ (n : DamId) (earlier : Direction) (since : BitVec 32), (p.dams.get n).lastStep earlier = some since →
        (n.val = (c.gates.get g).dam.toNat →
          (c.matrix.get (matrixIndex 0 earlier dir)).toNat ≤ (p.tick - since).toNat) ∧
        (n.val + 1 = (c.gates.get g).dam.toNat ∨ n.val = (c.gates.get g).dam.toNat + 1 →
          (c.matrix.get (matrixIndex 1 earlier dir)).toNat ≤ (p.tick - since).toNat) := by
  simp only [eligibleFor_iff_staggerMet, staggerMet_iff]
  constructor
  case mp =>
    intro h n earlier since last
    exact ⟨fun same => (h n).1 same earlier since last, fun adjacent => (h n).2 adjacent earlier since last⟩
  case mpr =>
    intro h n
    exact ⟨fun same earlier since last => (h n earlier since last).1 same,
      fun adjacent earlier since last => (h n earlier since last).2 adjacent⟩

/-- Settles O33: the level rules and R81, each by its own lemma. -/
theorem levelStateAndEligibilityRules : Obligations.LevelStateAndEligibilityRules :=
  ⟨⟨fun c v _ h => nextLevelState_of_unknown_or_normal c v h, nextLevelState_high, nextLevelState_low,
      fun c _ => ⟨fun _ known => Reach.derived_levelState_of_known known c,
        fun unknown => Reach.derived_levelState_of_unknown unknown c⟩⟩,
    derivedLevel_eq, splitFlag_iff, fun c x => ⟨effectiveCeiling_toNat c x, effectiveDraw_toNat c x⟩,
    matrixIndex_val, eligibleFor_iff⟩

end Sys2Proof.Machine
end

section
/-! An order that repeats its gate's target: stage 5 ends admission (R56). -/

namespace Sys2Proof.Machine

/-- Stage 1 as R53 lists it: RUN for every master, HOLD and EXITING for level 0. -/
theorem stage1_iff (mode : Mode) (level : Nat) :
    stage1 mode level = true ↔ mode = .run ∨ ((mode = .hold ∨ mode = .exiting) ∧ level = 0) := by
  cases mode <;> simp [stage1]

theorem levelOf_eq_zero_iff (c : Tables) (m : MasterId) : levelOf c m = 0 ↔ (c.masters.get m).level = 0 := by
  simp [levelOf, ← BitVec.toNat_inj]

/-- R56: after stages 1 to 4, stage 5 takes an order for the current target and leaves the part as it stands. -/
theorem handleOrder_repeats_target {g : GateId} {level : Nat} {data : Word} {c : Tables} {p : Dyn}
    (mode : stage1 p.mode level = true)
    (decoded : decodeValue (c.decimal (slotPage g)) 1000 data = some (p.gates.get g).target)
    (inService : (p.gates.get g).state ≠ .outOfService) (sound : (p.gates.get g).state ≠ .faulted)
    (allowed : level ≤ (c.gates.get g).orderLevel.toNat) : handleOrder g level data c p = .taken c p := by
  simp [handleOrder, mode, decoded, inService, sound, Nat.not_lt.mpr allowed]

/-- Settles O39: the handler takes the order with the part as it was presented, so only the transaction in hand is new. -/
theorem orderWithoutChange : Obligations.OrderWithoutChange := by
  intro s g w tr _ accepted decoded mode inService sound allowed
  have hi : (Instr.order g w).write? = some (.order g, w) := rfl
  have passes : stage1 s.dyn.mode (levelOf s.tables w.master) = true := by
    rwa [stage1_iff, levelOf_eq_zero_iff]
  exact gives_held_of_taken hi accepted
    (handleOrder_repeats_target (p := presented s.dyn) passes decoded inService sound allowed)

end Sys2Proof.Machine
end

section
/-! A portal's page on the station bus: a busy portal refuses the writes of words 0 to 125, the access checks refuse those
of its result words, and its page is read as any other (R94, R125, R128, Table 7-5). -/

namespace Sys2Proof.Machine

/-! ### The access checks as a table (Table 7-4, R127) -/

theorem firstFailing_nil : firstFailing [] = none := rfl

theorem firstFailing_cons (fails : Bool) (code : Code) (checks : List (Bool × Code)) :
    firstFailing ((fails, code) :: checks) = if fails then some code else firstFailing checks := by
  cases fails <;> rfl

/-- Where the first n checks do not fail, the first that fails is among the others. -/
theorem firstFailing_drop {checks : List (Bool × Code)} {n : Nat} (h : firstFailing (checks.take n) = none) :
    firstFailing checks = firstFailing (checks.drop n) := by
  have pass : (checks.take n).find? (·.1) = none := Option.map_eq_none_iff.mp h
  calc firstFailing checks = firstFailing (checks.take n ++ checks.drop n) := by rw [List.take_append_drop]
    _ = firstFailing (checks.drop n) := by rw [firstFailing, List.find?_append, pass, Option.none_or, firstFailing]

theorem not_lanesAllowed (t : Transaction) :
    (t.write && !lanesAllowed t) = (t.write && !(t.hi && t.lo) && pageKind t.page != .plain) := by
  simp only [lanesAllowed, Bool.not_or, Bool.and_assoc]
  rfl

/-- The part's examination of a transaction is the table of the claims. -/
theorem accessCheck_eq_firstFailing (c : Tables) (p : Dyn) (t : Transaction) :
    accessCheck c p t = firstFailing (accessTable c p t) := by
  simp only [accessCheck, accessTable, firstFailing_cons, firstFailing_nil, not_lanesAllowed, decide_eq_true_eq]

/-- A WRITE of a part-owned word that fails none of the first seven checks fails the eighth. -/
theorem accessCheck_partOwned {c : Tables} {p : Dyn} {t : Transaction}
    (first : firstFailing ((accessTable c p t).take 7) = none) (write : t.write = true)
    (owned : partOwned t.page t.word = true) : accessCheck c p t = some .partOwned := by
  rw [accessCheck_eq_firstFailing, firstFailing_drop first]
  simp [accessTable, firstFailing_cons, write, owned]

theorem not_passes_of_partOwned {c : Tables} {p : Dyn} {t : Transaction} (write : t.write = true)
    (owned : partOwned t.page t.word = true) : ¬ Passes c p t := fun passes =>
  absurd (passes.owned write) (by simp [owned])

/-! ### Transactions to a byte address -/

/-- A WRITE to a byte address that an access check refuses, with its record formed. -/
theorem gives_refusedWith_of_accessCheck {address : BitVec 16} {m : MasterId} {hi lo : Bool} {data : Word} {s : State}
    {t : Transaction} {code : Code} (presents : (Instr.plainWrite address m hi lo data).transaction? = some t)
    (hand : s.dyn.hand = none) (check : accessCheck s.tables s.dyn t = some code) (recorded : code ≠ .notReady) :
    Gives (.plainWrite address m hi lo data) s s.tables (refusedWith s t code 0) := by
  obtain rfl := Option.some.inj presents
  have he := presentWrite_checked
    (h := handlerOf m data (targetOf (addressPage address) (addressWord address))) hand check
  rw [refuseAtCheck, if_neg recorded, refuseTransaction_presented] at he
  exact gives_of_arbitrate (congrArg _ he) (congrArg Option.isNone (refusedWith_running s _ code 0))

/-- A presented READ that passes the access checks. -/
theorem presentRead_taken {t : Transaction} {s : State} (hand : s.dyn.hand = none) (passes : Passes s.tables s.dyn t) :
    presentRead t s = { s with dyn := arbitrate s.tables s.dyn.running.isNone (held s t) } := by
  simp [presentRead, hand, readTaken, presented_check, (accessCheck_none_iff _ _ _).mpr passes, takeInHand_presented]

/-- A READ that passes the access checks waits for its store access, on whatever page it is (R125). -/
theorem gives_held_of_read {address : BitVec 16} {m : MasterId} {hi lo : Bool} {s : State} {t : Transaction}
    (accepted : Accepted (.stationBusRead address m hi lo) s t) :
    Gives (.stationBusRead address m hi lo) s s.tables (held s t) := by
  obtain ⟨presents, hand, passes⟩ := accepted
  obtain rfl := Option.some.inj presents
  exact gives_of_arbitrate (congrArg _ (presentRead_taken hand passes)) rfl

/-! ### The words of a portal's page (R94, Table 7-5) -/

theorem pageKind_portalPage (q : PortalId) : pageKind (portalPage q) = .portal := by
  revert q; decide

/-- The result words of a portal's page are part-owned (Table 7-5). -/
theorem partOwned_portalPage (q : PortalId) (w : WordIdx) : partOwned (portalPage q) w = decide (126 ≤ w.val) := by
  simp [partOwned, pageKind_portalPage]

theorem handlePortalHeader_busy {q : PortalId} {p : Dyn} (busy : (p.portals.get q).busy = true) (m : MasterId)
    (data : Word) (c : Tables) : handlePortalHeader q m data c p = .refused .portalBusy 0 none p := by
  simp [handlePortalHeader, busy, Handled.refuse]

theorem handlePortalItem_busy {q : PortalId} {p : Dyn} (busy : (p.portals.get q).busy = true) (k : Fin 125)
    (data : Word) (c : Tables) : handlePortalItem q k data c p = .refused .portalBusy 0 none p := by
  simp [handlePortalItem, busy, Handled.refuse]

/-- Settles O42: words 0 to 125 by the two handlers of a portal's page, its result words by the eighth access check, and
a READ by the rule for reads, which no busy flag enters. -/
theorem busyPortalRefusesWrites : Obligations.BusyPortalRefusesWrites := by
  intro s q tr _
  refine ⟨?words, ?results, fun _ _ _ _ accepted _ => gives_held_of_read accepted⟩
  case words =>
    rintro i w (rfl | ⟨k, rfl⟩) accepted busy
    case inl =>
      exact gives_refusedWith_of_refused (x := .portalHeader q) rfl accepted
        (handlePortalHeader_busy (p := presented s.dyn) busy w.master w.data s.tables)
    case inr =>
      exact gives_refusedWith_of_refused (x := .portalItem q k) rfl accepted
        (handlePortalItem_busy (p := presented s.dyn) busy k w.data s.tables)
  case results =>
    intro address m hi lo data presents hand page word
    have write : tr.write = true := by obtain rfl := Option.some.inj presents; rfl
    have owned : partOwned tr.page tr.word = true := by simp [page, partOwned_portalPage, word]
    exact ⟨not_passes_of_partOwned write owned, fun first =>
      gives_refusedWith_of_accessCheck presents hand (accessCheck_partOwned first write owned) (by decide)⟩

end Sys2Proof.Machine
end

section
/-! What the events of one change leave behind (R144 to R149, R152, R153): the flags that the link actions set stay set,
a matching entry has acted, and a record that has been formed is kept. -/

namespace Sys2Proof.Machine

/-! ### Growth -/

/-- The mode with the offered refresh and the exit-pass progress, and the alarm flags: of a gate's, a dam's or a reach's
event only the links write them. -/
def Dyn.controls (p : Dyn) : Mode × Option DamId × Nat × Vector Bool 4 := (p.mode, p.offer, p.progress, p.alarms)

theorem controls_fields {p q : Dyn} (h : q.controls = p.controls) :
    q.mode = p.mode ∧ q.offer = p.offer ∧ q.progress = p.progress ∧ q.alarms = p.alarms := by
  simpa only [Dyn.controls, Prod.mk.injEq] using h

/-- Within the links' frame, the flags only rise, HOLD is entered only by a link whose action is ENTER_HOLD (R148), and
an alarm flag is set only by a link that names it (R149). -/
structure LinkGrowth (c : Tables) (p q : Dyn) : Prop where
  frame : LinkFrame p q
  holds : ∀ d, (p.dams.get d).hold = true → (q.dams.get d).hold = true
  control :
    (q.mode = p.mode ∧ q.offer = p.offer ∧ q.progress = p.progress) ∨
      (q.mode = .hold ∧ (p.mode = .run ∨ p.mode = .exiting) ∧ q.offer = none ∧
        q.progress = (if p.mode = .exiting then 0 else p.progress) ∧ ∃ l, (c.links.get l).action = .enterHold)
  alarms : ∀ k, q.alarms.get k = p.alarms.get k ∨
    (q.alarms.get k = true ∧ ∃ l, (c.links.get l).action = .alarm ∧ (c.links.get l).target.toNat = k.val)

/-- Growth where no control changes. -/
theorem LinkFrame.growth {p q : Dyn} (frame : LinkFrame p q) (controls : q.controls = p.controls)
    (holds : ∀ d, (p.dams.get d).hold = true → (q.dams.get d).hold = true) (c : Tables) : LinkGrowth c p q := by
  obtain ⟨mode, offer, progress, alarms⟩ := controls_fields controls
  exact ⟨frame, holds, Or.inl ⟨mode, offer, progress⟩, fun k => Or.inl (by rw [alarms])⟩

theorem LinkGrowth.refl (c : Tables) (p : Dyn) : LinkGrowth c p p := (LinkFrame.refl p).growth rfl (fun _ => id) c

theorem LinkGrowth.trans {c : Tables} {p q r : Dyn} (h1 : LinkGrowth c p q) (h2 : LinkGrowth c q r) :
    LinkGrowth c p r where
  frame := h1.frame.trans h2.frame
  holds := fun d h => h2.holds d (h1.holds d h)
  control := by
    rcases h2.control with ⟨mode, offer, progress⟩ | ⟨mode, left, offer, progress, link⟩
    case inl => rw [mode, offer, progress]; exact h1.control
    case inr =>
      rcases h1.control with ⟨mode1, _, progress1⟩ | ⟨mode1, _⟩
      case inl =>
        rw [mode1] at left progress
        rw [progress1] at progress
        exact Or.inr ⟨mode, left, offer, progress, link⟩
      case inr => simp [mode1] at left
  alarms := fun k => by
    rcases h2.alarms k with same | set
    case inl => rw [same]; exact h1.alarms k
    case inr => exact Or.inr set

theorem LinkGrowth.foldl {α : Type} {c : Tables} (f : Dyn → α → Dyn) (h : ∀ p x, LinkGrowth c p (f p x)) :
    (l : List α) → (p : Dyn) → LinkGrowth c p (l.foldl f p)
  | [], p => .refl c p
  | x :: l, p => (h p x).trans (LinkGrowth.foldl f h l (f p x))

/-- The mode after some events is the old one, or HOLD. -/
theorem LinkGrowth.mode {c : Tables} {p q : Dyn} (h : LinkGrowth c p q) : q.mode = p.mode ∨ q.mode = .hold :=
  h.control.imp And.left And.left

/-- No link moves the part out of CONFIG (R148). -/
theorem LinkGrowth.mode_config {c : Tables} {p q : Dyn} (h : LinkGrowth c p q) (config : p.mode = .config) :
    q.mode = .config := by
  rcases h.control with ⟨mode, _⟩ | ⟨_, left, _⟩
  case inl => rw [mode, config]
  case inr => simp [config] at left

/-! ### The operations -/

@[simp] theorem changeCauses_dams (sel : GateId → Bool) (f : Causes → Causes) (p : Dyn) :
    (changeCauses sel f p).dams = p.dams :=
  foldl_keeps Dyn.dams _ (fun p g => by split <;> simp [setCauses]) _ p

@[simp] theorem changeCauses_controls (sel : GateId → Bool) (f : Causes → Causes) (p : Dyn) :
    (changeCauses sel f p).controls = p.controls :=
  foldl_keeps Dyn.controls _ (fun p g => by split <;> simp [setCauses, Dyn.controls]) _ p

@[simp] theorem markReach_controls (r : ReachId) (p : Dyn) : (markReach r p).controls = p.controls := rfl
@[simp] theorem putDam_controls (d : DamId) (x : Dam) (p : Dyn) : (putDam d x p).controls = p.controls := rfl

theorem setHold_hold (c : Tables) (d : DamId) (p : Dyn) : ((setHold c d p).dams.get d).hold = true := by
  simp only [setHold]
  split
  case isTrue set => exact set
  case isFalse => simp

theorem setHold_growth (c' c : Tables) (d : DamId) (p : Dyn) : LinkGrowth c' p (setHold c d p) := by
  refine (setHold_frame c d p).growth ?controls ?holds c'
  case controls =>
    simp only [setHold]
    split
    case isTrue => rfl
    case isFalse => simp
  case holds =>
    intro i set
    by_cases same : d = i
    case pos => subst same; exact setHold_hold c d p
    case neg =>
      simp only [setHold]
      split
      case isTrue => exact set
      case isFalse => simpa [same] using set

/-- ENTER_HOLD leaves the mode HOLD, or CONFIG, where it does nothing (R148). -/
theorem enterHold_mode (p : Dyn) : (enterHold p).mode = .hold ∨ (enterHold p).mode = .config := by
  unfold enterHold
  split
  case h_1 => exact Or.inl (changeCauses_mode _ _ _)
  case h_2 => exact Or.inl rfl
  case h_3 hold => exact Or.inl hold
  case h_4 config => exact Or.inr config

theorem enterHold_dams (p : Dyn) : (enterHold p).dams = p.dams := by
  unfold enterHold
  split
  case h_1 => simp
  case h_2 => simp
  case h_3 => rfl
  case h_4 => rfl

/-- An entry into HOLD, as R109 gives it from RUN and R111 from EXITING. -/
theorem enterHold_controls (p : Dyn) : (enterHold p).controls =
    if p.mode = .run ∨ p.mode = .exiting then
      (.hold, none, if p.mode = .exiting then 0 else p.progress, p.alarms)
    else p.controls := by
  unfold enterHold
  split
  case h_1 run => rw [changeCauses_controls]; simp [Dyn.controls, run]
  case h_2 exiting => simp [Dyn.controls, exiting]
  case h_3 hold => simp [hold]
  case h_4 config => simp [config]

theorem enterHold_growth {c : Tables} {l : LinkId} (action : (c.links.get l).action = .enterHold) (p : Dyn) :
    LinkGrowth c p (enterHold p) := by
  have holds : ∀ d, (p.dams.get d).hold = true → ((enterHold p).dams.get d).hold = true := by simp [enterHold_dams]
  by_cases left : p.mode = .run ∨ p.mode = .exiting
  case neg => exact (enterHold_frame p).growth (by simp [enterHold_controls, left]) holds c
  case pos =>
    have controls := enterHold_controls p
    simp only [left, if_true, Dyn.controls, Prod.mk.injEq] at controls
    obtain ⟨mode, offer, progress, alarms⟩ := controls
    exact ⟨enterHold_frame p, holds, Or.inr ⟨mode, left, offer, progress, l, action⟩,
      fun k => Or.inl (by rw [alarms])⟩

theorem linkAct_growth (c : Tables) (l : LinkId) (sub : Subject) (p : Dyn) :
    LinkGrowth c p (linkAct c (c.links.get l) sub p) := by
  have frame := linkAct_frame c (c.links.get l) sub p
  unfold linkAct at frame ⊢
  split
  case h_1 => exact .refl c p
  case h_2 =>
    split
    case isTrue => exact setHold_growth _ _ _ _
    case isFalse => exact .refl c p
  case h_3 =>
    split
    case h_1 => exact setHold_growth _ _ _ _
    case h_2 => exact .refl c p
  case h_4 action => exact enterHold_growth action p
  case h_5 action =>
    split
    case isFalse => exact .refl c p
    case isTrue named =>
      simp only [action, named, dif_pos] at frame
      refine ⟨frame, fun _ => id, Or.inl ⟨rfl, rfl, rfl⟩, fun k => ?_⟩
      by_cases same : (⟨(c.links.get l).target.toNat, named⟩ : AlarmId) = k
      case pos => exact Or.inr ⟨by simp [same], l, action, congrArg Fin.val same⟩
      case neg => exact Or.inl (by simp [same])

theorem offerLinks_growth (c : Tables) (kind : EventKind) (sub : Subject) (p : Dyn) :
    LinkGrowth c p (offerLinks c kind sub p) :=
  LinkGrowth.foldl _ (fun p l => by
    split
    · exact linkAct_growth c l sub p
    · exact .refl c p) _ p

theorem formRecord_growth (c : Tables) (r : LogRecord) (p : Dyn) : LinkGrowth c p (formRecord r p) :=
  (formRecord_frame r p).growth (by simp [Dyn.controls]) (by simp) c

theorem raise_growth (c : Tables) (e : Event) (p : Dyn) : LinkGrowth c p (raise c e p) :=
  (formRecord_growth c _ p).trans (offerLinks_growth c _ _ _)

theorem markReach_growth (c : Tables) (r : ReachId) (p : Dyn) : LinkGrowth c p (markReach r p) :=
  (markReach_frame r p).growth rfl (fun _ => id) c

theorem putExceeded_growth (c : Tables) (d : ReachId) (b : Bool) (p : Dyn) :
    LinkGrowth c p (putReach d { p.reaches.get d with exceeded := b } p) :=
  (putExceeded_frame d b p).growth rfl (fun _ => id) c

/-! ### Records -/

/-- A formed record is in the buffer, or LOG_LOST is set (R153). -/
theorem formRecord_recorded (r : LogRecord) (p : Dyn) : Recorded r (formRecord r p) := by
  rcases formRecord_buffer r p with ⟨buffer, _⟩ | ⟨_, lost, _⟩
  case inl => exact Or.inl (by simp [buffer])
  case inr => exact Or.inr (Or.inr lost)

/-- An entry into HOLD leaves the writing of a record alone: only a refresh loses its credit (R111). -/
theorem uncredit_running_log {p : Dyn} {r : LogRecord} {w : BitVec 6} {k : Nat} {a : Access}
    (h : p.running = some ⟨.log r w k, a⟩) : (uncredit p).running = some ⟨.log r w k, a⟩ := by
  simp [uncredit, h]

theorem Recorded.mono {r : LogRecord} {p q : Dyn} (h : Recorded r p) (frame : LinkFrame p q) : Recorded r q := by
  rcases h with buffered | ⟨w, k, a, writing⟩ | lost
  case inl =>
    obtain ⟨l, appended⟩ := frame.buffer
    exact Or.inl (by simp [appended, buffered])
  case inr.inl =>
    refine Or.inr (Or.inl ⟨w, k, a, ?_⟩)
    rcases frame.running with same | uncredited
    case inl => rw [same, writing]
    case inr => rw [uncredited, uncredit_running_log writing]
  case inr.inr => exact Or.inr (Or.inr (frame.lost lost))

/-! ### Links that have acted -/

/-- What a link has done stays done. -/
theorem LinkActed.mono {c : Tables} {l : Link} {sub : Subject} {p q : Dyn} (h : LinkActed c l sub p)
    (growth : LinkGrowth c p q) : LinkActed c l sub q := by
  obtain ⟨kind, index, action, target⟩ := l
  cases action
  case none => trivial
  case holdDam => exact fun d named => growth.holds d (h d named)
  case holdSourceDam => exact fun d named => growth.holds d (h d named)
  case enterHold =>
    rcases h with hold | config
    case inl => exact Or.inl (growth.mode.elim (·.trans hold) id)
    case inr => exact Or.inr (growth.mode_config config)
  case alarm =>
    intro k named
    rcases growth.alarms k with same | ⟨set, _⟩
    case inl => rw [same]; exact h k named
    case inr => exact set

theorem LinksActed.mono {c : Tables} {kind : EventKind} {sub : Subject} {p q : Dyn} (h : LinksActed c kind sub p)
    (growth : LinkGrowth c p q) : LinksActed c kind sub q :=
  fun l source index => (h l source index).mono growth

/-- An entry's action does what the claims say of it (R147 to R149). -/
theorem linkActed_linkAct (c : Tables) (l : Link) (sub : Subject) (p : Dyn) :
    LinkActed c l sub (linkAct c l sub p) := by
  obtain ⟨kind, index, action, target⟩ := l
  cases action
  case none => trivial
  case holdDam =>
    rintro ⟨d, bound⟩ (rfl : target.toNat = d)
    simp [linkAct, bound, setHold_hold]
  case holdSourceDam =>
    intro d (source : sourceDam c sub = some d)
    simp [linkAct, source, setHold_hold]
  case enterHold => exact enterHold_mode p
  case alarm =>
    rintro ⟨k, bound⟩ (rfl : target.toNat = k)
    simp [linkAct, bound]

theorem matchesEvent_iff (l : Link) (kind : EventKind) (sub : Subject) :
    l.matchesEvent kind sub = true ↔ l.kind = kind ∧ (l.index = 63 ∨ sub.index = some l.index.toNat) := by
  simp [Link.matchesEvent]

/-- An event has been offered to the links once every matching entry has acted: each acts at its turn, and no later one
undoes it (R146). -/
theorem offerLinks_acted (c : Tables) (kind : EventKind) (sub : Subject) (p : Dyn) :
    LinksActed c kind sub (offerLinks c kind sub p) := by
  intro l source index
  have acts : (c.links.get l).matchesEvent kind sub = true := (matchesEvent_iff _ _ _).mpr ⟨source, index⟩
  obtain ⟨before, after, split⟩ := List.append_of_mem (List.mem_finRange l)
  rw [offerLinks, split, List.foldl_append, List.foldl_cons, if_pos acts]
  refine (linkActed_linkAct c _ sub _).mono (LinkGrowth.foldl _ (fun p l => ?_) after _)
  split
  · exact linkAct_growth c l sub p
  · exact .refl c p

end Sys2Proof.Machine
end

section
/-! The EXCEEDED flags re-evaluated (R37): the flags agree with the bounds, and each that rises has raised its event. -/

namespace Sys2Proof.Machine

/-- The events of a change move no limit and no total, so the bounds are judged alike before and after them. -/
theorem firstViolated_frame (c : Tables) {p q : Dyn} (frame : LinkFrame p q) (r : ReachId) :
    firstViolated c q.totals q.reaches r = firstViolated c p.totals p.reaches r := by
  obtain ⟨b, same⟩ := frame.reaches r
  have limits : ∀ k : Bound,
      k.limit (c.reaches.get r) (q.reaches.get r) = k.limit (c.reaches.get r) (p.reaches.get r) := by
    intro k
    rw [same]
    cases k <;> rfl
  simp only [firstViolated, limits, frame.totals]

/-- The flag agrees with the bounds; all else of the reaches is as it was. -/
theorem reevaluate_reaches (c : Tables) (d : ReachId) (p : Dyn) (r : ReachId) :
    (reevaluate c d p).reaches.get r =
      { p.reaches.get r with
        exceeded :=
          if r = d then (firstViolated c p.totals p.reaches r).isSome else (p.reaches.get r).exceeded } := by
  have raised : ∀ (e : Event) (q : Dyn), (raise c e q).reaches = q.reaches := fun e q =>
    (rivers_fields (raise_rivers c e q)).2
  by_cases same : r = d
  case neg =>
    simp only [reevaluate, same, if_false]
    split
    all_goals simp [raised, Ne.symm same]
  case pos =>
    subst same
    simp only [reevaluate, if_true]
    split
    case h_1 violated _ => simp [raised, violated]
    case h_2 violated _ => simp [violated]
    case h_3 violated set => simp [violated, ← set]
    case h_4 violated clear => simp [violated, ← clear]

theorem reevaluate_growth (c : Tables) (d : ReachId) (p : Dyn) : LinkGrowth c p (reevaluate c d p) := by
  simp only [reevaluate]
  split
  case h_1 => exact ((putExceeded_growth c d true p).trans (markReach_growth c _ _)).trans (raise_growth c _ _)
  case h_2 => exact (putExceeded_growth c d false p).trans (markReach_growth c _ _)
  case h_3 => exact .refl c p
  case h_4 => exact .refl c p

theorem reevaluateAll_growth (c : Tables) (ds : List ReachId) (p : Dyn) : LinkGrowth c p (reevaluateAll c ds p) :=
  LinkGrowth.foldl _ (fun p d => reevaluate_growth c d p) ds p

theorem reevaluateAll_cons (c : Tables) (d : ReachId) (ds : List ReachId) (p : Dyn) :
    reevaluateAll c (d :: ds) p = reevaluateAll c ds (reevaluate c d p) := rfl

theorem reevaluateAll_reaches (c : Tables) (ds : List ReachId) (p : Dyn) (r : ReachId) :
    (reevaluateAll c ds p).reaches.get r =
      { p.reaches.get r with
        exceeded :=
          if r ∈ ds then (firstViolated c p.totals p.reaches r).isSome else (p.reaches.get r).exceeded } := by
  induction ds generalizing p with
  | nil => rfl
  | cons d ds ih =>
    rw [reevaluateAll_cons, ih, firstViolated_frame c (reevaluate_frame c d p), reevaluate_reaches]
    by_cases later : r ∈ ds <;> simp [later]

/-- BOUND_EXCEEDED(r) has been raised on the way from p to q: its record was formed at a state m of that way, and its
links have acted. -/
structure BoundRaised (c : Tables) (r : ReachId) (b : Bound) (p q : Dyn) : Prop where
  links : LinksActed c .boundExceeded (.reach r) q
  recorded : ∃ m, LinkGrowth c p m ∧ LinkGrowth c m q ∧ Recorded ((boundEvent c r b m).record m.tick) q

theorem BoundRaised.later {c : Tables} {r : ReachId} {b : Bound} {p q q' : Dyn} (h : BoundRaised c r b p q)
    (growth : LinkGrowth c q q') : BoundRaised c r b p q' := by
  obtain ⟨m, before, after, recorded⟩ := h.recorded
  exact ⟨h.links.mono growth, m, before, after.trans growth, recorded.mono growth.frame⟩

theorem BoundRaised.earlier {c : Tables} {r : ReachId} {b : Bound} {p' p q : Dyn} (h : BoundRaised c r b p q)
    (growth : LinkGrowth c p' p) : BoundRaised c r b p' q := by
  obtain ⟨m, before, after, recorded⟩ := h.recorded
  exact ⟨h.links, m, growth.trans before, after, recorded⟩

/-- A flag that a re-evaluation sets raises the event (R37). -/
theorem reevaluate_raises {c : Tables} {d : ReachId} {b : Bound} {p : Dyn} (clear : (p.reaches.get d).exceeded = false)
    (violated : firstViolated c p.totals p.reaches d = some b) : BoundRaised c d b p (reevaluate c d p) := by
  have raised : reevaluate c d p =
      raise c (boundEvent c d b (markReach d (putReach d { p.reaches.get d with exceeded := true } p)))
        (markReach d (putReach d { p.reaches.get d with exceeded := true } p)) := by
    simp only [reevaluate, violated, clear]
  rw [raised]
  exact ⟨offerLinks_acted c _ _ _, _, (putExceeded_growth c d true p).trans (markReach_growth c d _),
    raise_growth c _ _, (formRecord_recorded _ _).mono (offerLinks_frame c _ _ _)⟩

/-- A flag that the re-evaluation of several reaches sets raises the event, at its first turn. -/
theorem reevaluateAll_raises {c : Tables} {ds : List ReachId} {r : ReachId} {b : Bound} {p : Dyn} (listed : r ∈ ds)
    (clear : (p.reaches.get r).exceeded = false) (violated : firstViolated c p.totals p.reaches r = some b) :
    BoundRaised c r b p (reevaluateAll c ds p) := by
  induction ds generalizing p with
  | nil => simp at listed
  | cons d ds ih =>
    rw [reevaluateAll_cons]
    by_cases turn : r = d
    case pos =>
      subst turn
      exact (reevaluate_raises clear violated).later (reevaluateAll_growth c ds _)
    case neg =>
      have later : r ∈ ds := (List.mem_cons.mp listed).resolve_left turn
      refine (ih later ?_ ?_).earlier (reevaluate_growth c d p)
      · simp [reevaluate_reaches, turn, clear]
      · rw [firstViolated_frame c (reevaluate_frame c d p), violated]

end Sys2Proof.Machine
end

section
/-! A WRITE that is taken with events of its own: what the grant that follows it keeps of them (R136, R138, R154), in
the words of the claims. -/

namespace Sys2Proof.Machine

/-! ### The grant that follows an event -/

/-- A waiting portal job stands first in its queue, and a waiting record first in the buffer. -/
def Waiting.StandsFirst (p : Dyn) : Waiting → Prop
  | .portal j rest => p.portalJobs = j :: rest
  | .log r rest => p.logBuffer = r :: rest
  | _ => True

theorem refreshAt_standsFirst {p : Dyn} {k : Nat} {w : Waiting} (h : refreshAt k p = some w) : w.StandsFirst p := by
  unfold refreshAt at h
  split at h
  case h_1 =>
    obtain ⟨_, made⟩ := Option.ite_none_right_eq_some.mp h
    cases made
    trivial
  case h_2 => cases h

theorem waitingPortal_standsFirst {p : Dyn} {w : Waiting} (h : waitingPortal p = some w) : w.StandsFirst p := by
  unfold waitingPortal at h
  split at h
  case h_1 => cases h
  case h_2 queued => cases h; exact queued

theorem waitingRecord_standsFirst {p : Dyn} {w : Waiting} (h : waitingRecord p = some w) : w.StandsFirst p := by
  unfold waitingRecord at h
  split at h
  case h_1 => cases h
  case h_2 buffered =>
    split at h
    case isTrue => cases h
    case isFalse => cases h; exact buffered

/-- A job whose mark waits stands in no queue. -/
theorem standsFirst_of_map {α : Type} {p : Dyn} {f : α → Waiting} {mark : Option α} {w : Waiting}
    (h : mark.map f = some w) (alone : ∀ x, (f x).StandsFirst p) : w.StandsFirst p := by
  obtain ⟨x, _, rfl⟩ := Option.map_eq_some_iff.mp h
  exact alone x

theorem oldestMirror_standsFirst {p : Dyn} {w : Waiting} (h : oldestMirror p = some w) : w.StandsFirst p := by
  obtain ⟨⟨w, age⟩, oldest, rfl⟩ := Option.map_eq_some_iff.mp h
  rcases olderMark_eq oldest with two | summary
  case inl =>
    rcases olderMark_eq two with gate | reach
    case inl => obtain ⟨_, _, made⟩ := Option.map_eq_some_iff.mp gate; cases made; trivial
    case inr => obtain ⟨_, _, made⟩ := Option.map_eq_some_iff.mp reach; cases made; trivial
  case inr => obtain ⟨_, _, made⟩ := Option.map_eq_some_iff.mp summary; cases made; trivial

theorem standsFirst_of_mem {p : Dyn} {w : Waiting} (h : w ∈ waitingHeads p) : w.StandsFirst p := by
  simp only [waitingHeads, List.reduceOption_mem_iff, List.mem_cons, List.not_mem_nil, or_false,
    eq_comm (a := some w)] at h
  rcases h with refresh | hand | slot | portal | record | mirror | refresh | refresh
  · exact refreshAt_standsFirst refresh
  · exact standsFirst_of_map hand fun _ => trivial
  · exact standsFirst_of_map slot fun _ => trivial
  · exact waitingPortal_standsFirst portal
  · exact waitingRecord_standsFirst record
  · exact oldestMirror_standsFirst mirror
  · exact refreshAt_standsFirst refresh
  · exact refreshAt_standsFirst refresh

/-- Without a refresh that waits, the arbiter grants one waiting job at a free port, or nothing. -/
theorem Granted.eq_or_grantJob {c : Tables} {p q : Dyn} (h : Granted c p q)
    (noRefresh : p.running = none → NoRefreshWaits p) :
    q = p ∨ (p.running = none ∧ ∃ w ∈ waitingHeads p, w.isRefresh = false ∧ q = grantJob c w p) := by
  rcases h with ⟨same, _⟩ | ⟨free, w, offered, grants⟩
  case inl => exact Or.inl same
  case inr =>
    have waits := offeredTogether_sub offered
    have other := heads_noRefresh (noRefresh free) w waits
    exact Or.inr ⟨free, w, waits, other, grants.of_busy (grantJob_running other)⟩

/-- A grant loses no record: the one it takes out of the buffer is then being written. -/
theorem Granted.recorded {c : Tables} {p q : Dyn} {x : LogRecord} (h : Granted c p q)
    (noRefresh : p.running = none → NoRefreshWaits p) (recorded : Recorded x p) : Recorded x q := by
  rcases h.eq_or_grantJob noRefresh with rfl | ⟨free, w, waits, other, rfl⟩
  case inl => exact recorded
  case inr =>
    have first := standsFirst_of_mem waits
    rcases recorded with buffered | ⟨_, _, _, writing⟩ | lost
    case inr.inl => simp [free] at writing
    case inr.inr => exact Or.inr (Or.inr ((grantJob_frame other).logLost.trans lost))
    case inl =>
      cases w with
      | refresh d => simp [Waiting.isRefresh] at other
      | log r rest =>
        rw [show p.logBuffer = r :: rest from first, List.mem_cons] at buffered
        rcases buffered with rfl | behind
        · exact Or.inr (Or.inl ⟨_, _, _, rfl⟩)
        · exact Or.inl behind
      | _ => exact Or.inl buffered

/-- A grant takes no portal job where none is queued at a free port. -/
theorem Granted.portalJobs {c : Tables} {p q : Dyn} (h : Granted c p q)
    (noRefresh : p.running = none → NoRefreshWaits p) (empty : p.running = none → p.portalJobs = []) :
    q.portalJobs = p.portalJobs := by
  rcases h.eq_or_grantJob noRefresh with rfl | ⟨free, w, waits, other, rfl⟩
  case inl => rfl
  case inr =>
    have first := standsFirst_of_mem waits
    cases w with
    | refresh d => simp [Waiting.isRefresh] at other
    | portal j rest => exact absurd ((empty free).symm.trans first) (by simp)
    | _ => rfl

theorem portalJobs_of_noJobWaits {p : Dyn} (h : noJobWaits p = true) : p.portalJobs = [] := by
  cases queued : p.portalJobs with
  | nil => rfl
  | cons j rest =>
    have waits : Waiting.portal j rest ∈ waitingHeads p := by
      simp [waitingHeads, List.reduceOption_mem_iff, waitingPortal, queued]
    rw [List.isEmpty_iff.mp h] at waits
    cases waits

/-! ### A WRITE that is taken with its events -/

/-- State t has the WRITE tr taken, of which its handler and the events have made q; beside that at most one job has
been granted, which is no refresh. -/
structure TakenWithEvents (s t : State) (tr : Transaction) (q : Dyn) : Prop where
  growth : LinkGrowth t.tables (presented s.dyn) q
  store : StoreKept s t
  port : PortFrame (takeInHand tr q) t.dyn
  recorded : ∀ x, Recorded x q → Recorded x t.dyn
  portalJobs : t.dyn.portalJobs = q.portalJobs

/-- A row's WRITE whose handler takes it, and raises events at most. -/
theorem exec_takenWithEvents {i : Instr} {x : WriteTarget} {w : BusWrite} {s : State} {tr : Transaction} {c : Tables}
    {q : Dyn} (idle : PortIdle s) (hi : i.write? = some (x, w)) (ha : Accepted i s tr)
    (handled : handlerOf w.master w.data x s.tables (presented s.dyn) = .taken c q)
    (growth : LinkGrowth c (presented s.dyn) q) :
    ∃ t, exec i s = .next t ∧ t.tables = c ∧ TakenWithEvents s t tr q := by
  have presents : exec i s = .next (presentWrite tr (handlerOf w.master w.data x) s) := by
    rw [ha.transaction_eq hi]
    exact exec_write hi s
  obtain ⟨_, _, _, _, _, _, _, _, jobs, _, _, _, _, _, _, _, free⟩ := still_fields growth.frame.still
  have idleBefore : q.running = none → noJobWaits s.dyn = true := fun running =>
    idle (Option.isNone_iff_eq_none.mp (free.symm.trans (congrArg Option.isNone running)))
  have noRefresh : q.running = none → NoRefreshWaits q := fun running =>
    noRefreshWaits_links (p := presented s.dyn)
      (noRefreshWaits_congr (noRefreshWaits_of_idle (idleBefore running)) rfl rfl rfl) growth.frame
  have granted : Granted c (takeInHand tr q) (arbitrate c s.dyn.running.isNone (takeInHand tr q)) :=
    arbitrate_granted free.symm
  exact ⟨_, presents.trans (congrArg _ (presentWrite_taken ha.noneInHand ha.passes handled)), rfl, growth,
    ⟨rfl, rfl⟩, arbitrate_portFrame free.symm noRefresh, fun _ => granted.recorded noRefresh,
    granted.portalJobs noRefresh fun running => jobs.trans (portalJobs_of_noJobWaits (idleBefore running))⟩

namespace TakenWithEvents

variable {s t : State} {tr : Transaction} {q : Dyn}

theorem taken (h : TakenWithEvents s t tr q) : Taken tr t := by
  obtain ⟨_, _, _, _, _, _, _, _, _, _, answer, _⟩ := still_fields h.growth.frame.still
  exact ⟨h.port.hand, h.port.answer.trans answer⟩

theorem surroundings (h : TakenWithEvents s t tr q) : SameSurroundings s t := by
  obtain ⟨statusWords, portals, debt, pointer, pointerReset, refreshTimer, logWrite, logRead, jobs, _, _, passKind,
    passFailed, unfinished, tick, _⟩ := still_fields h.growth.frame.still
  have port := h.port
  exact
    { statusWords := port.statusWords.trans statusWords
      portals := port.portals.trans portals
      portalJobs := h.portalJobs.trans jobs
      debt := port.debt.trans debt
      pointer := port.pointer.trans pointer
      pointerReset := port.pointerReset.trans pointerReset
      refreshTimer := port.refreshTimer.trans refreshTimer
      logWrite := port.logWrite.trans logWrite
      logRead := port.logRead.trans logRead
      passKind := port.passKind.trans passKind
      passFailed := port.passFailed.trans passFailed
      powerOnUnfinished := port.powerOnUnfinished.trans unfinished
      tick := port.tick.trans tick }

theorem mode (h : TakenWithEvents s t tr q) : t.dyn.mode = q.mode := h.port.mode

theorem control (h : TakenWithEvents s t tr q) (links : t.tables.links = s.tables.links) : ControlByLinks s t where
  mode := by
    rw [h.port.mode, h.port.offer, h.port.progress, ← links]
    exact h.growth.control
  alarms := fun k => by
    rw [h.port.alarms, ← links]
    exact h.growth.alarms k

theorem totals (h : TakenWithEvents s t tr q) : t.dyn.totals = s.dyn.totals :=
  h.port.totals.trans h.growth.frame.totals

theorem reaches (h : TakenWithEvents s t tr q) : t.dyn.reaches = q.reaches := h.port.reaches

theorem damsButHold (h : TakenWithEvents s t tr q) (d : DamId) :
    Dam.sameButHold (s.dyn.dams.get d) (t.dyn.dams.get d) := by
  obtain ⟨hold, changed⟩ := h.growth.frame.dams d
  rw [h.port.dams]
  change q.dams.get d = { s.dyn.dams.get d with hold := (q.dams.get d).hold }
  rw [changed]
  rfl

theorem gatesOnlyHold (h : TakenWithEvents s t tr q) (g : GateId) :
    (s.dyn.gates.get g).OnlyHolds (t.dyn.gates.get g) := by
  rw [h.port.gates]
  exact h.growth.frame.gates g

/-- A link acts on dams, mode and alarms, which no grant writes. -/
theorem linksActed (h : TakenWithEvents s t tr q) {kind : EventKind} {sub : Subject}
    (acted : LinksActed t.tables kind sub q) : LinksActed t.tables kind sub t.dyn := by
  intro l source index
  have act := acted l source index
  have mode := h.port.mode
  unfold LinkActed at act ⊢
  rw [h.port.dams, h.port.alarms, mode]
  exact act

/-- The bounds after the command are judged as at its beginning: neither a limit nor a total has moved. -/
theorem firstViolated_kept (h : TakenWithEvents s t tr q) (c : Tables) (r : ReachId) :
    firstViolated c t.dyn.totals t.dyn.reaches r = firstViolated c s.dyn.totals s.dyn.reaches r := by
  rw [h.port.totals, h.port.reaches]
  exact firstViolated_frame c h.growth.frame r

/-- BOUND_EXCEEDED raised during the command is reported as the claims say (R37, Tables 10-1 and 11-9). -/
theorem boundsReported (h : TakenWithEvents s t tr q)
    (raised : ∀ r, (s.dyn.reaches.get r).exceeded = false → (q.reaches.get r).exceeded = true →
      ∃ b, firstViolated t.tables s.dyn.totals s.dyn.reaches r = some b ∧
        BoundRaised t.tables r b (presented s.dyn) q) :
    BoundsReported s t := by
  intro r clear set
  rw [h.reaches] at set
  obtain ⟨b, violated, event⟩ := raised r clear set
  obtain ⟨m, before, after, recorded⟩ := event.recorded
  obtain ⟨_, _, _, _, _, _, _, _, _, _, _, _, _, _, tick, _⟩ := still_fields before.frame.still
  have totals : m.totals = t.dyn.totals := before.frame.totals.trans h.totals.symm
  refine ⟨h.linksActed event.links, b, (h.firstViolated_kept _ r).trans violated, _, h.recorded _ recorded, rfl, rfl, rfl,
    rfl, rfl, rfl, tick, ?detail, ?context, ?value⟩
  case detail =>
    obtain ⟨_, reach⟩ := after.frame.reaches r
    rw [h.reaches, reach]
    cases b <;> rfl
  case context =>
    rcases before.mode with same | hold
    case inl => exact Or.inl (congrArg Context.mode same)
    case inr =>
      have ends : q.mode = m.mode := after.mode.elim id (·.trans hold.symm)
      exact Or.inr (congrArg Context.mode (h.mode.trans ends).symm)
  case value =>
    intro low high
    rw [← totals] at low high ⊢
    exact if_pos ⟨low, high⟩

end TakenWithEvents

end Sys2Proof.Machine
end

section
/-! A write of the last dam (R112): the outcomes of the rule's table, and a change of L as the budget unit takes it
(R32). -/

namespace Sys2Proof.Machine

/-! ### A change of L -/

/-- Above the last dam no bound is in force (R30), so none is violated. -/
theorem firstViolated_above_lastDam {c : Tables} {d : ReachId} (above : c.lastDam.val < d.val)
    (totals : Vector Word 6) (reaches : Vector Reach 6) : firstViolated c totals reaches d = none := by
  have idle : ∀ b : Bound, b.inForce c.lastDam d = false := by
    intro b
    cases b <;> simp only [Bound.inForce, decide_eq_false_iff_not] <;> omega
  simp [firstViolated, idle]

/-- Above the last dam no event can come of a re-evaluation: it only clears the flag. -/
theorem clearExceeded_eq_reevaluate {c : Tables} {d : ReachId} (above : c.lastDam.val < d.val) (p : Dyn) :
    clearExceeded d p = reevaluate c d p := by
  cases flag : (p.reaches.get d).exceeded <;>
    simp [clearExceeded, reevaluate, firstViolated_above_lastDam above, flag]

/-- The budget unit takes a change of L as a change of limits for every reach (R32). -/
theorem lastDamChanged_eq (c : Tables) (p : Dyn) : lastDamChanged c p = reevaluateAll c (List.finRange 6) p := by
  unfold lastDamChanged reevaluateAll
  congr 1
  funext p d
  split
  case isTrue => rfl
  case isFalse above => exact clearExceeded_eq_reevaluate (Nat.lt_of_not_le above) p

theorem lastDamChanged_reaches (c : Tables) (p : Dyn) (r : ReachId) :
    (lastDamChanged c p).reaches.get r =
      { p.reaches.get r with exceeded := (firstViolated c p.totals p.reaches r).isSome } := by
  simp [lastDamChanged_eq, reevaluateAll_reaches]

/-! ### The outcomes of the rule's table -/

theorem gateAbove_iff (c : Tables) (p : Dyn) (l : Nat) :
    gateAbove c p l = true ↔ ∃ g, (p.gates.get g).inService = true ∧ l < (c.gates.get g).dam.toNat := by
  simp [gateAbove]

section
variable {data : Word} {c : Tables} {p : Dyn}

theorem handleLastDam_badConfig (outside : 5 < (data.extractLsb' 0 3).toNat) :
    handleLastDam data c p = .refused .badConfig 0 none p := by
  simp only [handleLastDam, dif_neg (Nat.not_lt.mpr outside), Handled.refuse]

theorem handleLastDam_unchanged (same : (data.extractLsb' 0 3).toNat = c.lastDam.val) :
    handleLastDam data c p = .taken c p := by
  simp [handleLastDam, same]

theorem handleLastDam_modeChange (inside : (data.extractLsb' 0 3).toNat ≤ 5)
    (change : (data.extractLsb' 0 3).toNat ≠ c.lastDam.val) (mode : p.mode ≠ .config) :
    handleLastDam data c p = .refused .modeChange 0 none p := by
  simp only [handleLastDam, dif_pos (Nat.lt_succ_of_le inside), if_neg change, bne_iff_ne.mpr mode, if_true,
    Handled.refuse]

theorem handleLastDam_inService (inside : (data.extractLsb' 0 3).toNat ≤ 5)
    (change : (data.extractLsb' 0 3).toNat ≠ c.lastDam.val) (mode : p.mode = .config)
    (above : gateAbove c p (data.extractLsb' 0 3).toNat = true) :
    handleLastDam data c p = .refused .inService 0 none p := by
  simp only [handleLastDam, dif_pos (Nat.lt_succ_of_le inside), if_neg change, mode, bne_self_eq_false,
    Bool.false_eq_true, if_false, above, if_true, Handled.refuse]

theorem handleLastDam_changes {l : DamId} (value : (data.extractLsb' 0 3).toNat = l.val) (change : l ≠ c.lastDam)
    (mode : p.mode = .config) (within : gateAbove c p l.val = false) :
    handleLastDam data c p =
      .taken { c with lastDam := l } (lastDamChanged { c with lastDam := l } p) := by
  simp [handleLastDam, value, Fin.val_ne_of_ne change, mode, within]

end

/-- A change of L, taken in CONFIG with no gate in service above it (R112): what the budget unit's events leave. -/
theorem exec_lastDamWrite_changes {s : State} {w : BusWrite} {tr : Transaction} {l : DamId} (idle : PortIdle s)
    (accepted : Accepted (.lastDamWrite w) s tr) (value : (w.data.extractLsb' 0 3).toNat = l.val)
    (change : l ≠ s.tables.lastDam) (config : s.dyn.mode = .config)
    (within : ∀ g, (s.dyn.gates.get g).inService = true → (s.tables.gates.get g).dam.toNat ≤ l.val) :
    ∃ t, exec (.lastDamWrite w) s = .next t ∧ t.tables = { s.tables with lastDam := l } ∧
      TakenWithEvents s t tr (lastDamChanged t.tables (presented s.dyn)) := by
  have below : gateAbove s.tables (presented s.dyn) l.val = false := by
    rw [Bool.eq_false_iff, ne_eq, gateAbove_iff]
    rintro ⟨g, inService, above⟩
    exact absurd (within g inService) (Nat.not_le.mpr above)
  obtain ⟨t, next, tables, taken⟩ := exec_takenWithEvents (x := .lastDam) idle rfl accepted
    (handleLastDam_changes (p := presented s.dyn) value change config below)
    (by rw [lastDamChanged_eq]; exact reevaluateAll_growth _ _ _)
  exact ⟨t, next, tables, tables ▸ taken⟩

/-- An EXCEEDED flag that a change of L sets has raised BOUND_EXCEEDED (R32, R37). -/
theorem TakenWithEvents.boundsReported_lastDam {s t : State} {tr : Transaction}
    (h : TakenWithEvents s t tr (lastDamChanged t.tables (presented s.dyn))) : BoundsReported s t := by
  refine h.boundsReported fun r clear set => ?_
  rw [lastDamChanged_reaches] at set
  obtain ⟨b, violated⟩ := Option.isSome_iff_exists.mp set
  refine ⟨b, violated, ?_⟩
  rw [lastDamChanged_eq]
  exact reevaluateAll_raises (List.mem_finRange r) clear violated

/-- The flags after a change of L, as R32 gives them: up to L they agree with the bounds, above it they are clear. -/
theorem TakenWithEvents.reaches_lastDam {s t : State} {tr : Transaction}
    (h : TakenWithEvents s t tr (lastDamChanged t.tables (presented s.dyn))) (r : ReachId) :
    t.dyn.reaches.get r =
      { s.dyn.reaches.get r with
        exceeded :=
          if r.val ≤ t.tables.lastDam.val then (firstViolated t.tables t.dyn.totals t.dyn.reaches r).isSome
          else false } := by
  rw [h.firstViolated_kept, h.reaches, lastDamChanged_reaches]
  split
  case isTrue => rfl
  case isFalse above =>
    rw [firstViolated_above_lastDam (Nat.lt_of_not_le above)]
    rfl

/-- Settles O35: the refusals and the write without a change by the handler's cases; a change of L by what its
re-evaluation of every reach leaves; the resets by their tables. -/
theorem lastDamWrite : Obligations.LastDamWrite := by
  refine ⟨fun s w tr idle accepted => ⟨?badConfig, ?unchanged, ?modeChange, ?inService, ?changes⟩,
    fun s => ⟨powerOn s, rfl, rfl⟩, fun s => ⟨resetLine s, rfl, rfl⟩⟩
  case badConfig =>
    intro outside
    exact gives_refusedWith_of_refused (x := .lastDam) rfl accepted
      (handleLastDam_badConfig (p := presented s.dyn) outside)
  case unchanged =>
    intro same
    exact gives_held_of_taken (x := .lastDam) rfl accepted (handleLastDam_unchanged (p := presented s.dyn) same)
  case modeChange =>
    intro inside change mode
    exact gives_refusedWith_of_refused (x := .lastDam) rfl accepted
      (handleLastDam_modeChange (p := presented s.dyn) inside change mode)
  case inService =>
    intro inside change config above
    exact gives_refusedWith_of_refused (x := .lastDam) rfl accepted
      (handleLastDam_inService (p := presented s.dyn) inside change config ((gateAbove_iff _ _ _).mpr above))
  case changes =>
    intro l value change config within
    obtain ⟨t, next, tables, taken⟩ := exec_lastDamWrite_changes idle accepted value change config within
    have lastDam : t.tables.lastDam = l := congrArg Tables.lastDam tables
    refine ⟨t, next, tables, taken.store, taken.surroundings, taken.taken,
      taken.mode.trans (taken.growth.mode_config config), taken.control (by rw [tables]),
      taken.boundsReported_lastDam, taken.totals, taken.damsButHold, fun r => ?_, taken.gatesOnlyHold⟩
    rw [← lastDam]
    exact taken.reaches_lastDam r

end Sys2Proof.Machine
end

section
/-! The alarm clear word (R150): what a taken write leaves of the alarm flags, and the word's place in both passes. -/

namespace Sys2Proof.Machine

/-! ### The grant that follows a taken WRITE -/

/-- Where no refresh waits at a free port, the arbiter writes the port's own fields alone. -/
theorem Granted.portFrame {c : Tables} {p q : Dyn} (h : Granted c p q)
    (noRefresh : p.running = none → NoRefreshWaits p) : PortFrame p q := by
  rcases h.eq_or_grantJob noRefresh with rfl | ⟨_, w, _, other, rfl⟩
  case inl => exact .refl q
  case inr => exact grantJob_frame other

/-- A row's WRITE that its handler takes with effects of its own, none of them a job for the port. -/
theorem gives_takeInHand_of_taken {i : Instr} {x : WriteTarget} {w : BusWrite} {s : State} {t : Transaction} {c : Tables}
    {p : Dyn} (hi : i.write? = some (x, w)) (ha : Accepted i s t)
    (handled : handlerOf w.master w.data x s.tables (presented s.dyn) = .taken c p)
    (running : p.running = s.dyn.running) : Gives i s c (takeInHand t p) := by
  obtain rfl := ha.transaction_eq hi
  exact gives_of_arbitrate ((exec_write hi s).trans (congrArg _ (presentWrite_taken ha.noneInHand ha.passes handled)))
    (congrArg Option.isNone running)

/-! ### The initialisation passes (R131, R132) -/

/-- Both passes write the alarm clear word with 0, whatever the flags. -/
theorem passWord_alarmClear (c : Tables) (p : Dyn) (last : Bool) : passWord c p last 0 7 = 0 := by
  have handled : targetOf 0 7 = .alarmClear := targetOf_place .alarmClear rfl
  simp [passWord, handled, targetWord]

/-- In either pass the alarm clear word is the eighth write: word 1, word 0, then words 2 to 7 of page 0. -/
theorem locate_alarmClear (kind : PassKind) : locate kind.regions 7 = some (0, 7) := by
  cases kind <;> rfl

theorem passAccess_alarmClear (c : Tables) (p : Dyn) (kind : PassKind) :
    passAccess c p kind 7 = ownWrite 0 7 0 := by
  simp only [passAccess, locate_alarmClear, passWord_alarmClear]
  rfl

/-- A pass write to the alarm clear word carries 0, at whatever place of the pass it stands. -/
theorem passAccess_data_of_alarmClear {c : Tables} {p : Dyn} {kind : PassKind} {k : Nat}
    (page : (passAccess c p kind k).page = 0) (word : (passAccess c p kind k).word = 7) :
    (passAccess c p kind k).data = 0 := by
  cases located : locate kind.regions k with
  | none =>
    simp only [passAccess, located, partWrite] at word
    cases word
  | some place =>
    obtain ⟨q, w⟩ := place
    simp only [passAccess, located, partWrite] at page word ⊢
    rw [page, word, passWord_alarmClear]

/-! ### The write -/

/-- The alarm clear word is taken in every state: the transaction is in hand, and the named flags are clear. -/
theorem gives_of_alarmClearWrite {s : State} {w : BusWrite} {tr : Transaction}
    (accepted : Accepted (.alarmClearWrite w) s tr) :
    Gives (.alarmClearWrite w) s s.tables
      { held s tr with alarms := Table.tab fun k => s.dyn.alarms.get k && !w.data.getLsbD k.val } :=
  gives_takeInHand_of_taken (x := .alarmClear) rfl accepted rfl rfl

/-- A grant that follows leaves the alarm lines as the write has put them. -/
theorem alarmLine_of_alarmClearWrite {s t : State} {w : BusWrite} {tr : Transaction} (idle : PortIdle s)
    (accepted : Accepted (.alarmClearWrite w) s tr) (next : exec (.alarmClearWrite w) s = .next t) (k : AlarmId) :
    alarmLine t.dyn k = (alarmLine s.dyn k && !w.data.getLsbD k.val) := by
  obtain ⟨q, granted, executed⟩ := gives_of_alarmClearWrite accepted
  obtain rfl := Host.Outcome.next.inj (executed.symm.trans next)
  have frame := granted.portFrame fun free =>
    noRefreshWaits_congr (noRefreshWaits_of_idle (idle free)) rfl rfl rfl
  simp only [alarmLine, frame.alarms, Table.tab_get]

/-- Settles O22: the handler clears the flags that are named, and neither the transaction in hand nor the grant that
follows touches one; the passes by their one value for the word. -/
theorem alarmClearWrite : Obligations.AlarmClearWrite := by
  refine ⟨fun s w tr idle accepted => ⟨gives_of_alarmClearWrite accepted, fun t next k => ?line⟩, rfl,
    fun kind => ⟨7, ?inPass, fun c p => passAccess_alarmClear c p kind⟩, fun _ _ _ _ => passAccess_data_of_alarmClear⟩
  case line => exact alarmLine_of_alarmClearWrite idle accepted next k
  case inPass => cases kind <;> decide

end Sys2Proof.Machine
end

section
/-! Link entry writes (R145): the codes of an entry's fields, the checks of the rule against the entry as the write would
leave it, and the words of the entry that a taken write leaves. -/

namespace Sys2Proof.Machine

/-! ### The codes of Tables 11-5 and 11-6 -/

theorem EventKind.code_of_ofCode {n : Nat} {k : EventKind} (h : EventKind.ofCode n = some k) : k.code = n := by
  unfold EventKind.ofCode at h
  split at h <;> cases h <;> rfl

theorem EventKind.lt_of_ofCode_none {n : Nat} (h : EventKind.ofCode n = none) : 11 < n := by
  by_contra named
  have inside : n < 12 := by omega
  interval_cases n <;> cases h

theorem Action.code_of_ofCode {n : Nat} {a : Action} (h : Action.ofCode n = some a) : a.code = n := by
  unfold Action.ofCode at h
  split at h <;> cases h <;> rfl

theorem Action.lt_of_ofCode_none {n : Nat} (h : Action.ofCode n = Option.none) : 4 < n := by
  by_contra named
  have inside : n < 5 := by omega
  interval_cases n <;> cases h

/-! ### The cases that the rule refuses -/

theorem linkRefused_of_kind {kind : Nat} (h : 10 < kind) (index action target : Nat) :
    linkRefused kind index action target = true := by
  simp [linkRefused, h]

theorem linkRefused_of_action {action : Nat} (h : 4 < action) (kind index target : Nat) :
    linkRefused kind index action target = true := by
  simp [linkRefused, h]

/-- The rule examines the source and the action of an entry each by itself. -/
theorem linkRefused_eq_source_or_action (kind index action target : Nat) :
    linkRefused kind index action target = (linkRefused kind index 0 0 || linkRefused 0 63 action target) := by
  simp [linkRefused, Bool.or_assoc]

theorem linkRefused_source (l : Link) :
    linkRefused l.kind.code l.index.toNat 0 0 = !(l.kind != .reset && l.indexValid) := by
  obtain ⟨kind, index, action, target⟩ := l
  have any : index = 63#6 ↔ index.toNat = 63 := BitVec.toNat_inj.symm
  rw [Bool.eq_iff_iff]
  cases kind <;> simp [linkRefused, Link.indexValid, EventKind.code, EventKind.lastSubject, any]

theorem linkRefused_action (l : Link) : linkRefused 0 63 l.action.code l.target.toNat = !l.targetValid := by
  obtain ⟨kind, index, action, target⟩ := l
  rw [Bool.eq_iff_iff]
  cases action <;> simp [linkRefused, Link.targetValid, Action.code]

/-- The cases of the rule, by the codes of an entry, are those that the unit does not let in. -/
theorem linkRefused_eq_not_valid (l : Link) :
    linkRefused l.kind.code l.index.toNat l.action.code l.target.toNat = !l.valid := by
  rw [linkRefused_eq_source_or_action, linkRefused_source, linkRefused_action, Link.valid, ← Bool.not_and]

/-! ### The words of an entry (Table 11-5, R159) -/

/-- The source word keeps the fields that it names, and 0 elsewhere. -/
theorem linkSource_fields (w : Word) :
    (0 : BitVec 4) ++ w.extractLsb' 8 4 ++ (0 : BitVec 2) ++ w.extractLsb' 0 6 = w &&& 0x0F3F := by
  refine BitVec.eq_of_getLsbD_eq fun i hi => ?_
  simp only [BitVec.getLsbD_append, BitVec.getLsbD_and, BitVec.getLsbD_extractLsb']
  interval_cases i <;> simp

/-- The action word keeps the fields that it names, and 0 elsewhere. -/
theorem linkAction_fields (w : Word) :
    (0 : BitVec 5) ++ w.extractLsb' 8 3 ++ (0 : BitVec 5) ++ w.extractLsb' 0 3 = w &&& 0x0707 := by
  refine BitVec.eq_of_getLsbD_eq fun i hi => ?_
  simp only [BitVec.getLsbD_append, BitVec.getLsbD_and, BitVec.getLsbD_extractLsb']
  interval_cases i <;> simp

section
variable {l e : Link} {i : Fin 2} {data : Word}

/-- The word that has been written holds the written fields. -/
theorem Link.withWord_word_same (h : l.withWord i data = some e) :
    e.word i = data &&& (if i = 0 then 0x0F3F else 0x0707) := by
  obtain rfl | rfl : i = 0 ∨ i = 1 := by omega
  case inl =>
    obtain ⟨kind, named, rfl⟩ := Option.map_eq_some_iff.mp h
    simp only [Link.word, EventKind.code_of_ofCode named, BitVec.ofNat_toNat, BitVec.setWidth_eq]
    exact linkSource_fields data
  case inr =>
    obtain ⟨action, named, rfl⟩ := Option.map_eq_some_iff.mp h
    simp only [Link.word, Action.code_of_ofCode named, BitVec.ofNat_toNat, BitVec.setWidth_eq]
    exact linkAction_fields data

/-- The other word of the entry stands. -/
theorem Link.withWord_word_other (h : l.withWord i data = some e) {j : Fin 2} (other : j ≠ i) : e.word j = l.word j := by
  obtain ⟨rfl, rfl⟩ | ⟨rfl, rfl⟩ : (i = 0 ∧ j = 1) ∨ (i = 1 ∧ j = 0) := by omega
  case inl =>
    obtain ⟨kind, _, rfl⟩ := Option.map_eq_some_iff.mp h
    rfl
  case inr =>
    obtain ⟨action, _, rfl⟩ := Option.map_eq_some_iff.mp h
    rfl

end

/-! ### The write -/

/-- The rule names entry l as a write of the data to its word i would leave it, with its other word as it stands. -/
def Link.refusesWrite (l : Link) (i : Fin 2) (data : Word) : Bool :=
  linkRefused
    (if i = 0 then (data.extractLsb' 8 4).toNat else l.kind.code)
    (if i = 0 then (data.extractLsb' 0 6).toNat else l.index.toNat)
    (if i = 0 then l.action.code else (data.extractLsb' 8 3).toNat)
    (if i = 0 then l.target.toNat else (data.extractLsb' 0 3).toNat)

section
variable {l e : Link} {i : Fin 2} {data : Word}

/-- A word whose code names nothing is among the rule's cases. -/
theorem Link.refusesWrite_of_withWord_none (h : l.withWord i data = none) : l.refusesWrite i data = true := by
  obtain rfl | rfl : i = 0 ∨ i = 1 := by omega
  case inl =>
    exact linkRefused_of_kind (Nat.lt_of_succ_lt (EventKind.lt_of_ofCode_none (Option.map_eq_none_iff.mp h))) _ _ _
  case inr => exact linkRefused_of_action (Action.lt_of_ofCode_none (Option.map_eq_none_iff.mp h)) _ _ _

/-- Where the codes name something, the rule's cases are judged on the entry that the write would leave. -/
theorem Link.refusesWrite_of_withWord_some (h : l.withWord i data = some e) : l.refusesWrite i data = !e.valid := by
  rw [← linkRefused_eq_not_valid]
  obtain rfl | rfl : i = 0 ∨ i = 1 := by omega
  case inl =>
    obtain ⟨kind, named, rfl⟩ := Option.map_eq_some_iff.mp h
    rw [EventKind.code_of_ofCode named]
    rfl
  case inr =>
    obtain ⟨action, named, rfl⟩ := Option.map_eq_some_iff.mp h
    rw [Action.code_of_ofCode named]
    rfl

end

section
variable {l : LinkId} {i : Fin 2} {data : Word} {c : Tables} {p : Dyn}

theorem handleLink_refused (refused : (c.links.get l).refusesWrite i data = true) :
    handleLink l i data c p = .refused .badConfig 0 none p := by
  cases written : (c.links.get l).withWord i data with
  | none => simp only [handleLink, written, Handled.refuse]
  | some e =>
    have invalid : e.valid = false := by simpa [Link.refusesWrite_of_withWord_some written] using refused
    simp [handleLink, written, invalid, Handled.refuse]

theorem handleLink_taken (taken : (c.links.get l).refusesWrite i data = false) :
    ∃ e, (c.links.get l).withWord i data = some e ∧
      handleLink l i data c p = .taken { c with links := Table.put c.links l e } p := by
  cases written : (c.links.get l).withWord i data with
  | none => simp [Link.refusesWrite_of_withWord_none written] at taken
  | some e =>
    have valid : e.valid = true := by simpa [Link.refusesWrite_of_withWord_some written] using taken
    exact ⟨e, rfl, by simp [handleLink, written, valid]⟩

end

/-- Settles O25: the handler's cases by whether the rule names the entry as it would be left; the resets by their
tables. -/
theorem linkEntryWrite : Obligations.LinkEntryWrite := by
  refine ⟨fun s l i w tr _ accepted => ⟨fun refused => ?badConfig, fun allowed => ?taken⟩,
    fun s => ⟨powerOn s, rfl, fun l => ?powerOn⟩, fun s => ⟨resetLine s, rfl, rfl⟩⟩
  case badConfig =>
    exact gives_refusedWith_of_refused (x := .link l i) rfl accepted
      (handleLink_refused (p := presented s.dyn) refused)
  case taken =>
    obtain ⟨e, written, handled⟩ := handleLink_taken (p := presented s.dyn) allowed
    exact ⟨e, Link.withWord_word_same written, fun _ => Link.withWord_word_other written,
      gives_held_of_taken (x := .link l i) rfl accepted handled⟩
  case powerOn => exact Table.tab_get _ l

end Sys2Proof.Machine
end

section
/-! The step and the commands as functions of the state: each command is answered with a next state that the waiting
commands do not touch (R121, R135); the commands that the protocol excludes. -/

namespace Sys2Proof.Machine

/-- Settles O1: both halves are the two cases of `step`. -/
theorem stepTakesTheFrontCommand : Obligations.StepTakesTheFrontCommand := by
  refine ⟨fun i rest s => rfl, fun s empty => ?_⟩
  rw [step, empty]

/-! ### What a TICK arrival finds due -/

/-- Some gate waits to join the pending step queue. -/
def joinWaits (c : Tables) (p : Dyn) : Bool := (List.finRange 48).any fun g => joinable c p g

/-- The join of the gates whose step intervals have elapsed, which ends `takeDue`. -/
def waitingJoin : State → State := inEventIf joinWaits fun c => joinAndScan c (fun _ => true) false

/-- The events that a TICK arrival takes first where they are due (log entry 10). -/
inductive Expiry : (State → State) → Prop
  | lag (g : GateId) : Expiry (lagExpiry g)
  | recovery (g : GateId) : Expiry (recoveryExpiry g)
  | dwell (d : DamId) : Expiry (warningDwellExpiry d)
  | sample (r : ReachId) (k : Sensor) : Expiry (sampleExpiry r k)
  | refresh : Expiry refreshIntervalExpiry
  | history (d : DamId) (dir : Direction) : Expiry (historyAged d dir)
  | grantTick (g : GateId) : Expiry (grantTickAged g)
  | join : Expiry waitingJoin

/-- One change after another, in ascending index order. -/
def inOrder {n : Nat} (e : Fin n → State → State) (s : State) : State := (List.finRange n).foldl (fun s i => e i s) s

theorem waitingJoin_eq (s : State) : waitingJoin s =
    if (List.finRange 48).any fun g => joinable s.tables s.dyn g then
      inEvent (fun c => joinAndScan c (fun _ => true) false) s
    else s := rfl

theorem takeDue_eq (s : State) : takeDue s = waitingJoin (inOrder grantTickAged
    (inOrder (fun d s => historyAged d .closing (historyAged d .opening s)) (refreshIntervalExpiry
      (inOrder (fun r s => sampleExpiry r .b (sampleExpiry r .a s)) (inOrder warningDwellExpiry
        (inOrder recoveryExpiry (inOrder lagExpiry s))))))) := by
  unfold takeDue
  dsimp only
  rw [← waitingJoin_eq]
  unfold inOrder
  with_reducible rfl

section Closed

variable {Q : (State → State) → Prop} (refl : Q id) (comp : ∀ f g, Q f → Q g → Q fun s => g (f s))
include refl comp

theorem foldl_closed {α : Type} {f : State → α → State} (each : ∀ x, Q fun s => f s x) :
    (l : List α) → Q fun s => l.foldl f s
  | [] => refl
  | x :: l => comp _ _ (each x) (foldl_closed each l)

theorem inOrder_closed {n : Nat} {e : Fin n → State → State} (each : ∀ i, Q (e i)) : Q (inOrder e) :=
  foldl_closed refl comp each _

/-- What holds of every expiry, and of one change after another, holds of `takeDue`. -/
theorem takeDue_closed (expiry : ∀ f, Expiry f → Q f) : Q takeDue := by
  have lag := inOrder_closed refl comp fun g => expiry _ (.lag g)
  have recovery := inOrder_closed refl comp fun g => expiry _ (.recovery g)
  have dwell := inOrder_closed refl comp fun d => expiry _ (.dwell d)
  have sample := inOrder_closed refl comp fun r => comp _ _ (expiry _ (.sample r .a)) (expiry _ (.sample r .b))
  have history := inOrder_closed refl comp fun d =>
    comp _ _ (expiry _ (.history d .opening)) (expiry _ (.history d .closing))
  have aged := inOrder_closed refl comp fun g => expiry _ (.grantTick g)
  rw [funext takeDue_eq]
  exact comp _ _ (comp _ _ (comp _ _ (comp _ _ (comp _ _ (comp _ _ (comp _ _ lag recovery) dwell) sample)
    (expiry _ .refresh)) history) aged) (expiry _ .join)

end Closed

/-! ### The kinds of command -/

/-- The words that rows write are words with a row of their own. -/
theorem Instr.write?_hasRow {i : Instr} {x : WriteTarget} {w : BusWrite} (h : i.write? = some (x, w)) :
    x.hasRow = true := by
  cases i with
  | masterEntryWrite i w =>
    obtain ⟨rfl, -⟩ := Prod.mk.inj (Option.some.inj h)
    simp [WriteTarget.hasRow]
  | _ => simp [Instr.write?] at h <;> simp [← h.1, WriteTarget.hasRow]

/-- The kinds of command: a reset, a TICK, an expiry or ageing, a bus command, an answer of the store. -/
inductive CommandKind : Instr → (State → State) → Prop
  | powerOn : CommandKind .powerOnReset powerOn
  | resetLine : CommandKind .resetLine resetLine
  | tick : CommandKind .tick tickEvent
  | expiry {i : Instr} {f : State → State} : Expiry f → CommandKind i f
  | stepInterval (g : GateId) : CommandKind (.stepIntervalElapsed g) (stepIntervalElapse g)
  | write {i : Instr} {x : WriteTarget} {w : BusWrite} : x.hasRow = true → CommandKind i (writeTo x w)
  | writeAt (address : BitVec 16) (m : MasterId) (hi lo : Bool) (data : Word) :
      CommandKind (.plainWrite address m hi lo data) (writeAt address m hi lo data)
  | readAt (address : BitVec 16) (m : MasterId) (hi lo : Bool) :
      CommandKind (.stationBusRead address m hi lo) (readAt address m hi lo)
  | answer {i : Instr} (kind : Job → Bool) (ans : StoreAnswer) : CommandKind i (accessDone kind ans)

theorem exec_kind (i : Instr) : ∃ f, CommandKind i f ∧ ∀ s, exec i s = .next (f s) := by
  cases hw : i.write? with
  | some x => exact ⟨_, .write (Instr.write?_hasRow hw), exec_write hw⟩
  | none =>
    cases i with
    | powerOnReset => exact ⟨_, .powerOn, fun _ => rfl⟩
    | resetLine => exact ⟨_, .resetLine, fun _ => rfl⟩
    | tick => exact ⟨_, .tick, fun _ => rfl⟩
    | lagTimerExpiry g => exact ⟨_, .expiry (.lag g), fun _ => rfl⟩
    | recoveryExpiry g => exact ⟨_, .expiry (.recovery g), fun _ => rfl⟩
    | warningDwellExpiry d => exact ⟨_, .expiry (.dwell d), fun _ => rfl⟩
    | sampleExpiry r k => exact ⟨_, .expiry (.sample r k), fun _ => rfl⟩
    | refreshIntervalExpiry => exact ⟨_, .expiry .refresh, fun _ => rfl⟩
    | stepIntervalElapsed g => exact ⟨_, .stepInterval g, fun _ => rfl⟩
    | lastGrantTickAged g => exact ⟨_, .expiry (.grantTick g), fun _ => rfl⟩
    | stepHistoryAged d dir => exact ⟨_, .expiry (.history d dir), fun _ => rfl⟩
    | plainWrite address m hi lo data => exact ⟨_, .writeAt address m hi lo data, fun _ => rfl⟩
    | stationBusRead address m hi lo => exact ⟨_, .readAt address m hi lo, fun _ => rfl⟩
    | forwardedAccessComplete a => exact ⟨_, .answer Job.isForwarded a, fun _ => rfl⟩
    | slotWriteAccessDone a => exact ⟨_, .answer Job.isSlot a, fun _ => rfl⟩
    | refreshAccessDone a => exact ⟨_, .answer Job.isRefresh a, fun _ => rfl⟩
    | portalJobAccessDone a => exact ⟨_, .answer Job.isPortal a, fun _ => rfl⟩
    | logRecordAccessDone a => exact ⟨_, .answer Job.isLog a, fun _ => rfl⟩
    | mirrorWriteAccessDone a => exact ⟨_, .answer Job.isMirror a, fun _ => rfl⟩
    | passWriteAccessDone a => exact ⟨_, .answer Job.isPass a, fun _ => rfl⟩
    | _ => cases hw

/-! ### The waiting commands -/

/-- A change of the state that neither reads nor writes the waiting commands. -/
def IgnoresPending (f : State → State) : Prop :=
  ∀ (s : State) (q : List Instr), f { s with pending := q } = { f s with pending := q }

theorem ignoresPending_comp {f g : State → State} (hf : IgnoresPending f) (hg : IgnoresPending g) :
    IgnoresPending fun s => g (f s) := fun s q => (congrArg g (hf s q)).trans (hg (f s) q)

theorem ignoresPending_ite {cond : State → Bool} {f g : State → State} (hf : IgnoresPending f) (hg : IgnoresPending g)
    (hc : ∀ (s : State) (q : List Instr), cond { s with pending := q } = cond s) :
    IgnoresPending fun s => if cond s then f s else g s := by
  intro s q
  dsimp only
  rw [hc s q]
  cases cond s
  · exact hg s q
  · exact hf s q

theorem inEvent_ignoresPending (f : Tables → Dyn → Dyn) : IgnoresPending (inEvent f) := fun _ _ => rfl

theorem inEventIf_ignoresPending (due : Tables → Dyn → Bool) (f : Tables → Dyn → Dyn) :
    IgnoresPending (inEventIf due f) :=
  ignoresPending_ite (cond := fun s => due s.tables s.dyn) (g := id) (inEvent_ignoresPending f) (fun _ _ => rfl)
    fun _ _ => rfl

theorem Expiry.ignoresPending {f : State → State} (h : Expiry f) : IgnoresPending f := by
  cases h <;> exact inEventIf_ignoresPending _ _

theorem takeDue_ignoresPending : IgnoresPending takeDue :=
  takeDue_closed (fun _ _ => rfl) (fun _ _ => ignoresPending_comp) fun _ => Expiry.ignoresPending

theorem tickEvent_ignoresPending : IgnoresPending tickEvent :=
  ignoresPending_comp (f := takeDue) (g := inEvent tickArrival) takeDue_ignoresPending (inEvent_ignoresPending _)

theorem presentWrite_ignoresPending (t : Transaction) (h : Handler) : IgnoresPending (presentWrite t h) :=
  ignoresPending_ite (cond := fun s => s.dyn.hand.isSome) (f := id) (fun _ _ => rfl) (fun _ _ => rfl) fun _ _ => rfl

theorem presentRead_ignoresPending (t : Transaction) : IgnoresPending (presentRead t) :=
  ignoresPending_ite (cond := fun s => s.dyn.hand.isSome) (f := id) (fun _ _ => rfl) (fun _ _ => rfl) fun _ _ => rfl

theorem accessDone_ignoresPending (kind : Job → Bool) (ans : StoreAnswer) : IgnoresPending (accessDone kind ans) := by
  intro s q
  unfold accessDone
  cases s.dyn.running with
  | none => rfl
  | some r =>
    dsimp only
    cases kind r.job <;> rfl

theorem CommandKind.ignoresPending {i : Instr} {f : State → State} (h : CommandKind i f) : IgnoresPending f := by
  cases h with
  | powerOn => exact fun _ _ => rfl
  | resetLine => exact fun _ _ => rfl
  | tick => exact tickEvent_ignoresPending
  | expiry h => exact h.ignoresPending
  | stepInterval g => exact inEventIf_ignoresPending _ _
  | write _ => exact presentWrite_ignoresPending _ _
  | writeAt => exact presentWrite_ignoresPending _ _
  | readAt => exact presentRead_ignoresPending _
  | answer kind ans => exact accessDone_ignoresPending kind ans

/-- Settles O2: each command's function ignores the waiting commands. -/
theorem everyCommandIsAnswered : Obligations.EveryCommandIsAnswered := by
  intro i s
  obtain ⟨f, kind, answered⟩ := exec_kind i
  exact ⟨f s, fun q => (answered _).trans (congrArg _ (kind.ignoresPending s q))⟩

/-! ### Commands that the protocol excludes -/

theorem inEventIf_idle {due : Tables → Dyn → Bool} {s : State} (idle : due s.tables s.dyn = false)
    (f : Tables → Dyn → Dyn) : inEventIf due f s = s := by
  rw [inEventIf, idle]
  rfl

theorem Timer.due_eq_false {t : Timer} (h : t ≠ .running 0) : t.due = false := by
  rw [Timer.due, beq_eq_false_iff_ne]
  exact h

theorem presentWrite_inHand {s : State} (hand : s.dyn.hand.isSome = true) (t : Transaction) (h : Handler) :
    presentWrite t h s = s := if_pos hand

theorem presentRead_inHand {s : State} (hand : s.dyn.hand.isSome = true) (t : Transaction) : presentRead t s = s :=
  if_pos hand

/-- A bus command while a transaction is in hand (log entry 1). -/
theorem exec_inHand {i : Instr} {s : State} {tr : Transaction} (presents : i.transaction? = some tr)
    (hand : s.dyn.hand.isSome = true) : exec i s = .next s := by
  cases hw : i.write? with
  | some x => exact (exec_write hw s).trans (congrArg _ (presentWrite_inHand hand _ _))
  | none =>
    cases i with
    | plainWrite a m hi lo data => exact congrArg Host.Outcome.next (presentWrite_inHand hand _ _)
    | stationBusRead a m hi lo => exact congrArg Host.Outcome.next (presentRead_inHand hand _)
    | _ => simp [Instr.transaction?, Instr.write?] at presents hw

theorem accessDone_other {kind : Job → Bool} {s : State} (other : ∀ r, s.dyn.running = some r → kind r.job = false)
    (ans : StoreAnswer) : accessDone kind ans s = s := by
  unfold accessDone
  split
  case h_1 => rfl
  case h_2 r running => rw [other r running]; rfl

/-- Settles O16: each meaning is guarded by the condition it acts under. -/
theorem untimelyCommandsChangeNothing : Obligations.UntimelyCommandsChangeNothing := by
  intro s
  have idle {due : Tables → Dyn → Bool} (h : due s.tables s.dyn = false) (f : Tables → Dyn → Dyn) :
      Host.Outcome.next (φ := Fault) (ρ := Refusal) (inEventIf due f s) = .next s := congrArg _ (inEventIf_idle h f)
  refine ⟨fun i tr => exec_inHand, fun g h => idle (Timer.due_eq_false h) _, fun g h => idle (Timer.due_eq_false h) _,
    fun d h => idle (Timer.due_eq_false h) _, fun r k h => idle (Timer.due_eq_false h) _,
    fun h => idle (Timer.due_eq_false h) _, fun g h => idle h _, fun g h => idle h _, fun d dir h => idle h _, ?answers⟩
  intro kind i which other a
  have kept : Host.Outcome.next (φ := Fault) (ρ := Refusal) (accessDone kind a s) = .next s :=
    congrArg _ (accessDone_other other a)
  obtain ⟨rfl, rfl⟩ | ⟨rfl, rfl⟩ | ⟨rfl, rfl⟩ | ⟨rfl, rfl⟩ | ⟨rfl, rfl⟩ | ⟨rfl, rfl⟩ | ⟨rfl, rfl⟩ := which <;>
    exact kept

/-! ### The store (R135) -/

theorem accessDone_canonical {kind : Job → Bool} {ans : StoreAnswer} {s : State} (h : StoreCanonical s) :
    StoreCanonical (accessDone kind ans s) := by
  unfold accessDone
  split
  case h_1 => exact h
  case h_2 r _ =>
    split
    · exact storeAfter_wf _ _ _ _ _ h
    · exact h

/-- A change of the state that leaves the store as it was. -/
def KeepsStore (f : State → State) : Prop := ∀ s, (f s).store = s.store

theorem inEvent_keepsStore (f : Tables → Dyn → Dyn) : KeepsStore (inEvent f) := fun _ => rfl

theorem inEventIf_keepsStore (due : Tables → Dyn → Bool) (f : Tables → Dyn → Dyn) : KeepsStore (inEventIf due f) := by
  intro s
  unfold inEventIf
  split <;> rfl

theorem presentWrite_keepsStore (t : Transaction) (h : Handler) : KeepsStore (presentWrite t h) := by
  intro s
  unfold presentWrite
  split <;> rfl

theorem presentRead_keepsStore (t : Transaction) : KeepsStore (presentRead t) := by
  intro s
  unfold presentRead
  split <;> rfl

theorem Expiry.keepsStore {f : State → State} (h : Expiry f) : KeepsStore f := by
  cases h <;> exact inEventIf_keepsStore _ _

theorem takeDue_keepsStore : KeepsStore takeDue :=
  takeDue_closed (fun _ => rfl) (fun f _ hf hg s => (hg (f s)).trans (hf s)) fun _ => Expiry.keepsStore

theorem tickEvent_keepsStore : KeepsStore tickEvent := fun s =>
  (inEvent_keepsStore tickArrival (takeDue s)).trans (takeDue_keepsStore s)

theorem CommandKind.canonical {i : Instr} {f : State → State} (h : CommandKind i f) {s : State}
    (canonical : StoreCanonical s) : StoreCanonical (f s) := by
  have kept {f : State → State} (keeps : KeepsStore f) : StoreCanonical (f s) :=
    (congrArg (fun m => Memory.wf m = true) (keeps s)).mpr canonical
  cases h with
  | powerOn => exact storeAbandoned_wf _ _ _ canonical
  | resetLine => exact storeAbandoned_wf _ _ _ canonical
  | tick => exact kept tickEvent_keepsStore
  | expiry h => exact kept h.keepsStore
  | stepInterval g => exact kept (inEventIf_keepsStore _ _)
  | write _ => exact kept (presentWrite_keepsStore _ _)
  | writeAt => exact kept (presentWrite_keepsStore _ _)
  | readAt => exact kept (presentRead_keepsStore _)
  | answer kind ans => exact accessDone_canonical canonical

/-- A step is the front command's meaning, or idling. -/
theorem step_cases {s t : State} (next : step s = .next t) :
    t = s ∨ ∃ i rest, s.pending = i :: rest ∧ exec i { s with pending := rest } = .next t := by
  unfold step at next
  split at next
  case h_1 => exact .inl (Host.Outcome.next.inj next).symm
  case h_2 i rest waits => exact .inr ⟨i, rest, waits, next⟩

/-- A property of states that every kind of command keeps is kept by every step. The waiting commands do not matter to
it. -/
theorem step_keeps {P : State → Prop} (pending : ∀ (s : State) q, P s → P { s with pending := q })
    (kinds : ∀ i f, CommandKind i f → ∀ s, P s → P (f s)) {s t : State} (next : step s = .next t) (h : P s) : P t := by
  obtain rfl | ⟨i, rest, -, next⟩ := step_cases next
  · exact h
  · obtain ⟨f, kind, answered⟩ := exec_kind i
    obtain rfl := Host.Outcome.next.inj ((answered _).symm.trans next)
    exact kinds i f kind _ (pending s rest h)

/-- Settles O54: only the answers of the store and the two resets change the store, each by whole words. -/
theorem everyStepKeepsTheStoreCanonical : Obligations.EveryStepKeepsTheStoreCanonical := fun _ _ next canonical =>
  step_keeps (P := StoreCanonical) (fun _ _ h => h) (fun _ _ kind _ => kind.canonical) next canonical

end Sys2Proof.Machine
end

section
/-! The resets (R131 to R134), the state after reset, and the tick records that age (R73, R80). -/

namespace Sys2Proof.Machine

/-! ### The dynamic state after a reset -/

theorem Dyn.initial_cleared (c : Tables) (kind : PassKind) (logWrite logRead : BitVec 6) (answer : Option BusAnswer)
    (moment : Nat) : DynamicsCleared c kind (Dyn.initial c kind logWrite logRead answer moment) := by
  refine ⟨fun g => Table.tab_get _ g, fun d => Table.tab_get _ d, fun d => Table.tab_get _ d,
    fun r => (Table.tab_get _ r).trans rfl, fun n => Table.tab_get _ n, rfl, fun q => ?portal, ⟨rfl, rfl, rfl, rfl,
      rfl, rfl, rfl⟩, fun k => Table.tab_get _ k, ⟨rfl, rfl⟩, fun g => Table.tab_get _ g, fun g => Table.tab_get _ g,
    fun r => Table.tab_get _ r, rfl, rfl, rfl, rfl, rfl, rfl, rfl, rfl⟩
  case portal => exact ⟨by simp [Dyn.initial], fun i => by simp [Dyn.initial]⟩

theorem Dyn.initial_linesReleased (c : Tables) (kind : PassKind) (logWrite logRead : BitVec 6)
    (answer : Option BusAnswer) (moment : Nat) :
    LinesReleased (Dyn.initial c kind logWrite logRead answer moment) :=
  ⟨fun d => ⟨by simp [holdLine, Dyn.initial, Dam.initial], by simp [warnLine, Dyn.initial, Dam.initial]⟩,
    fun k => by simp [alarmLine, Dyn.initial], rfl⟩

/-- A reset leaves the store as it was, or makes the access that it cuts off (R134). -/
theorem accessAbandoned_of_store {s t : State} {n : Nat} (store : t.store = storeAbandoned s.store s.dyn.running n) :
    AccessAbandoned s t := by
  rw [AccessAbandoned, store]
  unfold storeAbandoned
  split
  case h_1 => exact .inl rfl
  case h_2 j a running =>
    split
    case isTrue written =>
      exact .inr ⟨⟨j, a⟩, running, (Bool.and_eq_true_iff.mp written).1, rfl⟩
    case isFalse => exact .inl rfl

theorem Tables.powerOn_atPowerOn : TablesAtPowerOn .powerOn where
  gates g := Table.tab_get _ g
  dams d := Table.tab_get _ d
  reaches r i := by
    rw [Tables.powerOn, Table.tab_get]
    fin_cases i <;> rfl
  matrix i := Table.tab_get _ i
  portals q := Table.tab_get _ q
  conditions k := Table.tab_get _ k
  links l := Table.tab_get _ l
  masters m := Table.tab_get _ m
  descriptors q := Table.tab_get _ q
  lastDam := rfl
  refreshInterval := rfl

/-- Settles O3: the reset state, field by field. -/
theorem powerOnResetClearsThePart : Obligations.PowerOnResetClearsThePart := fun s =>
  ⟨powerOn s, rfl, Tables.powerOn_atPowerOn, Dyn.initial_cleared .., rfl, rfl, rfl, accessAbandoned_of_store rfl,
    Dyn.initial_linesReleased .., rfl⟩

/-- Settles O4: the reset state over the configuration in force. -/
theorem resetLineKeepsTheConfiguration : Obligations.ResetLineKeepsTheConfiguration := fun s =>
  ⟨resetLine s, rfl, rfl, Dyn.initial_cleared .., rfl, rfl, rfl, accessAbandoned_of_store rfl,
    Dyn.initial_linesReleased .., rfl⟩

/-! ### The invariants after a reset, whatever the configuration -/

section Initial

/-- The dynamic state is one that a reset leaves. -/
def State.IsInitial (s : State) : Prop :=
  ∃ kind logWrite logRead answer moment, s.dyn = Dyn.initial s.tables kind logWrite logRead answer moment

variable {s : State}

theorem State.IsInitial.gate (h : s.IsInitial) (g : GateId) : s.dyn.gates.get g = .initial := by
  obtain ⟨_, _, _, _, _, h⟩ := h
  rw [h, Dyn.initial, Table.tab_get]

theorem State.IsInitial.out (h : s.IsInitial) (g : GateId) : (s.dyn.gates.get g).inService = false := by
  rw [h.gate g]
  rfl

theorem Gate.initial_sound (kind : GateKind) : Gate.initial.Sound kind where
  rest _ := ⟨rfl, rfl, rfl⟩
  closed h := by cases h
  settled h := by cases h
  moving h := by cases h
  held h := by cases h
  warning h := by cases h
  recovering h := by cases h
  faulted h := by cases h
  interlock h := by cases h
  recovery h := absurd rfl h

theorem State.IsInitial.gatesSound (h : s.IsInitial) : GatesSound s := by
  refine ⟨?queue, fun g => h.gate g ▸ Gate.initial_sound _⟩
  case queue =>
    obtain ⟨_, _, _, _, _, h⟩ := h
    rw [QueueSound, h]
    exact ⟨List.nodup_nil, fun g hg => by cases hg⟩

theorem State.IsInitial.causesFollow (h : s.IsInitial) : CausesFollow s := by
  intro g inService
  rw [h.out g] at inService
  cases inService

theorem State.IsInitial.interlockSound (h : s.IsInitial) : InterlockSound s := by
  intro g interlock
  rw [h.gate g] at interlock
  cases interlock

theorem State.IsInitial.floodGatesWarned (h : s.IsInitial) : FloodGatesWarned s := by
  intro g d _ _ inService
  rw [h.out g] at inService
  cases inService

theorem State.IsInitial.debtInRange (h : s.IsInitial) : DebtInRange s := by
  obtain ⟨_, _, _, _, _, h⟩ := h
  rw [DebtInRange, h]
  exact ⟨show (-4 : Int) ≤ 0 by decide, show (0 : Int) ≤ 7 by decide, fun _ => show (-3 : Int) ≤ 0 by decide⟩

theorem State.IsInitial.totalsExact (h : s.IsInitial) : TotalsExact s := by
  intro d
  have nothing : countedRelease s d = fun _ => 0 := by
    funext g
    simp [countedRelease, h.out g]
  obtain ⟨_, _, _, _, _, h⟩ := h
  rw [nothing, h, Dyn.initial, Table.tab_get, List.map_const', List.sum_replicate]
  rfl

theorem State.IsInitial.openingsInRange (h : s.IsInitial) : OpeningsInRange s := by
  intro g
  rw [h.gate g]
  exact ⟨by decide, by decide, by decide⟩

theorem State.IsInitial.reach (h : s.IsInitial) (r : ReachId) :
    s.dyn.reaches.get r = .initial (s.tables.reaches.get r) := by
  obtain ⟨_, _, _, _, _, h⟩ := h
  rw [h, Dyn.initial, Table.tab_get]

theorem State.IsInitial.levelsInRange (h : s.IsInitial) : LevelsInRange s := by
  intro r
  rw [h.reach r]
  exact ⟨Nat.zero_le _, Nat.zero_le _, Nat.zero_le _⟩

theorem State.IsInitial.limitsFollowLevel (h : s.IsInitial) : LimitsFollowLevel s := by
  intro r
  rw [h.reach r]
  exact ⟨rfl, rfl⟩

theorem State.IsInitial.portalsSound (h : s.IsInitial) : PortalsSound s := by
  obtain ⟨_, _, _, _, _, h⟩ := h
  rw [PortalsSound, h]
  exact ⟨List.nodup_nil, fun q => by simp [Dyn.initial, portalsAtWork]⟩

theorem State.IsInitial.handSound (h : s.IsInitial) : HandSound s := by
  obtain ⟨_, _, _, _, _, h⟩ := h
  intro t a running
  rw [h, Dyn.initial] at running
  cases running

theorem State.IsInitial.portIdle (h : s.IsInitial) : PortIdle s := by
  obtain ⟨_, _, _, _, _, h⟩ := h
  intro running
  rw [h, Dyn.initial] at running
  cases running

end Initial

theorem Descriptor.powerOn_fixed (q : PageId) :
    (Descriptor.powerOn q).present = true ∧ (Descriptor.powerOn q).limit.toNat = fixedLimit q := by
  refine ⟨rfl, ?_⟩
  have small : fixedLimit q < 2 ^ 8 := by
    unfold fixedLimit
    repeat' split
    all_goals decide
  rw [Descriptor.powerOn, BitVec.toNat_ofNat, Nat.mod_eq_of_lt small]

theorem Tables.powerOn_fixedEntries {s : State} (h : s.tables = .powerOn) : FixedEntries s := by
  rw [FixedEntries, h]
  refine ⟨Table.tab_get _ _, fun q _ => ?_⟩
  rw [Tables.powerOn, Table.tab_get]
  exact Descriptor.powerOn_fixed q

theorem Tables.powerOn_linksValid {s : State} (h : s.tables = .powerOn) : LinksValid s := by
  intro l
  rw [h, Tables.powerOn, Table.tab_get]
  rfl

theorem State.reset_isInitial : State.reset.IsInitial := ⟨.powerOn, 0, 0, none, 0, rfl⟩

/-- Settles O5: the reset state is an initial one over the power-on tables. -/
theorem resetStateMeetsTheInvariants : Obligations.ResetStateMeetsTheInvariants :=
  have h := State.reset_isInitial
  ⟨Tables.powerOn_atPowerOn, Dyn.initial_cleared .., Dyn.initial_linesReleased .., rfl, rfl, rfl, h.gatesSound,
    h.causesFollow, h.interlockSound, h.floodGatesWarned, h.debtInRange, h.totalsExact, h.openingsInRange,
    h.levelsInRange, h.limitsFollowLevel, Tables.powerOn_fixedEntries rfl, Tables.powerOn_linksValid rfl,
    h.portalsSound, h.handSound, h.portIdle⟩

/-! ### Events after which no job waits -/

/-- The arbiter has nothing to grant at a free port where no job waits. -/
theorem arbitrate_of_noJobWaits {c : Tables} {b : Bool} {p : Dyn} (idle : p.running = none → noJobWaits p = true) :
    arbitrate c b p = p := by
  cases running : p.running with
  | some r => exact arbitrate_busy (by simp [running])
  | none =>
    have none : waitingHeads p = [] := List.isEmpty_iff.mp (idle running)
    have nothing : offeredTogether p = [] := by simp [offeredTogether, none]
    have byClass : grantByClass c (grantFuel p) p = p := by
      unfold grantFuel
      simp [grantByClass, running, none]
    cases b with
    | false => simp [arbitrate, running, byClass]
    | true => simp [arbitrate, running, nothing]

/-- An event that is due and after which no job waits at a free port. -/
theorem inEventIf_quiet {due : Tables → Dyn → Bool} {f : Tables → Dyn → Dyn} {s : State} {q : Dyn}
    (isDue : due s.tables s.dyn = true) (effect : f s.tables (counted s) = q)
    (idle : q.running = none → noJobWaits q = true) : inEventIf due f s = { s with dyn := q } := by
  have advance : f s.tables s.dyn.advance = q := effect
  rw [inEventIf, isDue, if_pos rfl, inEvent, advance, arbitrate_of_noJobWaits idle]

/-- Settles O15: the record is dropped, and no job that was not waiting waits. -/
theorem agedTickRecordsAreDropped : Obligations.AgedTickRecordsAreDropped := by
  refine ⟨fun s g idle isAged => ?grant, fun s d idle isAged => ?opening, fun s d idle isAged => ?closing⟩
  case grant => exact congrArg Host.Outcome.next (inEventIf_quiet isAged rfl idle)
  case opening => exact congrArg Host.Outcome.next (inEventIf_quiet isAged rfl idle)
  case closing => exact congrArg Host.Outcome.next (inEventIf_quiet isAged rfl idle)

/-! ### Access checks and forwarding (R125 to R129) -/

theorem presentRead_checked {t : Transaction} {s : State} {code : Code} (hand : s.dyn.hand = none)
    (check : accessCheck s.tables s.dyn t = some code) :
    presentRead t s =
      { s with dyn := arbitrate s.tables s.dyn.running.isNone (refuseAtCheck t code (presented s.dyn)) } := by
  simp [presentRead, hand, readTaken, presented_check, check]

/-- A bus command whose transaction an access check refuses. -/
theorem exec_checked {i : Instr} {s : State} {tr : Transaction} {code : Code} (presents : i.transaction? = some tr)
    (hand : s.dyn.hand = none) (check : accessCheck s.tables s.dyn tr = some code) :
    exec i s = .next
      { s with dyn := arbitrate s.tables s.dyn.running.isNone (refuseAtCheck tr code (presented s.dyn)) } := by
  cases hw : i.write? with
  | some x =>
    obtain rfl := Option.some.inj ((transaction_write hw).symm.trans presents)
    exact (exec_write hw s).trans (congrArg _ (presentWrite_checked hand check))
  | none =>
    cases i with
    | plainWrite address m hi lo data =>
      obtain rfl := Option.some.inj presents
      exact congrArg Host.Outcome.next (presentWrite_checked hand check)
    | stationBusRead address m hi lo =>
      obtain rfl := Option.some.inj presents
      exact congrArg Host.Outcome.next (presentRead_checked hand check)
    | _ => simp [Instr.transaction?, Instr.write?] at presents hw

theorem refuseAtCheck_notReady (t : Transaction) {s : State} (hand : s.dyn.hand = none) :
    refuseAtCheck t .notReady (presented s.dyn) =
      { counted s with answer := some ⟨t.master, .refused .notReady⟩ } := by
  rw [refuseAtCheck, if_pos rfl, answerWith, ← hand]
  rfl

theorem refuseAtCheck_recorded (t : Transaction) {code : Code} (recorded : code ≠ .notReady) (s : State) :
    refuseAtCheck t code (presented s.dyn) = refusedWith s t code 0 := by
  rw [refuseAtCheck, if_neg recorded, refuseTransaction_presented]

/-- Settles O18: the first check that fails, in the order of its table; NOT_READY makes no record. -/
theorem accessChecksRefuseInOrder : Obligations.AccessChecksRefuseInOrder := by
  intro i s tr code idle presents hand fails
  have answered := exec_checked presents hand ((accessCheck_eq_firstFailing _ _ _).trans fails)
  refine ⟨fun notReady => ?notReady, fun recorded => ?recorded⟩
  case notReady =>
    subst notReady
    rw [refuseAtCheck_notReady tr hand, arbitrate_of_noJobWaits (p := { counted s with answer := _ }) idle] at answered
    exact answered
  case recorded =>
    rw [refuseAtCheck_recorded tr recorded] at answered
    exact gives_of_arbitrate answered (congrArg Option.isNone (refusedWith_running s tr code 0))

theorem handlerOf_noRow {address : BitVec 16} (noRow : noRowOfItsOwn address = true) (m : MasterId) (data : Word) :
    handlerOf m data (targetOf (addressPage address) (addressWord address)) = handlePlain := by
  unfold noRowOfItsOwn at noRow
  split at noRow
  case h_1 plain => rw [plain]; rfl
  case h_2 unreached => rw [unreached]; rfl
  case h_3 => cases noRow

/-- Settles O19: a READ has no handler, and a word with no row of its own has the empty one. -/
theorem forwardedTransactionsWaitForTheStore : Obligations.ForwardedTransactionsWaitForTheStore := by
  refine ⟨fun address m hi lo s tr _ accepted => gives_held_of_read accepted,
    fun address m hi lo data s tr _ noRow accepted => ?_⟩
  obtain rfl := Option.some.inj accepted.presents
  have handled : handlerOf m data (targetOf (addressPage address) (addressWord address)) s.tables (presented s.dyn) =
      .taken s.tables (presented s.dyn) := by
    rw [handlerOf_noRow noRow]
    rfl
  have taken := presentWrite_taken accepted.noneInHand accepted.passes handled
  rw [takeInHand_presented] at taken
  exact gives_of_arbitrate (congrArg Host.Outcome.next taken) rfl

/-! ### Rows and addresses (log entry 19) -/

/-- Settles O17: the address of a row's word names that word, and the word its handler. -/
theorem eachWriteRowIsTheWriteOfItsAddress : Obligations.EachWriteRowIsTheWriteOfItsAddress := by
  intro i x w s h
  have target := targetOf_place x (Instr.write?_hasRow h)
  obtain ⟨page, word, odd⟩ := address_of_byteAddress x.place.1 x.place.2 w.odd
  refine ⟨target, ?_⟩
  rw [exec_write h]
  show Host.Outcome.next (writeAt _ w.master w.hi w.lo w.data s) = .next (writeTo x w s)
  rw [writeAt, page, word, odd, target]
  rfl

end Sys2Proof.Machine
end

section
/-! The writes of configuration and control words that only replace a copy (R19, R91, R92, R113, R122, R124, R155), the
service control writes without effect (R3 to R5), and the answer to a forwarded transaction (R129). -/

namespace Sys2Proof.Machine

/-! ### Dams and page 0 (R19, R113, R122, R155) -/

theorem Word.eq_zero_or_one {x : Word} (h : x.toNat ≤ 1) : x = 0 ∨ x = 1 := by
  rcases Nat.le_one_iff_eq_zero_or_eq_one.mp h with h | h
  · exact .inl (BitVec.eq_of_toNat_eq h)
  · exact .inr (BitVec.eq_of_toNat_eq h)

theorem Word.not_zero_not_one {x : Word} (h : 1 < x.toNat) : x ≠ 0 ∧ x ≠ 1 := by
  constructor <;> rintro rfl <;> simp at h

theorem handleRefreshKeep_taken {data : Word} (small : data.toNat ≤ 1) (d : DamId) (c : Tables) (p : Dyn) :
    handleRefreshKeep d data c p =
      .taken { c with dams := Table.put c.dams d { c.dams.get d with keep := data == 1 } } p := by
  obtain rfl | rfl := Word.eq_zero_or_one small <;> rfl

theorem handleRefreshKeep_refused {data : Word} (large : 1 < data.toNat) (d : DamId) (c : Tables) (p : Dyn) :
    handleRefreshKeep d data c p = .refused .badConfig 0 none p := by
  obtain ⟨notZero, notOne⟩ := Word.not_zero_not_one large
  rw [handleRefreshKeep, if_neg notZero, if_neg notOne]
  rfl

theorem handleRefreshInterval_taken {data : Word} (h : data ≠ 0) (c : Tables) (p : Dyn) :
    handleRefreshInterval data c p = .taken { c with refreshInterval := data } p := if_neg h

theorem handleRefreshInterval_refused {data : Word} (h : data = 0) (c : Tables) (p : Dyn) :
    handleRefreshInterval data c p = .refused .badConfig 0 none p := if_pos h

theorem handleLogReadIndex_refused {data : Word} (h : 63 < data.toNat) (c : Tables) (p : Dyn) :
    handleLogReadIndex data c p = .refused .badConfig 0 none p := if_pos h

theorem Word.low6 (x : Word) : x.extractLsb' 0 6 = BitVec.ofNat 6 x.toNat := by
  apply BitVec.eq_of_toNat_eq
  simp

theorem setMark_eq (m : Nat) (x : Option Nat) : setMark m x = some (x.getD m) := by
  cases x <;> rfl

/-- A taken write of the log read index (R155). -/
theorem handleLogReadIndex_taken {data : Word} (h : data.toNat ≤ 63) (c : Tables) (p : Dyn) :
    handleLogReadIndex data c p = .taken c
      { p with
        logRead := BitVec.ofNat 6 data.toNat, logLost := false
        summaryMark := if p.logLost then some (p.summaryMark.getD p.moment) else p.summaryMark } := by
  rw [handleLogReadIndex, if_neg (by omega), Word.low6, clearLogLost]
  cases lost : p.logLost with
  | false => simp
  | true => simp [markSummary, setMark_eq]

theorem gives_of_logReadIndexWrite {s : State} {w : BusWrite} {tr : Transaction}
    (accepted : Accepted (.logReadIndexWrite w) s tr) (h : w.data.toNat ≤ 63) :
    Gives (.logReadIndexWrite w) s s.tables
      { held s tr with
        logRead := BitVec.ofNat 6 w.data.toNat
        logLost := false
        summaryMark :=
          if s.dyn.logLost then some (s.dyn.summaryMark.getD (s.dyn.moment + 1)) else s.dyn.summaryMark } :=
  gives_takeInHand_of_taken (x := .logReadIndex) rfl accepted
    (handleLogReadIndex_taken h s.tables (presented s.dyn)) rfl

/-- ALERT after an event beside which the arbiter grants a job other than a refresh. -/
theorem alertLine_of_portFrame {p q : Dyn} (h : PortFrame p q) : alertLine q = alertLine p := by
  simp [alertLine, h.passKind, h.logWrite, h.logRead]

theorem alertLine_of_logReadIndexWrite {s t : State} {w : BusWrite} {tr : Transaction} (idle : PortIdle s)
    (accepted : Accepted (.logReadIndexWrite w) s tr) (h : w.data.toNat ≤ 63)
    (next : exec (.logReadIndexWrite w) s = .next t) :
    alertLine t.dyn = decide (s.dyn.logWrite ≠ BitVec.ofNat 6 w.data.toNat) := by
  obtain ⟨q, granted, given⟩ := gives_of_logReadIndexWrite accepted h
  obtain rfl := Host.Outcome.next.inj (next.symm.trans given)
  have frame := granted.portFrame fun free =>
    noRefreshWaits_congr (noRefreshWaits_of_idle (idle free)) rfl rfl rfl
  have ready : s.dyn.passKind = none := accepted.passes.ready
  rw [alertLine_of_portFrame frame]
  simp [alertLine, held, counted, ready, bne, beq_eq_decide]

/-- Settles O21: each handler's cases by the value written. -/
theorem damAndControlWordWrites : Obligations.DamAndControlWordWrites := by
  refine ⟨fun s d w tr _ => ⟨fun accepted => ?warning, fun accepted => ?recovery, fun accepted small => ?keep,
    fun accepted large => ?keepRefused, fun accepted => ?mask⟩, fun s i w tr idle => ⟨fun accepted some => ?interval,
      fun accepted zero => ?intervalRefused, fun accepted small => gives_of_logReadIndexWrite accepted small,
      fun accepted small t next => alertLine_of_logReadIndexWrite idle accepted small next,
      fun accepted large => ?readIndexRefused, fun accepted => ?master⟩⟩
  case warning => exact gives_held_of_taken (x := .damDwell d .warning) rfl accepted rfl
  case recovery => exact gives_held_of_taken (x := .damDwell d .recovery) rfl accepted rfl
  case keep =>
    exact gives_held_of_taken (x := .refreshKeep d) rfl accepted (handleRefreshKeep_taken small d _ _)
  case keepRefused =>
    exact gives_refusedWith_of_refused (x := .refreshKeep d) rfl accepted (handleRefreshKeep_refused large d _ _)
  case mask => exact gives_held_of_taken (x := .keepMask) rfl accepted rfl
  case interval =>
    exact gives_held_of_taken (x := .refreshInterval) rfl accepted (handleRefreshInterval_taken some _ _)
  case intervalRefused =>
    exact gives_refusedWith_of_refused (x := .refreshInterval) rfl accepted (handleRefreshInterval_refused zero _ _)
  case readIndexRefused =>
    exact gives_refusedWith_of_refused (x := .logReadIndex) rfl accepted (handleLogReadIndex_refused large _ _)
  case master => exact gives_held_of_taken (x := .masterEntry _) rfl accepted rfl

/-! ### Page descriptors (R124) -/

theorem descriptorCheck_eq_firstFailing (q : PageId) (data : Word) :
    descriptorCheck q (descriptorOfWord data) = firstFailing (descriptorTable q data) := by
  simp only [descriptorCheck, descriptorTable, firstFailing_cons, firstFailing_nil, descriptorOfWord]
  congr 1
  · simp
  congr 1
  · simp only [Bool.and_eq_true, Bool.not_eq_true', Bool.and_eq_false_iff, decide_eq_false_iff_not,
      not_and_or]
  congr 1
  simp [Nat.lt_iff_add_one_le]

theorem handleDescriptor_refused {q : PageId} {data : Word} {code : Code}
    (fails : firstFailing (descriptorTable q data) = some code) (c : Tables) (p : Dyn) :
    handleDescriptor q data c p = .refused code 0 none p := by
  simp [handleDescriptor, descriptorCheck_eq_firstFailing, fails, Handled.refuse]

theorem handleDescriptor_taken {q : PageId} {data : Word} (passes : firstFailing (descriptorTable q data) = none)
    (c : Tables) (p : Dyn) :
    handleDescriptor q data c p =
      .taken { c with descriptors := Table.put c.descriptors q (descriptorOfWord data) } p := by
  simp [handleDescriptor, descriptorCheck_eq_firstFailing, passes]

/-- Settles O23: the three checks of the rule in their order. -/
theorem descriptorWrite : Obligations.DescriptorWrite := by
  intro s q w tr idle
  have row : (Instr.descriptorWrite q w).write? = some (.descriptor q, w) := rfl
  exact ⟨fun fails presents => exec_write_of_not_passes idle row presents fails,
    fun accepted code fails => gives_refusedWith_of_refused row accepted (handleDescriptor_refused fails _ _),
    fun accepted passes => gives_held_of_taken row accepted (handleDescriptor_taken passes _ _)⟩

/-! ### Portal words (R91, R92) -/

theorem handlePortalConfig_refused {data : Word} (zero : data.extractLsb' 0 4 = 0) (q : PortalId) (c : Tables)
    (p : Dyn) : handlePortalConfig q 0 data c p = .refused .badConfig 0 none p := if_pos ⟨rfl, zero⟩

theorem handlePortalConfig_taken {i : Fin 2} {data : Word} (h : i = 0 → data.extractLsb' 0 4 ≠ 0) (q : PortalId)
    (c : Tables) (p : Dyn) : handlePortalConfig q i data c p =
      .taken { c with portals := Table.put c.portals q ((c.portals.get q).withWord i data) } p :=
  if_neg fun both => h both.1 both.2

theorem handlePortalItem_buffered {q : PortalId} {p : Dyn} (free : (p.portals.get q).busy = false) {i : Fin 125}
    {k : Fin 16} (word : i.val = k.val) (data : Word) (c : Tables) : handlePortalItem q i data c p =
      .taken c { p with
        portals := Table.put p.portals q
          { p.portals.get q with buffer := Table.put (p.portals.get q).buffer k data } } := by
  have small : i.val < 16 := by omega
  have index : (⟨i.val, small⟩ : Fin 16) = k := Fin.ext word
  simp [handlePortalItem, free, small, index]

theorem handlePortalItem_beyond {q : PortalId} {p : Dyn} (free : (p.portals.get q).busy = false) {i : Fin 125}
    (beyond : 16 ≤ i.val) (data : Word) (c : Tables) : handlePortalItem q i data c p = .taken c p := by
  simp [handlePortalItem, free, Nat.not_lt.mpr beyond]

/-- Settles O24: the handlers of a portal's configuration and of its page. -/
theorem portalWordWrites : Obligations.PortalWordWrites := by
  refine ⟨fun s q w tr _ => ⟨fun accepted zero => ?refused, fun accepted some => ?first, fun accepted => ?second⟩,
    fun s q i w tr _ accepted free => ⟨fun k word => ?buffered, fun beyond => ?beyond⟩⟩
  case refused =>
    exact gives_refusedWith_of_refused (x := .portalConfig q 0) rfl accepted (handlePortalConfig_refused zero q _ _)
  case first =>
    exact gives_held_of_taken (x := .portalConfig q 0) rfl accepted (handlePortalConfig_taken (fun _ => some) q _ _)
  case second =>
    exact gives_held_of_taken (x := .portalConfig q 1) rfl accepted
      (handlePortalConfig_taken (fun h => absurd h (by decide)) q _ _)
  case buffered =>
    exact gives_takeInHand_of_taken (x := .portalItem q i) rfl accepted
      (handlePortalItem_buffered (p := presented s.dyn) free word w.data s.tables) rfl
  case beyond =>
    exact gives_held_of_taken (x := .portalItem q i) rfl accepted
      (handlePortalItem_beyond (p := presented s.dyn) free beyond w.data s.tables)

/-! ### Service control (R3 to R5) -/

theorem refValid_iff (r : BitVec 6) : refValid r = true ↔ r = 63 ∨ r.toNat ≤ 31 := by
  simp only [refValid, Bool.or_eq_true, decide_eq_true_eq, beq_iff_eq, or_comm, Nat.lt_succ_iff]

theorem configValid_iff (c : Tables) (g : GateId) : configValid c g = true ↔ RecordFits (c.gates.get g) c.lastDam := by
  simp only [configValid, Bool.and_eq_true, decide_eq_true_eq, bne_iff_ne, refValid_iff]
  constructor
  · rintro ⟨⟨⟨⟨⟨⟨⟨low, high⟩, interval⟩, lag⟩, tolerance⟩, dam⟩, openRef⟩, closeRef⟩
    exact ⟨⟨low, high⟩, interval, lag, tolerance, dam, openRef, closeRef⟩
  · rintro ⟨⟨low, high⟩, interval, lag, tolerance, dam, openRef, closeRef⟩
    exact ⟨⟨⟨⟨⟨⟨⟨low, high⟩, interval⟩, lag⟩, tolerance⟩, dam⟩, openRef⟩, closeRef⟩

section ServiceControl

variable {g : GateId} {data : Word} {c : Tables} {p : Dyn}

theorem handleServiceControl_badData (large : 1 < data.toNat) :
    handleServiceControl g data c p = .refused .badConfig 0 none p := by
  obtain ⟨notZero, notOne⟩ := Word.not_zero_not_one large
  rw [handleServiceControl, if_neg notOne, if_neg notZero]
  rfl

theorem handleServiceControl_on_inService (on : data = 1) (inService : (p.gates.get g).state ≠ .outOfService) :
    handleServiceControl g data c p = .taken c p := by
  have h : (p.gates.get g).inService = true := by simpa using mt (Gate.inService_eq_false_iff _).mp inService
  simp [handleServiceControl, on, h]

theorem handleServiceControl_off_outOfService (off : data = 0) (out : (p.gates.get g).state = .outOfService) :
    handleServiceControl g data c p = .taken c p := by
  have h := (Gate.inService_eq_false_iff _).mpr out
  simp [handleServiceControl, off, h]

theorem handleServiceControl_misfit (on : data = 1) (out : (p.gates.get g).state = .outOfService)
    (misfit : ¬ RecordFits (c.gates.get g) c.lastDam) :
    handleServiceControl g data c p = .refused .badConfig 0 none p := by
  have h := (Gate.inService_eq_false_iff _).mpr out
  have invalid : configValid c g = false := by simpa using mt (configValid_iff c g).mp misfit
  simp [handleServiceControl, on, h, invalid, Handled.refuse]

theorem handleServiceControl_unknown (on : data = 1) (out : (p.gates.get g).state = .outOfService)
    (fits : RecordFits (c.gates.get g) c.lastDam) (unknown : (p.gates.get g).feedbackKnown = false) :
    handleServiceControl g data c p = .refused .noFeedback 0 none p := by
  have h := (Gate.inService_eq_false_iff _).mpr out
  simp [handleServiceControl, on, h, (configValid_iff c g).mpr fits, unknown, Handled.refuse]

end ServiceControl

/-- Settles O28: the cases of the handler that leave the gate as it is, on either row. -/
theorem serviceControlWithoutEffect : Obligations.ServiceControlWithoutEffect := by
  intro i s g w tr row _ accepted
  have row : i.write? = some (.serviceControl g, w) := by
    obtain rfl | rfl := row <;> rfl
  exact ⟨fun large => gives_refusedWith_of_refused row accepted (handleServiceControl_badData large),
    fun on inService => gives_held_of_taken row accepted
      (handleServiceControl_on_inService (p := presented s.dyn) on inService),
    fun off out => gives_held_of_taken row accepted (handleServiceControl_off_outOfService (p := presented s.dyn) off out),
    fun on out misfit => gives_refusedWith_of_refused row accepted
      (handleServiceControl_misfit (p := presented s.dyn) on out misfit),
    fun on out fits unknown => gives_refusedWith_of_refused row accepted
      (handleServiceControl_unknown (p := presented s.dyn) on out fits unknown)⟩

/-! ### The answer of the store (R135) -/

/-- The state in which the arbiter finds the part after an answer of the store. -/
theorem accessDone_eq {kind : Job → Bool} {s : State} {r : Running} (running : s.dyn.running = some r)
    (is : kind r.job = true) (ans : StoreAnswer) :
    accessDone kind ans s =
      { s with
        store := storeAfter s.store r.job r.access ans (s.dyn.moment + 1)
        dyn := takeAnswer s.tables r ans (r.job.readWord s.store (s.dyn.moment + 1)) (counted s) } := by
  simp only [accessDone, running, is, if_true]
  rfl

/-- What the store holds after an answer, in the words of the claims. -/
theorem storeAnswered_of_store {s t : State} {j : Job} {a : Access} {ans : StoreAnswer} {n : Nat}
    (canonical : StoreCanonical s) (store : t.store = storeAfter s.store j a ans n) (pending : t.pending = s.pending)
    (tables : t.tables = s.tables) : StoreAnswered s t a ans := by
  refine ⟨fun q w other => ?other, fun read => ?read, fun write ok => ?written, pending, tables⟩
  case other =>
    have elsewhere : ¬(q = a.page ∧ w = a.word) := by tauto
    rw [store]
    unfold storeAfter
    split
    case isFalse => rfl
    case isTrue =>
      cases ans with
      | ok => exact setWord_word_ne _ canonical _ _ _ _ _ _ _ elsewhere
      | error =>
        dsimp only
        split <;> exact setWord_word_ne _ canonical _ _ _ _ _ _ _ elsewhere
  case read => simp [store, storeAfter, read]
  case written =>
    rw [store]
    simp only [storeAfter, if_pos write, ok]
    exact setWord_word_self _ canonical _ _ _ _ _

section Answer

variable {kind : Job → Bool} {instr : StoreAnswer → Instr} {s : State} {j : Job} {a : Access}

/-- A command that answers an access of the job in progress: what the store holds after it, and the dynamic state. -/
theorem exec_accessDone {ans : StoreAnswer} (row : ∀ s, exec (instr ans) s = .next (accessDone kind ans s))
    (canonical : StoreCanonical s) (running : s.dyn.running = some ⟨j, a⟩) (is : kind j = true) :
    ∃ t, exec (instr ans) s = .next t ∧ StoreAnswered s t a ans ∧
      t.dyn = takeAnswer s.tables ⟨j, a⟩ ans (j.readWord s.store (s.dyn.moment + 1)) (counted s) := by
  refine ⟨_, row s, ?_, ?_⟩
  · rw [accessDone_eq running is]
    exact storeAnswered_of_store canonical rfl rfl rfl
  · rw [accessDone_eq running is]

end Answer

/-- The access of a job with none after it: the job completes, and the port is granted by class. -/
theorem takeAnswer_completes {c : Tables} {j : Job} {a : Access} {ans : StoreAnswer} {data : Word} {p q : Dyn}
    (effect : jobGoesOn c ((jobNow (match ans with | .ok => p | .error => accessFailed c j a p) j).answered a ans) a ans data
      (match ans with | .ok => p | .error => accessFailed c j a p) = q) (free : q.running = none) :
    GrantedByClass c q (takeAnswer c ⟨j, a⟩ ans data p) := by
  subst effect
  exact arbitrate_byClass free

theorem jobNow_of_running {p : Dyn} {j : Job} {a : Access} (h : p.running = some ⟨j, a⟩) (k : Job) : jobNow p k = j := by
  rw [jobNow, h]

/-- Settles O48: a forwarded transaction is answered at its one access, and the grants go by class. -/
theorem forwardedAccessComplete : Obligations.ForwardedAccessComplete := by
  intro s tr a canonical running
  have now : jobNow (counted s) (.forwarded tr) = .forwarded tr := jobNow_of_running running _
  constructor
  · obtain ⟨t, next, stored, dyn⟩ := exec_accessDone (kind := Job.isForwarded) (instr := .forwardedAccessComplete)
      (ans := .ok) (fun _ => rfl) canonical running rfl
    refine ⟨t, next, stored, dyn ▸ takeAnswer_completes ?_ rfl⟩
    dsimp only
    rw [now]
    rfl
  · obtain ⟨t, next, stored, dyn⟩ := exec_accessDone (kind := Job.isForwarded) (instr := .forwardedAccessComplete)
      (ans := .error) (fun _ => rfl) canonical running rfl
    refine ⟨t, next, stored, dyn ▸ takeAnswer_completes ?_ (formRecord_running _ _)⟩
    dsimp only [accessFailed]
    rw [now]
    rfl

end Sys2Proof.Machine
end

section
/-! Changes made gate by gate, each from the gate's own record (R7, R12, R21, R69): what they leave in each record, and
in the pending step queue. -/

namespace Sys2Proof.Machine

/-- Every gate that `sel` picks by its record has its record replaced, in ascending gate number. -/
def eachGate (sel : GateId → Gate → Bool) (new : GateId → Gate → Gate) (p : Dyn) : Dyn :=
  (List.finRange 48).foldl
    (fun p g => if sel g (p.gates.get g) then putGate g (new g (p.gates.get g)) p else p) p

section EachGate

variable (sel : GateId → Gate → Bool) (new : GateId → Gate → Gate)

/-- What a view of the state that no gate record shows is after the changes. -/
theorem eachGate_keeps {β : Type} (view : Dyn → β) (h : ∀ g x p, view (putGate g x p) = view p) (p : Dyn) :
    view (eachGate sel new p) = view p :=
  foldl_keeps view _ (fun q g => by split <;> simp [h]) _ p

theorem eachGateFold_gates : (l : List GateId) → l.Nodup → (p : Dyn) → (h : GateId) →
    ((l.foldl (fun p g => if sel g (p.gates.get g) then putGate g (new g (p.gates.get g)) p else p) p).gates.get h) =
      if h ∈ l ∧ sel h (p.gates.get h) = true then new h (p.gates.get h) else p.gates.get h
  | [], _, p, h => by simp
  | g :: l, distinct, p, h => by
    obtain ⟨absent, distinct⟩ := List.nodup_cons.mp distinct
    rw [List.foldl_cons, eachGateFold_gates l distinct]
    by_cases same : h = g
    · subst same
      by_cases picked : sel h (p.gates.get h) = true <;> simp [picked, absent]
    · have other : ((if sel g (p.gates.get g) then putGate g (new g (p.gates.get g)) p else p).gates.get h) =
          p.gates.get h := by
        split
        · rw [putGate_gates, Table.put_get_ne _ _ (Ne.symm same)]
        · rfl
      simp [other, same]

theorem eachGate_get (p : Dyn) (h : GateId) :
    (eachGate sel new p).gates.get h =
      if sel h (p.gates.get h) then new h (p.gates.get h) else p.gates.get h := by
  rw [eachGate, eachGateFold_gates sel new _ (List.nodup_finRange 48)]
  simp

theorem eachGateFold_queue : (l : List GateId) → l.Nodup → (p : Dyn) →
    (l.foldl (fun p g => if sel g (p.gates.get g) then putGate g (new g (p.gates.get g)) p else p) p).queue =
      p.queue.filter fun h => !(decide (h ∈ l) && sel h (p.gates.get h)) || (new h (p.gates.get h)).state == .moving
  | [], _, p => by simp
  | g :: l, distinct, p => by
    obtain ⟨absent, distinct⟩ := List.nodup_cons.mp distinct
    rw [List.foldl_cons, eachGateFold_queue l distinct]
    have other (h : GateId) (hl : h ∈ l) :
        (if sel g (p.gates.get g) then putGate g (new g (p.gates.get g)) p else p).gates.get h = p.gates.get h := by
      have differ : g ≠ h := fun same => absent (same ▸ hl)
      split
      · rw [putGate_gates, Table.put_get_ne _ _ differ]
      · rfl
    have queue : (if sel g (p.gates.get g) then putGate g (new g (p.gates.get g)) p else p).queue =
        p.queue.filter fun h => !(decide (h = g) && sel h (p.gates.get h)) ||
          (new h (p.gates.get h)).state == .moving := by
      by_cases picked : sel g (p.gates.get g) = true
      · rw [if_pos picked, putGate_queue]
        split
        case isTrue moving =>
          symm
          rw [List.filter_eq_self]
          intro h _
          by_cases same : h = g
          · subst same; simp [moving]
          · simp [same]
        case isFalse rest =>
          apply List.filter_congr
          intro h _
          by_cases same : h = g
          · subst same; simp [picked, rest]
          · simp [same]
      · rw [if_neg picked]
        symm
        rw [List.filter_eq_self]
        intro h _
        by_cases same : h = g
        · subst same; simp [picked]
        · simp [same]
    rw [queue, List.filter_filter]
    apply List.filter_congr
    intro h _
    by_cases hl : h ∈ l
    · have differ : h ≠ g := fun same => absent (same ▸ hl)
      simp [other h hl, hl, differ]
    · by_cases same : h = g
      · subst same; simp [hl]
      · simp [hl, same]

theorem eachGate_queue (p : Dyn) :
    (eachGate sel new p).queue =
      p.queue.filter fun h => !sel h (p.gates.get h) || (new h (p.gates.get h)).state == .moving := by
  rw [eachGate, eachGateFold_queue sel new _ (List.nodup_finRange 48)]
  simp

end EachGate

/-! ### Hold causes (1.4) -/

theorem changeCauses_eq_eachGate (sel : GateId → Bool) (f : Causes → Causes) (p : Dyn) :
    changeCauses sel f p =
      eachGate (fun g x => x.inService && sel g) (fun _ x => x.withCauses (f x.causes)) p := rfl

theorem changeCauses_get (sel : GateId → Bool) (f : Causes → Causes) (p : Dyn) (g : GateId) :
    (changeCauses sel f p).gates.get g =
      if (p.gates.get g).inService && sel g then (p.gates.get g).withCauses (f (p.gates.get g).causes)
      else p.gates.get g := by
  rw [changeCauses_eq_eachGate, eachGate_get]

theorem changeCauses_queue (sel : GateId → Bool) (f : Causes → Causes) (p : Dyn) :
    (changeCauses sel f p).queue =
      p.queue.filter fun g => !((p.gates.get g).inService && sel g) ||
        ((p.gates.get g).withCauses (f (p.gates.get g).causes)).state == .moving := by
  rw [changeCauses_eq_eachGate, eachGate_queue]

/-- What a view of the state that no gate record shows is after a change of hold causes. -/
theorem changeCauses_keeps {β : Type} (view : Dyn → β) (h : ∀ g x p, view (putGate g x p) = view p)
    (sel : GateId → Bool) (f : Causes → Causes) (p : Dyn) : view (changeCauses sel f p) = view p := by
  rw [changeCauses_eq_eachGate, eachGate_keeps _ _ view h]

/-! ### The end of a warning dwell (R21) -/

theorem releaseWarning_eq_eachGate (c : Tables) (d : DamId) (p : Dyn) :
    releaseWarning c d p =
      eachGate (fun g x => (c.gates.get g).inDam d && x.state == .warning)
        (fun _ x => { x with state := x.moveState }) p := rfl

theorem releaseWarning_get (c : Tables) (d : DamId) (p : Dyn) (g : GateId) :
    (releaseWarning c d p).gates.get g =
      if (c.gates.get g).inDam d && (p.gates.get g).state == .warning then
        { p.gates.get g with state := (p.gates.get g).moveState }
      else p.gates.get g := by
  rw [releaseWarning_eq_eachGate, eachGate_get]

theorem releaseWarning_queue (c : Tables) (d : DamId) (p : Dyn) :
    (releaseWarning c d p).queue =
      p.queue.filter fun g => !((c.gates.get g).inDam d && (p.gates.get g).state == .warning) ||
        (p.gates.get g).moveState == .moving := by
  rw [releaseWarning_eq_eachGate, eachGate_queue]

theorem releaseWarning_keeps {β : Type} (view : Dyn → β) (h : ∀ g x p, view (putGate g x p) = view p)
    (c : Tables) (d : DamId) (p : Dyn) : view (releaseWarning c d p) = view p := by
  rw [releaseWarning_eq_eachGate, eachGate_keeps _ _ view h]

/-! ### Interlock causes that a status word or condition write clears (R69) -/

/-- INTERLOCK leaves every gate that `interlockCleared` names at a state. -/
def clearInterlocks (c : Tables) (sel : CondId → Bool) (p : Dyn) : Dyn :=
  eachGate (fun g _ => interlockCleared c sel p g)
    (fun _ x => x.withCauses { x.causes with interlock := false }) p

theorem reevaluateInterlocks_eq (c : Tables) (sel : CondId → Bool) (p : Dyn) :
    reevaluateInterlocks c sel p = schedule c p false (clearInterlocks c sel p) := rfl

theorem clearInterlocks_get (c : Tables) (sel : CondId → Bool) (p : Dyn) (g : GateId) :
    (clearInterlocks c sel p).gates.get g =
      if interlockCleared c sel p g then
        (p.gates.get g).withCauses { (p.gates.get g).causes with interlock := false }
      else p.gates.get g := by
  rw [clearInterlocks, eachGate_get]

theorem clearInterlocks_queue (c : Tables) (sel : CondId → Bool) (p : Dyn) :
    (clearInterlocks c sel p).queue =
      p.queue.filter fun g => !interlockCleared c sel p g ||
        ((p.gates.get g).withCauses { (p.gates.get g).causes with interlock := false }).state == .moving := by
  rw [clearInterlocks, eachGate_queue]

theorem clearInterlocks_keeps {β : Type} (view : Dyn → β) (h : ∀ g x p, view (putGate g x p) = view p)
    (c : Tables) (sel : CondId → Bool) (p : Dyn) : view (clearInterlocks c sel p) = view p :=
  eachGate_keeps _ _ view h p

end Sys2Proof.Machine
end

section
/-! The port is never left free with a job waiting (R136): every event ends with the arbiter. -/

namespace Sys2Proof.Machine

theorem arbitrate_ends {c : Tables} {b : Bool} {p : Dyn} :
    (arbitrate c b p).running.isSome = true ∨ noJobWaits (arbitrate c b p) = true := by
  cases running : p.running with
  | some r =>
    have busy : p.running.isSome = true := by simp [running]
    rw [arbitrate_busy busy]
    exact .inl busy
  | none =>
    cases b with
    | true => exact (arbitrate_granted (by simp [running])).ends
    | false => exact (arbitrate_byClass running).ends

theorem portIdle_of_arbitrate {c : Tables} {b : Bool} {p : Dyn} {s : State} (h : s.dyn = arbitrate c b p) :
    PortIdle s := by
  intro free
  rw [h] at free ⊢
  exact arbitrate_ends.resolve_left (by simp [free])

/-- A change of the state that ends with the arbiter, or is none. -/
def EndsIdle (f : State → State) : Prop := ∀ s, PortIdle s → PortIdle (f s)

theorem inEvent_endsIdle (f : Tables → Dyn → Dyn) : EndsIdle (inEvent f) := fun _ _ => portIdle_of_arbitrate rfl

theorem inEventIf_endsIdle (due : Tables → Dyn → Bool) (f : Tables → Dyn → Dyn) : EndsIdle (inEventIf due f) := by
  intro s idle
  unfold inEventIf
  split
  · exact inEvent_endsIdle f s idle
  · exact idle

theorem presentWrite_endsIdle (t : Transaction) (h : Handler) : EndsIdle (presentWrite t h) := by
  intro s idle
  unfold presentWrite
  split
  · exact idle
  · exact portIdle_of_arbitrate rfl

theorem presentRead_endsIdle (t : Transaction) : EndsIdle (presentRead t) := by
  intro s idle
  unfold presentRead
  split
  · exact idle
  · exact portIdle_of_arbitrate rfl

theorem accessDone_endsIdle (kind : Job → Bool) (ans : StoreAnswer) : EndsIdle (accessDone kind ans) := by
  intro s idle
  unfold accessDone
  split
  case h_1 => exact idle
  case h_2 =>
    split
    · exact portIdle_of_arbitrate rfl
    · exact idle

theorem Expiry.endsIdle {f : State → State} (h : Expiry f) : EndsIdle f := by
  cases h <;> exact inEventIf_endsIdle _ _

theorem tickEvent_endsIdle : EndsIdle tickEvent := fun s idle =>
  inEvent_endsIdle tickArrival (takeDue s)
    (takeDue_closed (Q := EndsIdle) (fun _ => id) (fun f _ hf hg s idle => hg (f s) (hf s idle))
      (fun _ => Expiry.endsIdle) s idle)

/-- Settles O60: each kind of command ends with the arbiter or changes nothing, but a reset, which begins its pass. -/
theorem everyStepKeepsThePortIdle : Obligations.EveryStepKeepsThePortIdle := by
  intro s t next idle
  refine step_keeps (P := PortIdle) (fun _ _ h => h) (fun i f kind s idle => ?_) next idle
  cases kind with
  | powerOn => exact State.IsInitial.portIdle ⟨_, _, _, _, _, rfl⟩
  | resetLine => exact State.IsInitial.portIdle ⟨_, _, _, _, _, rfl⟩
  | tick => exact tickEvent_endsIdle s idle
  | expiry h => exact h.endsIdle s idle
  | stepInterval g => exact inEventIf_endsIdle _ _ s idle
  | write _ => exact presentWrite_endsIdle _ _ s idle
  | writeAt => exact presentWrite_endsIdle _ _ s idle
  | readAt => exact presentRead_endsIdle _ s idle
  | answer kind ans => exact accessDone_endsIdle kind ans s idle

end Sys2Proof.Machine
end

section
/-! What an event can do to gates, dams, reaches, totals and the pending step queue, as a chain of small changes: each
claim about every step is then a claim about each change. -/

namespace Sys2Proof.Machine

open Relation (ReflTransGen)

/-! ### Chains -/

/-- A fold of changes, each a chain, is a chain. -/
theorem chain_foldl {α β : Type} {r : β → β → Prop} {f : β → α → β} (h : ∀ p x, ReflTransGen r p (f p x)) :
    (l : List α) → (p : β) → ReflTransGen r p (l.foldl f p)
  | [], _ => .refl
  | x :: l, p => (h p x).trans (chain_foldl h l (f p x))

/-- A relation that is reflexive and transitive holds along a chain of its instances. -/
theorem of_chain {β : Type} {r R : β → β → Prop} (refl : ∀ p, R p p) (trans : ∀ {p q s}, R p q → R q s → R p s)
    (each : ∀ {p q}, r p q → R p q) {p q : β} (h : ReflTransGen r p q) : R p q := by
  induction h with
  | refl => exact refl p
  | tail _ last ih => exact trans ih (each last)

/-- What each change keeps, a chain keeps. -/
theorem chain_keeps {β : Type} {r : β → β → Prop} {P : β → Prop} (each : ∀ p q, r p q → P p → P q) {p q : β}
    (h : ReflTransGen r p q) (start : P p) : P q := by
  induction h with
  | refl => exact start
  | tail _ last ih => exact each _ _ last ih

/-! ### Records, links and EXCEEDED flags (2.5, Section 9) -/

/-- A change that an event and the actions of the links on it are made of. -/
inductive LinkStep (c : Tables) : Dyn → Dyn → Prop
  | record (r : LogRecord) (p : Dyn) : LinkStep c p (formRecord r p)
  | hold (d : DamId) (p : Dyn) : LinkStep c p (setHold c d p)
  | enterHold (p : Dyn) : LinkStep c p (enterHold p)
  | alarm (k : AlarmId) (p : Dyn) : LinkStep c p { p with alarms := Table.put p.alarms k true }
  | exceeded (d : ReachId) (b : Bool) (p : Dyn) :
      LinkStep c p (putReach d { p.reaches.get d with exceeded := b } p)
  | markReach (r : ReachId) (p : Dyn) : LinkStep c p (markReach r p)

/-- A chain of such changes. -/
abbrev Linked (c : Tables) : Dyn → Dyn → Prop := ReflTransGen (LinkStep c)

theorem LinkStep.frame {c : Tables} {p q : Dyn} (h : LinkStep c p q) : LinkFrame p q := by
  cases h with
  | record r => exact formRecord_frame r p
  | hold d => exact setHold_frame c d p
  | enterHold => exact enterHold_frame p
  | alarm k => exact { LinkFrame.refl p with }
  | exceeded d b => exact putExceeded_frame d b p
  | markReach r => exact markReach_frame r p

theorem Linked.frame {c : Tables} {p q : Dyn} (h : Linked c p q) : LinkFrame p q :=
  of_chain LinkFrame.refl LinkFrame.trans LinkStep.frame h

theorem linkAct_linked (c : Tables) (l : Link) (sub : Subject) (p : Dyn) : Linked c p (linkAct c l sub p) := by
  unfold linkAct
  split
  case h_1 => exact .refl
  case h_2 =>
    split
    · exact .single (.hold _ p)
    · exact .refl
  case h_3 =>
    split
    · exact .single (.hold _ p)
    · exact .refl
  case h_4 => exact .single (.enterHold p)
  case h_5 =>
    split
    · exact .single (.alarm _ p)
    · exact .refl

theorem offerLinks_linked (c : Tables) (kind : EventKind) (sub : Subject) (p : Dyn) :
    Linked c p (offerLinks c kind sub p) :=
  chain_foldl (fun p l => by
    split
    · exact linkAct_linked c _ sub p
    · exact .refl) _ p

theorem raise_linked (c : Tables) (e : Event) (p : Dyn) : Linked c p (raise c e p) :=
  .head (.record _ p) (offerLinks_linked c _ _ _)

theorem reevaluate_linked (c : Tables) (d : ReachId) (p : Dyn) : Linked c p (reevaluate c d p) := by
  have put (b : Bool) : Linked c p (markReach d (putReach d { p.reaches.get d with exceeded := b } p)) :=
    .head (.exceeded d b p) (.single (.markReach d _))
  unfold reevaluate
  dsimp only
  split
  case h_1 => exact (put true).trans (raise_linked c _ _)
  case h_2 => exact put false
  case h_3 => exact .refl
  case h_4 => exact .refl

theorem reevaluateAll_linked (c : Tables) (ds : List ReachId) (p : Dyn) : Linked c p (reevaluateAll c ds p) :=
  chain_foldl (fun p d => reevaluate_linked c d p) ds p

/-- A change of a total that is not an admission, and what follows it (R27). -/
theorem changeTotal_linked (c : Tables) (d : DamId) (old new : Nat) (p : Dyn) :
    Linked c { p with totals := Table.put p.totals d (adjustTotal (p.totals.get d) old new) }
      (changeTotal c d old new p) :=
  (reevaluateAll_linked c _ _).tail (.markReach d _)

/-- The totals with a release of gate g replaced by another (R26). -/
def movedTotals (c : Tables) (g : GateId) (old new : Nat) (t : Vector Word 6) : Vector Word 6 :=
  match (c.gates.get g).dam? with
  | some d => Table.put t d (adjustTotal (t.get d) old new)
  | none => t

theorem put_get_eq {α : Type} {n : Nat} (v : Vector α n) (i : Fin n) : Table.put v i (v.get i) = v :=
  Vector.set_getElem_self i.isLt

theorem movedTotals_self (c : Tables) (g : GateId) (n : Nat) (t : Vector Word 6) : movedTotals c g n n t = t := by
  unfold movedTotals
  split
  case h_1 d _ => rw [adjustTotal, BitVec.add_sub_cancel, put_get_eq]
  case h_2 => rfl

theorem changeGateTotal_linked (c : Tables) (g : GateId) (old new : Nat) (p : Dyn) :
    Linked c { p with totals := movedTotals c g old new p.totals } (changeGateTotal c g old new p) := by
  unfold changeGateTotal movedTotals
  cases (c.gates.get g).dam? with
  | some d => exact changeTotal_linked c d old new p
  | none => exact .refl

theorem admission_linked {c : Tables} {changes : List (DamId × Nat × Nat)} {p q : Dyn}
    (passes : admission c changes p = .ok q) :
    admissionCheck c p.reaches p.totals (finalTotals changes p.totals) = none ∧
      Linked c { p with totals := finalTotals changes p.totals } q := by
  unfold admission at passes
  dsimp only at passes
  split at passes
  case h_1 => cases passes
  case h_2 check =>
    obtain rfl := Except.ok.inj passes
    exact ⟨check, (reevaluateAll_linked c _ _).trans (chain_foldl (fun q d => by
      split
      · exact .single (.markReach d q)
      · exact .refl) _ _)⟩

/-! ### Gates and reaches -/

/-- Gate record y is x but for the feedback and the records that no state depends on. -/
structure Gate.Tuned (x y : Gate) : Prop where
  state : y.state = x.state
  target : y.target = x.target
  command : y.command = x.command
  causes : y.causes = x.causes
  recoveryTimer : y.recoveryTimer = x.recoveryTimer
  lagTimer : y.lagTimer = x.lagTimer ∨ y.lagTimer = .stopped
  feedback : y.feedback = x.feedback ∨ y.feedback ≤ 1000

/-- Gate g has entered FAULTED, with its total (R16). -/
def faultedAt (c : Tables) (g : GateId) (cause : FaultCause) (p : Dyn) : Dyn :=
  { putGate g ((p.gates.get g).faulted cause) p with
    totals := movedTotals c g (releaseOf c g (p.gates.get g).target) (releaseOf c g (p.gates.get g).command) p.totals }

/-- Gate g of dam d has entered service, with its total (R4). -/
def enteredAt (c : Tables) (g : GateId) (d : DamId) (p : Dyn) : Dyn :=
  { putGate g ((p.gates.get g).entered (c.gates.get g).kind p.mode (p.dams.get d).hold) p with
    totals := Table.put p.totals d (adjustTotal (p.totals.get d) 0 (releaseOf c g (p.gates.get g).feedback)) }

/-- An open flood gate that enters service puts its dam into SOUNDED (R22). -/
def soundForEntry (c : Tables) (g : GateId) (d : DamId) (feedback : Nat) (p : Dyn) : Dyn :=
  if (c.gates.get g).kind == .flood && decide (0 < feedback) then soundAtEntry c d p else p

/-- Gate g has left service, with its total (R5). -/
def exitedAt (c : Tables) (g : GateId) (p : Dyn) : Dyn :=
  { putGate g (p.gates.get g).exited p with
    totals := movedTotals c g (releaseOf c g (p.gates.get g).target) 0 p.totals }

/-- An admission's items have passed the budget: the totals are those it leaves (R35, R99). -/
def admittedAt (c : Tables) (items : List Item) (p : Dyn) : Dyn :=
  { p with totals := finalTotals (batchChanges c p items) p.totals }

/-- The items of an admission: distinct gates in service and not FAULTED, openings in range, and no move that its
interlock blocks. -/
structure Admissible (c : Tables) (p : Dyn) (items : List Item) : Prop where
  distinct : (items.map (·.1)).Nodup
  inService : ∀ e ∈ items, (p.gates.get e.1).state ≠ .outOfService
  sound : ∀ e ∈ items, (p.gates.get e.1).state ≠ .faulted
  opening : ∀ e ∈ items, e.2 ≤ 1000
  interlock : ∀ e ∈ items, e.2 ≠ (p.gates.get e.1).target → e.2 ≠ (p.gates.get e.1).command →
    falseCondition c p.statusWords e.1 (directionTo (p.gates.get e.1).command e.2) = none

/-- The samples and the level of a reach are levels. -/
def Reach.InRange (x : Reach) : Prop := x.a.value ≤ 9999 ∧ x.b.value ≤ 9999 ∧ x.level ≤ 9999

/-- The effective limits of a reach follow a record and its level state. -/
def Reach.Follows (x : Reach) (c : ReachConfig) : Prop :=
  x.ceff = effectiveCeiling c x.levelState ∧ x.deff = effectiveDraw c x.levelState

/-- A change that an event makes of gates, dams, reaches, totals and the queue, beside the port and the bus. `N` stands for
what is known of the queue: that it holds no gate twice. -/
inductive Turn (N : Prop) (c : Tables) : Dyn → Dyn → Prop
  | link {p q : Dyn} : LinkStep c p q → Turn N c p q
  | join {p : Dyn} {g : GateId} : joinable c p g = true → Turn N c p { p with queue := p.queue ++ [g] }
  | grant {p : Dyn} {g : GateId} : (N → g ∈ p.queue) →
      falseCondition c p.statusWords g (directionTo (p.gates.get g).command (p.gates.get g).target) = none →
      Turn N c p (grant c g p)
  | lose {p : Dyn} {g : GateId} {k : CondId} : (N → g ∈ p.queue) →
      falseCondition c p.statusWords g (directionTo (p.gates.get g).command (p.gates.get g).target) = some k →
      Turn N c p (setCauses g { (p.gates.get g).causes with interlock := true } (dequeue g p))
  | fault {p : Dyn} {g : GateId} {cause : FaultCause} :
      (p.gates.get g).inService = true ∨ (p.gates.get g).lagTimer ≠ .stopped → Turn N c p (faultedAt c g cause p)
  | recover {p : Dyn} {g : GateId} : (p.gates.get g).recoveryTimer ≠ .stopped → Turn N c p (recoveryEnds c g p)
  | dwell {p : Dyn} (d : DamId) : Turn N c p (dwellEnds c d p)
  | enter {p q : Dyn} {g : GateId} {d : DamId} : (p.gates.get g).inService = false →
      (c.gates.get g).dam? = some d → Linked c (enteredAt c g d p) q →
      Turn N c p (soundForEntry c g d (p.gates.get g).feedback q)
  | exit {p : Dyn} {g : GateId} : (p.gates.get g).inService = true → Turn N c p (exitedAt c g p)
  | silence {p : Dyn} (g : GateId) : Turn N c p (silenceCheckOf c g p)
  | commit {p q : Dyn} {items : List Item} : Admissible c p items →
      Linked c (admittedAt c items p) q → Turn N c p (commitItems c items q)
  | tune {p : Dyn} {g : GateId} {y : Gate} : (p.gates.get g).Tuned y → Turn N c p (putGate g y p)
  | age {p : Dyn} (g : GateId) : Turn N c p (dropGrantTick g p)
  | forget {p : Dyn} (d : DamId) (dir : Direction) : Turn N c p (putDam d ((p.dams.get d).withoutStep dir) p)
  | mark {p : Dyn} (g : GateId) : Turn N c p (markGateMirror g p)
  | level {p : Dyn} {r : ReachId} {x : Reach} : ((p.reaches.get r).InRange → x.InRange) →
      x.Follows (c.reaches.get r) → Turn N c p (putReach r x p)
  | clearHold {p : Dyn} (d : DamId) : Turn N c p (clearHold c d p)

/-- A chain of turns. -/
abbrev Turns (N : Prop) (c : Tables) : Dyn → Dyn → Prop := ReflTransGen (Turn N c)

theorem Linked.turns {N : Prop} {c : Tables} {p q : Dyn} (h : Linked c p q) : Turns N c p q :=
  of_chain (R := Turns N c) (fun _ => .refl) ReflTransGen.trans (fun h => .single (.link h)) h

/-! ### What every turn keeps -/

theorem admittedAt_still (c : Tables) (items : List Item) (p : Dyn) : (admittedAt c items p).still = p.still := rfl

@[simp] theorem faultedAt_still (c : Tables) (g : GateId) (cause : FaultCause) (p : Dyn) :
    (faultedAt c g cause p).still = p.still := putGate_still _ _ _

@[simp] theorem enteredAt_still (c : Tables) (g : GateId) (d : DamId) (p : Dyn) :
    (enteredAt c g d p).still = p.still := putGate_still _ _ _

@[simp] theorem exitedAt_still (c : Tables) (g : GateId) (p : Dyn) : (exitedAt c g p).still = p.still :=
  putGate_still _ _ _

@[simp] theorem soundForEntry_still (c : Tables) (g : GateId) (d : DamId) (n : Nat) (p : Dyn) :
    (soundForEntry c g d n p).still = p.still := by
  unfold soundForEntry
  split
  · exact soundAtEntry_still c d p
  · rfl

/-- No turn touches the bus, the portals, the log indexes, the debt or the pass. -/
theorem Turn.still {N : Prop} {c : Tables} {p q : Dyn} (h : Turn N c p q) : q.still = p.still := by
  cases h with
  | link h => exact h.frame.still
  | join _ => rfl
  | grant _ _ => exact grant_still _ _ _
  | lose _ _ => simp
  | fault _ => exact faultedAt_still _ _ _ _
  | recover _ => exact recoveryEnds_still _ _ _
  | dwell d => exact dwellEnds_still _ _ _
  | enter _ _ h => exact (soundForEntry_still _ _ _ _ _).trans (h.frame.still.trans (enteredAt_still _ _ _ _))
  | exit _ => exact exitedAt_still _ _ _
  | silence g => exact silenceCheckOf_still _ _ _
  | commit _ h =>
    exact (commitItems_still _ _ _).trans (h.frame.still.trans (admittedAt_still _ _ _))
  | tune _ => exact putGate_still _ _ _
  | age g => rfl
  | forget d dir => exact putDam_still _ _ _
  | mark g => exact markGateMirror_still _ _
  | level _ _ => exact putReach_still _ _ _
  | clearHold d => exact clearHold_still _ _ _

theorem Turns.still {N : Prop} {c : Tables} {p q : Dyn} (h : Turns N c p q) : q.still = p.still :=
  of_chain (R := fun p q => q.still = p.still) (fun _ => rfl) (by intro _ _ _ h1 h2; exact h2.trans h1) Turn.still h

/-! ### The mode and the job in progress -/

/-- The mode and the job in progress stand, or ENTER_HOLD has put the mode into HOLD and made a refresh in progress count
toward nothing. -/
def HoldEntered (p q : Dyn) : Prop :=
  (q.mode = p.mode ∧ q.running = p.running) ∨
    (q.mode = .hold ∧ (q.running = p.running ∨ q.running = (uncredit p).running))

theorem HoldEntered.refl (p : Dyn) : HoldEntered p p := .inl ⟨rfl, rfl⟩

theorem HoldEntered.trans {p q r : Dyn} (h1 : HoldEntered p q) (h2 : HoldEntered q r) : HoldEntered p r := by
  obtain ⟨mode2, run2⟩ | ⟨mode2, run2⟩ := h2
  · obtain ⟨mode1, run1⟩ | ⟨mode1, run1⟩ := h1
    · exact .inl ⟨mode2.trans mode1, run2.trans run1⟩
    · exact .inr ⟨mode2.trans mode1, run2 ▸ run1⟩
  · have run1 : q.running = p.running ∨ q.running = (uncredit p).running :=
      h1.elim (fun h => .inl h.2) And.right
    refine .inr ⟨mode2, ?_⟩
    obtain run2 | run2 := run2
    · exact run2 ▸ run1
    · exact .inr (run2.trans (uncredit_running_congr run1))

/-- The mode and the job in progress. -/
def Dyn.work (p : Dyn) : Mode × Option Running := (p.mode, p.running)

theorem HoldEntered.of_work {p q : Dyn} (h : q.work = p.work) : HoldEntered p q :=
  .inl (Prod.mk.inj h)

@[simp] theorem putGate_work (g : GateId) (x : Gate) (p : Dyn) : (putGate g x p).work = p.work := by
  simp [Dyn.work]

theorem enteredAt_work (c : Tables) (g : GateId) (d : DamId) (p : Dyn) : (enteredAt c g d p).work = p.work :=
  putGate_work _ _ _

theorem admittedAt_work (c : Tables) (items : List Item) (p : Dyn) : (admittedAt c items p).work = p.work := rfl

@[simp] theorem markReach_work (r : ReachId) (p : Dyn) : (markReach r p).work = p.work := rfl

@[simp] theorem putDam_work (d : DamId) (x : Dam) (p : Dyn) : (putDam d x p).work = p.work := rfl

@[simp] theorem dequeue_work (g : GateId) (p : Dyn) : (dequeue g p).work = p.work := rfl

@[simp] theorem changeCauses_work (sel : GateId → Bool) (f : Causes → Causes) (p : Dyn) :
    (changeCauses sel f p).work = p.work := changeCauses_keeps Dyn.work putGate_work sel f p

@[simp] theorem setWarning_work (d : DamId) (w : Warning) (t : Timer) (p : Dyn) :
    (setWarning d w t p).work = p.work := by
  unfold setWarning
  dsimp only
  split <;> simp

@[simp] theorem silenceCheckOf_work (c : Tables) (g : GateId) (p : Dyn) : (silenceCheckOf c g p).work = p.work := by
  unfold silenceCheckOf silenceCheck
  repeat' split
  all_goals simp

@[simp] theorem dwellEnds_work (c : Tables) (d : DamId) (p : Dyn) : (dwellEnds c d p).work = p.work := by
  rw [dwellEnds, releaseWarning_keeps Dyn.work putGate_work, setWarning_work]

@[simp] theorem soundForEntry_work (c : Tables) (g : GateId) (d : DamId) (n : Nat) (p : Dyn) :
    (soundForEntry c g d n p).work = p.work := by
  unfold soundForEntry soundAtEntry
  repeat' split
  all_goals simp

@[simp] theorem soundForOrder_work (c : Tables) (g : GateId) (d : DamId) (p : Dyn) :
    (soundForOrder c g d p).work = p.work := by
  unfold soundForOrder
  dsimp only
  repeat' split
  all_goals simp

@[simp] theorem recoveryEnds_work (c : Tables) (g : GateId) (p : Dyn) : (recoveryEnds c g p).work = p.work := by
  unfold recoveryEnds
  dsimp only
  split <;> simp

@[simp] theorem settle_work (c : Tables) (g : GateId) (p : Dyn) : (settle c g p).work = p.work := by
  unfold settle
  dsimp only
  repeat' split
  all_goals simp

@[simp] theorem commitTarget_work (c : Tables) (g : GateId) (v : Nat) (p : Dyn) :
    (commitTarget c g v p).work = p.work := by
  unfold commitTarget
  dsimp only
  repeat' split
  all_goals simp

@[simp] theorem commitItems_work (c : Tables) (items : List Item) (p : Dyn) : (commitItems c items p).work = p.work :=
  foldl_keeps Dyn.work _ (fun p e => by split <;> simp) items p

@[simp] theorem grant_work (c : Tables) (g : GateId) (p : Dyn) : (grant c g p).work = p.work := by
  have h := grant_step c g p
  simp [Dyn.work, h.mode, h.running]

@[simp] theorem clearHold_work (c : Tables) (d : DamId) (p : Dyn) : (clearHold c d p).work = p.work := by
  unfold clearHold
  dsimp only
  split <;> simp

theorem enterHold_holdEntered (p : Dyn) : HoldEntered p (enterHold p) := by
  unfold enterHold
  split
  · exact .inr ⟨by simp, .inr (changeCauses_keeps Dyn.running (fun _ _ _ => by simp) _ _ _)⟩
  · exact .inr ⟨rfl, .inr rfl⟩
  · exact .refl p
  · exact .refl p

theorem LinkStep.holdEntered {c : Tables} {p q : Dyn} (h : LinkStep c p q) : HoldEntered p q := by
  cases h with
  | record r => exact .inl ⟨by simp, by simp⟩
  | hold d =>
    apply HoldEntered.of_work
    unfold setHold
    dsimp only
    split <;> simp
  | enterHold => exact enterHold_holdEntered p
  | alarm k => exact .refl p
  | exceeded d b => exact .refl p
  | markReach r => exact .refl p

theorem Linked.holdEntered {c : Tables} {p q : Dyn} (h : Linked c p q) : HoldEntered p q :=
  of_chain HoldEntered.refl HoldEntered.trans LinkStep.holdEntered h

theorem Turn.holdEntered {N : Prop} {c : Tables} {p q : Dyn} (h : Turn N c p q) : HoldEntered p q := by
  cases h with
  | link h => exact h.holdEntered
  | join _ => exact .refl p
  | grant _ _ => exact .of_work (grant_work _ _ _)
  | lose _ _ => exact .of_work (by simp [setCauses])
  | fault _ => exact .of_work (putGate_work _ _ _)
  | recover _ => exact .of_work (recoveryEnds_work _ _ _)
  | dwell d => exact .of_work (dwellEnds_work _ _ _)
  | enter _ _ h =>
    exact (HoldEntered.of_work (enteredAt_work _ _ _ _)).trans
      (h.holdEntered.trans (.of_work (soundForEntry_work _ _ _ _ _)))
  | exit _ => exact .of_work (putGate_work _ _ _)
  | silence g => exact .of_work (silenceCheckOf_work _ _ _)
  | commit _ h =>
    exact (HoldEntered.of_work (admittedAt_work _ _ _)).trans (h.holdEntered.trans (.of_work (commitItems_work _ _ _)))
  | tune _ => exact .of_work (putGate_work _ _ _)
  | age g => exact .refl p
  | forget d dir => exact .refl p
  | mark g => exact .refl p
  | level _ _ => exact .refl p
  | clearHold d => exact .of_work (clearHold_work _ _ _)

theorem Turns.holdEntered {N : Prop} {c : Tables} {p q : Dyn} (h : Turns N c p q) : HoldEntered p q :=
  of_chain HoldEntered.refl HoldEntered.trans Turn.holdEntered h

end Sys2Proof.Machine
end

section
/-! The bodies of the events as chains of turns: scans, faults, service, orders, levels. -/

namespace Sys2Proof.Machine

open Relation (ReflTransGen)

/-! ### The queue holds no gate twice -/

theorem putGate_queue_sublist (g : GateId) (x : Gate) (p : Dyn) : (putGate g x p).queue.Sublist p.queue := by
  rw [putGate_queue]
  split
  · exact .refl _
  · exact List.filter_sublist

theorem setWarning_queue (d : DamId) (w : Warning) (t : Timer) (p : Dyn) : (setWarning d w t p).queue = p.queue := by
  unfold setWarning
  dsimp only
  split <;> simp

theorem dwellEnds_queue_sublist (c : Tables) (d : DamId) (p : Dyn) : (dwellEnds c d p).queue.Sublist p.queue := by
  rw [dwellEnds, releaseWarning_queue, setWarning_queue]
  exact List.filter_sublist

theorem soundForEntry_queue_sublist (c : Tables) (g : GateId) (d : DamId) (n : Nat) (p : Dyn) :
    (soundForEntry c g d n p).queue.Sublist p.queue := by
  unfold soundForEntry soundAtEntry
  repeat' split
  · rw [setWarning_queue]
  · exact dwellEnds_queue_sublist c d p
  · exact .refl _
  · exact .refl _

theorem soundForOrder_queue_sublist (c : Tables) (g : GateId) (d : DamId) (p : Dyn) :
    (soundForOrder c g d p).queue.Sublist p.queue := by
  unfold soundForOrder
  dsimp only
  split
  case h_1 => exact putGate_queue_sublist g _ p
  case h_2 => exact putGate_queue_sublist g _ p
  case h_3 =>
    have sounding (w : Warning) (t : Timer) (x : Gate) :
        (setWarning d w t (putGate g x p)).queue.Sublist p.queue := by
      rw [setWarning_queue]
      exact putGate_queue_sublist g x p
    split
    · exact (dwellEnds_queue_sublist c d _).trans (sounding _ _ _)
    · exact sounding _ _ _

theorem commitTarget_queue_sublist (c : Tables) (g : GateId) (v : Nat) (p : Dyn) :
    (commitTarget c g v p).queue.Sublist p.queue := by
  have put (x : Gate) := putGate_queue_sublist g x p
  have settles (x : Gate) := (settle_step c g (putGate g x p)).queue.trans (put x)
  unfold commitTarget
  dsimp only
  split
  case h_1 => exact put _
  case h_2 =>
    split
    · exact (silenceCheckOf_step c g g _).queue.trans (put _)
    · exact put _
  case h_3 =>
    split
    · exact settles _
    · split
      · exact (soundForOrder_queue_sublist c g _ _).trans (put _)
      · exact put _
  case h_4 | h_5 | h_6 =>
    split
    · exact settles _
    · exact put _
  case h_7 | h_8 => exact .refl _

theorem commitItems_queue_sublist (c : Tables) : (items : List Item) → (p : Dyn) →
    (commitItems c items p).queue.Sublist p.queue
  | [], _ => .refl _
  | e :: items, p => by
    have first : (if e.2 = (p.gates.get e.1).target then p else commitTarget c e.1 e.2 p).queue.Sublist p.queue := by
      split
      · exact .refl _
      · exact commitTarget_queue_sublist c e.1 e.2 p
    exact (commitItems_queue_sublist c items _).trans first

theorem clearHold_queue_sublist (c : Tables) (d : DamId) (p : Dyn) : (clearHold c d p).queue.Sublist p.queue := by
  unfold clearHold
  dsimp only
  split
  · rw [markReach_queue, changeCauses_queue]
    exact List.filter_sublist
  · exact .refl _

theorem not_mem_queue_of_joinable {c : Tables} {p : Dyn} {g : GateId} (h : joinable c p g = true) : g ∉ p.queue := by
  simp only [joinable, Bool.and_eq_true, Bool.not_eq_true', List.contains_eq_mem, decide_eq_false_iff_not] at h
  exact h.2

theorem nodup_append_single {α : Type} {l : List α} {x : α} (h : l.Nodup) (new : x ∉ l) : (l ++ [x]).Nodup := by
  rw [List.nodup_append]
  refine ⟨h, List.nodup_singleton x, fun y hy z hz same => new ?_⟩
  rwa [← List.mem_singleton.mp hz, ← same]

/-- No turn puts a gate into the queue twice. -/
theorem Turn.nodup {N : Prop} {c : Tables} {p q : Dyn} (h : Turn N c p q) (start : p.queue.Nodup) : q.queue.Nodup := by
  cases h with
  | link h => exact start.sublist h.frame.queue
  | join h => exact nodup_append_single start (not_mem_queue_of_joinable h)
  | grant _ _ => exact start.sublist (grant_step _ _ _).queue
  | lose _ _ => exact start.sublist ((putGate_queue_sublist _ _ _).trans List.filter_sublist)
  | fault _ => exact start.sublist (putGate_queue_sublist _ _ _)
  | recover _ => exact start.sublist (recoveryEnds_step _ _ _).queue
  | dwell d => exact start.sublist (dwellEnds_queue_sublist _ _ _)
  | enter _ _ h =>
    exact start.sublist ((soundForEntry_queue_sublist _ _ _ _ _).trans
      (h.frame.queue.trans (putGate_queue_sublist _ _ _)))
  | exit _ => exact start.sublist (putGate_queue_sublist _ _ _)
  | silence g => exact start.sublist (silenceCheckOf_step _ g g _).queue
  | commit _ h => exact start.sublist ((commitItems_queue_sublist _ _ _).trans h.frame.queue)
  | tune _ => exact start.sublist (putGate_queue_sublist _ _ _)
  | age g => exact start
  | forget d dir => exact start
  | mark g => exact start
  | level _ _ => exact start
  | clearHold d => exact start.sublist (clearHold_queue_sublist _ _ _)

theorem Turns.nodup {N : Prop} {c : Tables} {p q : Dyn} (h : Turns N c p q) : p.queue.Nodup → q.queue.Nodup :=
  chain_keeps (P := fun p => p.queue.Nodup) (fun _ _ => Turn.nodup) h

/-! ### Scans and joins (4.3) -/

section Scan

variable {N : Prop} (c : Tables)

theorem loseInterlock_turns {p : Dyn} {g : GateId} {k : CondId} (queued : N → g ∈ p.queue)
    (false : falseCondition c p.statusWords g (directionTo (p.gates.get g).command (p.gates.get g).target) = some k) :
    Turns N c p
      (loseInterlock c g (directionTo (p.gates.get g).command (p.gates.get g).target) k p) :=
  .head (.lose queued false) (.single (.link (.record _ _)))

theorem examine_turns : (l : List GateId) → (p : Dyn) → (N → l.Nodup ∧ ∀ g ∈ l, g ∈ p.queue) →
    Turns N c p (examine c l p).dyn
  | [], _, _ => .refl
  | g :: rest, p, queued => by
    have first : N → g ∈ p.queue := fun n => (queued n).2 g (List.mem_cons_self ..)
    have others : N → rest.Nodup ∧ ∀ h ∈ rest, h ∈ p.queue := fun n =>
      ⟨(List.nodup_cons.mp (queued n).1).2, fun h hh => (queued n).2 h (List.mem_cons_of_mem _ hh)⟩
    simp only [examine]
    split
    case isTrue =>
      split
      case h_1 passes => exact .single (.grant first passes)
      case h_2 k false =>
        refine (loseInterlock_turns c first false).trans (examine_turns rest _ fun n => ⟨(others n).1, fun h hh => ?_⟩)
        exact loseInterlock_queue c g _ k p h ((others n).2 h hh) fun same =>
          (List.nodup_cons.mp (queued n).1).1 (same ▸ hh)
    case isFalse => exact examine_turns rest p others

theorem scanLoop_turns : (n : Nat) → (p : Dyn) → (N → p.queue.Nodup) → Turns N c p (scanLoop c n p).1
  | 0, _, _ => .refl
  | n + 1, p, distinct => by
    have once : Turns N c p (examine c p.queue p).dyn := examine_turns c p.queue p fun n => ⟨distinct n, fun _ h => h⟩
    simp only [scanLoop]
    split
    · exact once.trans (scanLoop_turns n _ fun n => once.nodup (distinct n))
    · exact once

theorem scan_turns (p : Dyn) (distinct : N → p.queue.Nodup) : Turns N c p (scan c p) := by
  have offered (l : List GateId) (q : Dyn) :
      Turns N c q (l.foldl (fun p g => offerLinks c .interlockLost (.gate g) p) q) :=
    chain_foldl (fun p g => (offerLinks_linked c _ _ p).turns) l q
  exact (scanLoop_turns c _ p distinct).trans (offered _ _)

theorem joinAll_turns (sel : GateId → Bool) (p : Dyn) : Turns N c p (joinAll c sel p) :=
  chain_foldl (fun p g => by
    split
    · unfold joinQueue
      split
      case isTrue joins => exact .single (.join joins)
      case isFalse => exact .refl
    · exact .refl) _ p

theorem joinAndScan_turns (sel : GateId → Bool) (forced : Bool) (p : Dyn) (distinct : N → p.queue.Nodup) :
    Turns N c p (joinAndScan c sel forced p) := by
  have joins : Turns N c p (joinAll c sel p) := joinAll_turns c sel p
  unfold joinAndScan
  dsimp only
  split
  · exact joins.trans (scan_turns c _ fun n => joins.nodup (distinct n))
  · exact joins

theorem schedule_turns (before : Dyn) (forced : Bool) (p : Dyn) (distinct : N → p.queue.Nodup) :
    Turns N c p (schedule c before forced p) := joinAndScan_turns c _ forced p distinct

/-- A chain of turns, and the scheduling at the end of its event. -/
theorem Turns.scheduled {p q : Dyn} (h : Turns N c p q) (before : Dyn) (forced : Bool) (distinct : N → p.queue.Nodup) :
    Turns N c p (schedule c before forced q) :=
  h.trans (schedule_turns c before forced q fun n => h.nodup (distinct n))

end Scan

/-! ### Faults (R16 to R18) -/

section Bodies

variable {N : Prop} (c : Tables)

theorem enterFaulted_turns {g : GateId} {p : Dyn}
    (acts : (p.gates.get g).inService = true ∨ (p.gates.get g).lagTimer ≠ .stopped) (cause : FaultCause) :
    Turns N c p (enterFaulted c g cause p) := by
  refine .head (Turn.fault (cause := cause) acts) ?_
  unfold enterFaulted faultedAt
  dsimp only
  split
  case isTrue same =>
    rw [same, movedTotals_self, ← putGate_totals g ((p.gates.get g).faulted cause) p]
  case isFalse =>
    rw [← putGate_totals g ((p.gates.get g).faulted cause) p]
    exact (changeGateTotal_linked c g _ _ _).turns

theorem lagExpires_turns {g : GateId} {p : Dyn}
    (acts : (p.gates.get g).inService = true ∨ (p.gates.get g).lagTimer ≠ .stopped) :
    Turns N c p (lagExpires c g p) :=
  (enterFaulted_turns c acts .lag).trans (raise_linked c _ _).turns

theorem slotWriteFailed_turns (g : GateId) (a : Access) (p : Dyn) : Turns N c p (slotWriteFailed c g a p) := by
  have fails (state : (p.gates.get g).state ≠ .outOfService) :
      Turns N c p (raise c (storeFaultEvent a (some g) (enterFaulted c g .store p)) (enterFaulted c g .store p)) :=
    (enterFaulted_turns c (.inl (by simpa [Gate.inService] using state)) .store).trans (raise_linked c _ _).turns
  unfold slotWriteFailed
  split
  case h_1 => exact .refl
  case h_2 => exact (raise_linked c _ p).turns
  all_goals
    rename_i state
    exact fails (by simp [state])

/-! ### Service (R4, R5) -/

theorem enterService_turns {g : GateId} {d : DamId} {p : Dyn} (out : (p.gates.get g).inService = false)
    (dam : (c.gates.get g).dam? = some d) (distinct : N → p.queue.Nodup) : Turns N c p (enterService c g d p) := by
  have linked : Linked c (enteredAt c g d p) (changeTotal c d 0 (releaseOf c g (p.gates.get g).feedback)
      (putGate g ((p.gates.get g).entered (c.gates.get g).kind p.mode (p.dams.get d).hold) p)) := by
    unfold enteredAt
    rw [← putGate_totals g ((p.gates.get g).entered (c.gates.get g).kind p.mode (p.dams.get d).hold) p]
    exact changeTotal_linked c d _ _ _
  exact Turns.scheduled c (.single (.enter out dam linked)) p false distinct

theorem exitService_turns {g : GateId} {p : Dyn} (inService : (p.gates.get g).inService = true) :
    Turns N c p (exitService c g p) := by
  refine .head (.exit inService) (ReflTransGen.tail ?_ (.silence g))
  unfold exitedAt
  rw [← putGate_totals g (p.gates.get g).exited p]
  exact (changeGateTotal_linked c g _ _ _).turns

/-! ### Levels (2.6, 2.7) -/

theorem raiseSplit_linked (r : ReachId) (old new : Reach) (p : Dyn) : Linked c p (raiseSplit c r old new p) := by
  unfold raiseSplit
  split
  · exact raise_linked c _ p
  · exact .refl

theorem raiseLevel_linked (r : ReachId) (old new : Reach) (p : Dyn) : Linked c p (raiseLevel c r old new p) := by
  unfold raiseLevel
  split
  · exact .refl
  · split
    · exact raise_linked c _ p
    · exact .refl

/-- The new level part of a reach, then its mark, its events and its EXCEEDED flag. -/
theorem applyReach_linked (r : ReachId) (new : Reach) (always : Bool) (p : Dyn) :
    Linked c (putReach r (new.withLimits (c.reaches.get r)) p) (applyReach c r new always p) := by
  unfold applyReach
  dsimp only
  have marked (b : Bool) (q : Dyn) : Linked c q (if b then markReach r q else q) := by
    cases b
    · exact .refl
    · exact .single (.markReach r q)
  have events := ((marked ((p.reaches.get r).mirrorDiffers (new.withLimits (c.reaches.get r)))
    (putReach r (new.withLimits (c.reaches.get r)) p)).trans
      (raiseSplit_linked c r (p.reaches.get r) (new.withLimits (c.reaches.get r)) _)).trans
        (raiseLevel_linked c r (p.reaches.get r) (new.withLimits (c.reaches.get r)) _)
  split
  · exact events.trans (reevaluate_linked c r _)
  · exact events

theorem Reach.withLimits_follows (x : Reach) (c : ReachConfig) : (x.withLimits c).Follows c := ⟨rfl, rfl⟩

theorem Reach.withLimits_inRange {x : Reach} (h : x.InRange) (c : ReachConfig) : (x.withLimits c).InRange := h

theorem applyReach_turns {r : ReachId} {new : Reach} {p : Dyn} (range : (p.reaches.get r).InRange → new.InRange)
    (always : Bool) : Turns N c p (applyReach c r new always p) :=
  .head (.level (fun h => Reach.withLimits_inRange (range h) _) (Reach.withLimits_follows _ _))
    (applyReach_linked c r new always p).turns

theorem Reach.withSample_inRange {x : Reach} {k : Sensor} {s : Sample} (h : x.InRange) (value : s.value ≤ 9999) :
    (x.withSample k s).InRange := by
  obtain ⟨a, b, level⟩ := h
  cases k with
  | a => exact ⟨value, b, level⟩
  | b => exact ⟨a, value, level⟩

/-- A derived level is a sample's value, or the one before it. -/
theorem derivedLevel_inRange {a b : Sample} {v : Nat} (ha : a.value ≤ 9999) (hb : b.value ≤ 9999)
    (h : derivedLevel a b = some v) : v ≤ 9999 := by
  rw [derivedLevel_eq] at h
  split at h
  · exact Option.some.inj h ▸ max_le ha hb
  · split at h
    · exact Option.some.inj h ▸ ha
    · split at h
      · exact Option.some.inj h ▸ hb
      · cases h

theorem Reach.derived_inRange {x : Reach} (h : x.InRange) (c : ReachConfig) : (x.derived c).InRange := by
  obtain ⟨a, b, level⟩ := h
  refine ⟨a, b, ?_⟩
  show (match derivedLevel x.a x.b with | some v => v | none => x.level) ≤ 9999
  cases known : derivedLevel x.a x.b with
  | some v => exact derivedLevel_inRange a b known
  | none => exact level

theorem deriveWith_turns {r : ReachId} {k : Sensor} {s : Sample} {p : Dyn}
    (value : (p.reaches.get r).InRange → s.value ≤ 9999) : Turns N c p (deriveWith c r k s p) :=
  applyReach_turns c (fun h => Reach.derived_inRange (Reach.withSample_inRange h (value h)) _) false

theorem Reach.sample_inRange {x : Reach} (h : x.InRange) (k : Sensor) : (x.sample k).value ≤ 9999 := by
  cases k with
  | a => exact h.1
  | b => exact h.2.1

theorem sampleExpires_turns (r : ReachId) (k : Sensor) (p : Dyn) : Turns N c p (sampleExpires c r k p) :=
  deriveWith_turns c fun h => Reach.sample_inRange h k

theorem lastDamChanged_turns (p : Dyn) : Turns N c p (lastDamChanged c p) := by
  rw [lastDamChanged_eq]
  exact (reevaluateAll_linked c _ p).turns

/-! ### Admissions (Sections 3 and 5) -/

theorem moveBlocked_none {g : GateId} {v : Nat} {p : Dyn} (free : moveBlocked c p g v = none)
    (moves : v ≠ (p.gates.get g).command) :
    falseCondition c p.statusWords g (directionTo (p.gates.get g).command v) = none := by
  simpa [moveBlocked, moves] using free

theorem Linked.target {p q : Dyn} (h : Linked c p q) (g : GateId) : (q.gates.get g).target = (p.gates.get g).target :=
  (Gate.sameOrder_holds (h.frame.gates g)).1

/-- The taken request, or order, whose items have passed their checks: admission, commits, scheduling. -/
theorem admission_turns {items : List Item} {p q : Dyn} (admissible : Admissible c p items)
    (passes : admission c (batchChanges c p items) p = .ok q) : Turns N c p (commitItems c items q) :=
  .single (.commit admissible (admission_linked passes).2)

theorem decodeValue_le {decimal : Bool} {max v : Nat} {w : Word} (h : decodeValue decimal max w = some v) :
    v ≤ max := by
  unfold decodeValue at h
  repeat' split at h
  all_goals simp_all

/-- A single order is an admission of one item. -/
theorem batchChanges_single {g : GateId} {v : Nat} {p : Dyn} (change : v ≠ (p.gates.get g).target) :
    batchChanges c p [(g, v)] = releaseChange c p g v := by
  simp [batchChanges, change]

theorem commitItems_single {g : GateId} {v : Nat} {p : Dyn} (change : v ≠ (p.gates.get g).target) :
    commitItems c [(g, v)] p = commitTarget c g v p := by
  simp [commitItems, change]

end Bodies

end Sys2Proof.Machine
end

section
/-! What every step of the part is made of: turns, port and bus changes, mode changes and configuration writes. Each claim
about every step is then a claim about each of these effects. -/

namespace Sys2Proof.Machine

open Relation (ReflTransGen)

/-! ### Two views of the dynamic state -/

/-- What the claims about gates, dams and reaches speak of. -/
structure Plant where
  gates : Vector Gate 48
  hold : DamId → Bool
  warning : DamId → Warning
  totals : Vector Word 6
  reaches : Vector Reach 6
  statusWords : Vector Word 16
  queue : List GateId
  mode : Mode

def Dyn.plant (p : Dyn) : Plant where
  gates := p.gates
  hold := fun d => (p.dams.get d).hold
  warning := fun d => (p.dams.get d).warning
  totals := p.totals
  reaches := p.reaches
  statusWords := p.statusWords
  queue := p.queue
  mode := p.mode

/-- What the claims about portals, the bus and the refresh debt speak of, beside the mode. -/
structure Desk where
  portals : Vector Portal 4
  portalJobs : List PortalJob
  running : Option Running
  hand : Option Transaction
  debt : Int

def Dyn.desk (p : Dyn) : Desk where
  portals := p.portals
  portalJobs := p.portalJobs
  running := p.running
  hand := p.hand
  debt := p.debt

/-! ### The effects -/

/-- A job that a free port begins, but for a portal job: a forwarded transaction is the one in hand, and a refresh is
offered in RUN only while the debt is -3 or more (R116). -/
def Begins (p : Dyn) : Job → Prop
  | .forwarded t => p.hand = some t
  | .refresh _ _ _ _ _ => p.mode = .run → -3 ≤ p.debt
  | .portal _ _ => False
  | _ => True

/-- What can happen to portals, bus, port and debt where gates, dams, reaches and mode stand. -/
inductive DeskStep (p : Dyn) : Desk → Prop
  | same : DeskStep p p.desk
  | taken (t : Transaction) : p.hand = none → DeskStep p { p.desk with hand := some t }
  | answered : p.hand = none ∨ p.running = none → DeskStep p { p.desk with hand := none }
  | portal (q : PortalId) (x : Portal) : x.busy = (p.portals.get q).busy →
      DeskStep p { p.desk with portals := Table.put p.portals q x }
  | owed : p.debt < 7 → DeskStep p { p.desk with debt := p.debt + 1 }
  | paid : countsInRun p = true ∨ (p.running = none ∧ -3 ≤ p.debt) →
      DeskStep p { p.desk with running := none, debt := p.debt - 1 }
  | freed {j : Job} {a : Access} : p.running = some ⟨j, a⟩ → j.isPortal = false →
      DeskStep p { p.desk with running := none }
  | portalDone {j : PortalJob} {k : Nat} {a : Access} : p.running = some ⟨.portal j k, a⟩ →
      DeskStep p { p.desk with
        running := none
        portals := Table.put p.portals j.portal { p.portals.get j.portal with busy := false } }
  | goesOn {j k : Job} {a b x : Access} {ans : StoreAnswer} : p.running = some ⟨j, a⟩ →
      (j.answered x ans).next = some k → DeskStep p { p.desk with running := some ⟨k, b⟩ }
  | begun {j : Job} (a : Access) : p.running = none → Begins p j →
      DeskStep p { p.desk with running := some ⟨j, a⟩ }
  | portalBegun {j : PortalJob} {rest : List PortalJob} (a : Access) : p.running = none → p.portalJobs = j :: rest →
      DeskStep p { p.desk with running := some ⟨.portal j 0, a⟩, portalJobs := rest }

/-- A taken change of a configuration copy that neither the interlocks of in-service gates nor the levels feel. -/
inductive TableStep (p : Dyn) (c : Tables) : Tables → Prop
  | gate {g : GateId} (x : GateConfig) : (p.gates.get g).inService = false →
      TableStep p c { c with gates := Table.put c.gates g x }
  | dams (x : Vector DamConfig 6) : TableStep p c { c with dams := x }
  | lastDam (l : DamId) : TableStep p c { c with lastDam := l }
  | matrix (x : Vector Word 8) : TableStep p c { c with matrix := x }
  | portals (x : Vector PortalConfig 4) : TableStep p c { c with portals := x }
  | interval (w : Word) : TableStep p c { c with refreshInterval := w }
  | master {m : MasterId} (x : Master) : m.val ≠ 0 → TableStep p c { c with masters := Table.put c.masters m x }
  | link (l : LinkId) {x : Link} : x.valid = true → TableStep p c { c with links := Table.put c.links l x }
  | descriptor {q : PageId} {x : Descriptor} :
      (q.val ≤ 20 → x.present = true ∧ x.limit.toNat = fixedLimit q) →
      TableStep p c { c with descriptors := Table.put c.descriptors q x }

/-- The state with MODE gone from every in-service gate as the exit pass ends (R110). -/
def resumed (p : Dyn) : Dyn :=
  changeCauses (fun _ => true) (fun cs => { cs with mode := false })
    (markSummary { p with mode := .run, debt := 0, progress := 0 })

/-- One effect of a step. `N` stands for what is known of the queue: that it holds no gate twice. -/
inductive Effect (N : Prop) : State → State → Prop
  | store (s : State) (m : List Host.Cell) : Effect N s { s with store := m }
  | pending (s : State) (l : List Instr) : Effect N s { s with pending := l }
  | turn {s : State} {q : Dyn} : Turn N s.tables s.dyn q → Effect N s { s with dyn := q }
  | desk {s : State} {q : Dyn} : q.plant = s.dyn.plant → DeskStep s.dyn q.desk → Effect N s { s with dyn := q }
  | request {s : State} {q : PortalId} {p : Dyn} {j : PortalJob} : (s.dyn.portals.get q).busy = false →
      j.portal = q → Turns N s.tables
        { s.dyn with portals := Table.put s.dyn.portals q { s.dyn.portals.get q with busy := true } } p →
      Effect N s { s with dyn := queuePortalJob j p }
  | toRun {s : State} : s.dyn.mode = .config → Effect N s { s with dyn := { s.dyn with mode := .run, debt := 0 } }
  | toConfig {s : State} : s.dyn.mode = .run → (∀ g, (s.dyn.gates.get g).inService = false) →
      Effect N s { s with dyn := { uncredit s.dyn with mode := .config } }
  | toExiting {s : State} : s.dyn.mode = .hold → Effect N s { s with dyn := { s.dyn with mode := .exiting } }
  | resume {s : State} : s.dyn.mode = .exiting → Effect N s { s with dyn := resumed s.dyn }
  | arrival (s : State) : Effect N s { s with dyn := countArrival s.dyn }
  | statusWord (s : State) (n : StatusId) (w : Word) :
      Effect N s { s with
        dyn := clearInterlocks s.tables (fun k => (s.tables.conditions.get k).source == n)
          { s.dyn with statusWords := Table.put s.dyn.statusWords n w } }
  | condition (s : State) (k : CondId) (x : Condition) :
      Effect N s { s with
        tables := { s.tables with conditions := Table.put s.tables.conditions k x }
        dyn := clearInterlocks { s.tables with conditions := Table.put s.tables.conditions k x } (fun j => j == k)
          s.dyn }
  | reach {s : State} {r : ReachId} {cfg : ReachConfig} {x : Reach} :
      ((s.dyn.reaches.get r).InRange → x.InRange) →
      ((s.dyn.reaches.get r).Follows (s.tables.reaches.get r) → x.Follows cfg) →
      Effect N s { s with
        tables := { s.tables with reaches := Table.put s.tables.reaches r cfg }
        dyn := putReach r x s.dyn }
  | tables {s : State} {c : Tables} : TableStep s.dyn s.tables c → Effect N s { s with tables := c }
  | powerOn (s : State) : Effect N s (powerOn s)
  | resetLine (s : State) : Effect N s (resetLine s)

/-- A chain of effects. -/
abbrev Effects (N : Prop) : State → State → Prop := ReflTransGen (Effect N)

section Basics

variable {N : Prop} {s : State}

theorem Turns.effects {q : Dyn} (h : Turns N s.tables s.dyn q) : Effects N s { s with dyn := q } := by
  induction h with
  | refl => exact .refl
  | tail _ last ih => exact ih.tail (.turn (s := { s with dyn := _ }) last)

theorem Linked.effects {q : Dyn} (h : Linked s.tables s.dyn q) : Effects N s { s with dyn := q } := h.turns.effects

/-- A change of nothing that any invariant speaks of. -/
theorem Effect.bookkeeping {q : Dyn} (plant : q.plant = s.dyn.plant) (desk : q.desk = s.dyn.desk) :
    Effect N s { s with dyn := q } := .desk plant (desk ▸ .same)

end Basics

/-! ### The queue holds no gate twice -/

theorem Effect.nodup {N : Prop} {s t : State} (h : Effect N s t) (start : s.dyn.queue.Nodup) : t.dyn.queue.Nodup := by
  cases h with
  | store => exact start
  | pending => exact start
  | turn h => exact h.nodup start
  | desk plant _ => exact (congrArg (fun x : Plant => x.queue.Nodup) plant).mpr start
  | request _ _ turns => exact turns.nodup start
  | toRun => exact start
  | toConfig =>
    show (uncredit s.dyn).queue.Nodup
    simpa using start
  | toExiting => exact start
  | resume _ =>
    show (resumed s.dyn).queue.Nodup
    rw [resumed, changeCauses_queue]
    exact start.filter _
  | arrival => exact start
  | statusWord n w =>
    rw [clearInterlocks_queue]
    exact start.filter _
  | condition k x =>
    rw [clearInterlocks_queue]
    exact start.filter _
  | reach _ _ => exact start
  | tables _ => exact start
  | powerOn => exact List.nodup_nil
  | resetLine => exact List.nodup_nil

theorem Effects.nodup {N : Prop} {s t : State} (h : Effects N s t) : s.dyn.queue.Nodup → t.dyn.queue.Nodup :=
  chain_keeps (P := fun s : State => s.dyn.queue.Nodup) (fun _ _ => Effect.nodup) h

end Sys2Proof.Machine
end

section
/-! Every step is a chain of effects: grants, answers of the store, handlers, expiries and resets. -/

namespace Sys2Proof.Machine

open Relation (ReflTransGen)

/-! ### Offers and grants (R114 to R116, R136) -/

theorem offerRun_plant (p : Dyn) : (offerRun p).plant = p.plant := by
  unfold offerRun
  split <;> rfl

theorem offerRun_desk (p : Dyn) : (offerRun p).desk = p.desk := by
  unfold offerRun
  split <;> rfl

section Grants

variable {N : Prop} {s : State}

theorem Effects.bookkeeping {p q : Dyn} (h : Effects N s { s with dyn := p }) (plant : q.plant = p.plant)
    (desk : q.desk = p.desk) : Effects N s { s with dyn := q } :=
  h.tail (Effect.bookkeeping (s := { s with dyn := p }) plant desk)

theorem Effects.offered {p : Dyn} (h : Effects N s { s with dyn := p }) : Effects N s { s with dyn := offerRun p } :=
  h.bookkeeping (offerRun_plant p) (offerRun_desk p)

theorem Effects.turns {p q : Dyn} (h : Effects N s { s with dyn := p }) (turns : Turns N s.tables p q) :
    Effects N s { s with dyn := q } :=
  h.trans (Turns.effects (s := { s with dyn := p }) turns)

/-- The job in progress that a refresh completes: none where the refresh had no gate to write. -/
def RefreshEnds (p : Dyn) : Prop :=
  p.running = none ∨ ∃ j a, p.running = some ⟨j, a⟩ ∧ j.isPortal = false

theorem RefreshEnds.frees (h : RefreshEnds s.dyn) : Effects N s { s with dyn := { s.dyn with running := none } } := by
  obtain free | ⟨j, a, running, other⟩ := h
  · exact .single (.bookkeeping rfl (by simp [Dyn.desk, free]))
  · exact .single (.desk rfl (.freed running other))

theorem endExitPass_effects {c : Tables} {p : Dyn} (tables : s.tables = c) (dyn : s.dyn = p) (exiting : p.mode = .exiting)
    (distinct : N → p.queue.Nodup) : Effects N s { s with dyn := endExitPass c p } := by
  subst tables dyn
  have clears : Effects N s { s with dyn := resumed s.dyn } := .single (.resume exiting)
  exact Effects.offered
    (clears.turns (schedule_turns s.tables s.dyn false (resumed s.dyn) fun n => clears.nodup (distinct n)))

/-- The completion of a refresh: the debt is paid in RUN, or the exit pass goes on or ends. -/
theorem refreshComplete_effects (d : DamId) {counts : Bool} (ends : RefreshEnds s.dyn)
    (pays : counts = true → s.dyn.mode = .run →
      countsInRun s.dyn = true ∨ (s.dyn.running = none ∧ -3 ≤ s.dyn.debt))
    (distinct : N → s.dyn.queue.Nodup) :
    Effects N s { s with dyn := refreshComplete s.tables d counts { s.dyn with running := none } } := by
  have advanced : Effects N s { s with dyn := advancePointer s.tables d { s.dyn with running := none } } :=
    ends.frees.bookkeeping rfl rfl
  unfold refreshComplete
  dsimp only
  split
  case h_1 running =>
    refine Effects.offered ?_
    split
    case isTrue counted => exact .single (.desk rfl (.paid (pays counted running)))
    case isFalse => exact advanced
  case h_2 exiting =>
    split
    · split
      · exact advanced.trans (endExitPass_effects (s := { s with dyn := _ }) rfl rfl exiting distinct)
      · exact advanced.bookkeeping rfl rfl
    · exact advanced.bookkeeping rfl rfl
  case h_3 => exact advanced
  case h_4 => exact advanced

theorem Dyn.running_none {p : Dyn} (free : p.running = none) : { p with running := none } = p := by
  rw [← free]

theorem putDam_plant {d : DamId} {x : Dam} {p : Dyn} (hold : x.hold = (p.dams.get d).hold)
    (warning : x.warning = (p.dams.get d).warning) : (putDam d x p).plant = p.plant := by
  have same {α : Type} (view : Dam → α) (h : view x = view (p.dams.get d)) :
      (fun e => view ((Table.put p.dams d x).get e)) = fun e => view (p.dams.get e) := by
    funext e
    rw [Table.put_get]
    split
    · next hd => exact hd ▸ h
    · rfl
  simp only [Dyn.plant, putDam_dams, same Dam.hold hold, same Dam.warning warning]
  rfl

end Grants

/-- A waiting transaction is the one in hand. -/
def Waiting.InHand (p : Dyn) : Waiting → Prop
  | .forwarded t => p.hand = some t
  | _ => True

theorem refreshAt_inHand {p : Dyn} {k : Nat} {w : Waiting} (h : refreshAt k p = some w) : w.InHand p := by
  unfold refreshAt at h
  split at h
  · obtain ⟨_, made⟩ := Option.ite_none_right_eq_some.mp h
    cases made
    trivial
  · cases h

theorem oldestMirror_inHand {p : Dyn} {w : Waiting} (h : oldestMirror p = some w) : w.InHand p := by
  obtain ⟨⟨w, age⟩, oldest, rfl⟩ := Option.map_eq_some_iff.mp h
  obtain two | summary := olderMark_eq oldest
  · obtain gate | reach := olderMark_eq two
    · obtain ⟨_, _, made⟩ := Option.map_eq_some_iff.mp gate; cases made; trivial
    · obtain ⟨_, _, made⟩ := Option.map_eq_some_iff.mp reach; cases made; trivial
  · obtain ⟨_, _, made⟩ := Option.map_eq_some_iff.mp summary; cases made; trivial

theorem waitingTransaction_inHand {p : Dyn} {w : Waiting} (h : waitingTransaction p = some w) : w.InHand p := by
  obtain ⟨t, hand, rfl⟩ := Option.map_eq_some_iff.mp h
  exact hand

theorem waitingPortal_inHand {p : Dyn} {w : Waiting} (h : waitingPortal p = some w) : w.InHand p := by
  unfold waitingPortal at h
  split at h <;> cases h
  trivial

theorem waitingRecord_inHand {p : Dyn} {w : Waiting} (h : waitingRecord p = some w) : w.InHand p := by
  unfold waitingRecord at h
  split at h
  · cases h
  · split at h <;> cases h
    trivial

theorem inHand_of_mem {p : Dyn} {w : Waiting} (h : w ∈ waitingHeads p) : w.InHand p := by
  simp only [waitingHeads, List.reduceOption_mem_iff, List.mem_cons, List.not_mem_nil, or_false,
    eq_comm (a := some w)] at h
  obtain refresh | hand | slot | portal | record | mirror | refresh | refresh := h
  · exact refreshAt_inHand refresh
  · exact waitingTransaction_inHand hand
  · obtain ⟨_, _, rfl⟩ := Option.map_eq_some_iff.mp slot; trivial
  · exact waitingPortal_inHand portal
  · exact waitingRecord_inHand record
  · exact oldestMirror_inHand mirror
  · exact refreshAt_inHand refresh
  · exact refreshAt_inHand refresh

/-- A refresh has a class in RUN only while the debt is -3 or more. -/
theorem debt_of_refreshClass {p : Dyn} (h : (refreshClass p).isSome = true) (running : p.mode = .run) :
    -3 ≤ p.debt := by
  unfold refreshClass at h
  rw [running] at h
  dsimp only at h
  split at h
  · omega
  · split at h
    · omega
    · split at h
      · assumption
      · cases h

section Granting

variable {N : Prop} {s : State}

/-- A refresh with no gate to write completes at once. -/
theorem emptyRefresh_effects {d : DamId} {counts : Bool} (free : s.dyn.running = none)
    (debt : s.dyn.mode = .run → -3 ≤ s.dyn.debt) (distinct : N → s.dyn.queue.Nodup) :
    Effects N s { s with dyn := refreshComplete s.tables d counts s.dyn } := by
  have ends := refreshComplete_effects (N := N) (s := s) d (counts := counts) (.inl free)
    (fun _ run => .inr ⟨free, debt run⟩) distinct
  rwa [Dyn.running_none free] at ends

theorem grantRefresh_effects {d : DamId} (free : s.dyn.running = none) (debt : s.dyn.mode = .run → -3 ≤ s.dyn.debt)
    (distinct : N → s.dyn.queue.Nodup) : Effects N s { s with dyn := grantRefresh s.tables d s.dyn } := by
  have granted : Effects N s { s with
      dyn := markReach d (putDam d { s.dyn.dams.get d with sequence := (s.dyn.dams.get d).sequence + 1 }
        { s.dyn with offer := none }) } :=
    .single (.bookkeeping (putDam_plant (p := { s.dyn with offer := none }) rfl rfl) rfl)
  unfold grantRefresh
  dsimp only
  split
  case h_1 =>
    exact granted.trans (emptyRefresh_effects (s := { s with dyn := markReach d _ }) free debt distinct)
  case h_2 g gs _ =>
    exact granted.tail (.desk (s := { s with dyn := markReach d _ }) rfl (.begun _ free debt))

theorem grantJob_effects {w : Waiting} (waits : w ∈ waitingHeads s.dyn) (free : s.dyn.running = none)
    (distinct : N → s.dyn.queue.Nodup) : Effects N s { s with dyn := grantJob s.tables w s.dyn } := by
  cases w with
  | refresh d => exact grantRefresh_effects free (debt_of_refreshClass (refresh_waits waits).2) distinct
  | forwarded t => exact .single (.desk rfl (.begun _ free (inHand_of_mem waits)))
  | portal j rest => exact .single (.desk rfl (.portalBegun _ free (standsFirst_of_mem waits)))
  | _ => exact .single (.desk rfl (.begun _ free trivial))

theorem GrantedByClass.effects {p q : Dyn} (h : GrantedByClass s.tables p q) (distinct : N → p.queue.Nodup) :
    Effects N { s with dyn := p } { s with dyn := q } := by
  induction h with
  | busy => exact .refl
  | idle => exact .refl
  | grants p q w free first _ ih =>
    have once : Effects N { s with dyn := p } { s with dyn := grantJob s.tables w p } :=
      grantJob_effects (List.mem_of_head? first) free distinct
    exact once.trans (ih fun n => once.nodup (distinct n))

/-- The arbiter at the end of an event. -/
theorem arbitrate_effects (wasFree : Bool) (distinct : N → s.dyn.queue.Nodup) :
    Effects N s { s with dyn := arbitrate s.tables wasFree s.dyn } := by
  cases running : s.dyn.running with
  | some r => rw [arbitrate_busy (by simp [running])]
  | none =>
    cases wasFree with
    | false => exact (arbitrate_byClass running).effects distinct
    | true =>
      obtain ⟨same, -⟩ | ⟨-, w, waits, grants⟩ :=
        arbitrate_granted (c := s.tables) (p := s.dyn) (b := true) (by simp [running])
      · rw [same]
      · have once : Effects N s { s with dyn := grantJob s.tables w s.dyn } :=
          grantJob_effects (offeredTogether_sub waits) running distinct
        exact once.trans (grants.effects fun n => once.nodup (distinct n))

theorem Effects.arbitrated {c : Tables} {p : Dyn} (h : Effects N s { s with tables := c, dyn := p }) (wasFree : Bool)
    (distinct : N → s.dyn.queue.Nodup) :
    Effects N s { s with tables := c, dyn := arbitrate c wasFree p } :=
  h.trans (arbitrate_effects (s := { s with tables := c, dyn := p }) wasFree fun n => h.nodup (distinct n))

end Granting

end Sys2Proof.Machine
end

section
/-! What the answers of the store and the handlers of written words are made of. -/

namespace Sys2Proof.Machine

open Relation (ReflTransGen)

/-! ### Answers of the store (R135 to R140) -/

theorem setLogLost_plant (p : Dyn) : (setLogLost p).plant = p.plant := by
  unfold setLogLost
  split <;> rfl

theorem setLogLost_desk (p : Dyn) : (setLogLost p).desk = p.desk := by
  unfold setLogLost
  split <;> rfl

section Answers

variable {N : Prop} {s : State}

theorem raiseStoreFault_linked (c : Tables) (a : Access) (g : Option GateId) (p : Dyn) :
    Linked c p (raiseStoreFault c a g p) := raise_linked c _ p

theorem refreshWriteFailed_linked (c : Tables) (g : GateId) (a : Access) (p : Dyn) :
    Linked c p (refreshWriteFailed c g a p) := by
  unfold refreshWriteFailed
  split
  · exact .refl
  · exact raiseStoreFault_linked c a _ p

theorem accessFailed_effects (j : Job) (a : Access) :
    Effects N s { s with dyn := accessFailed s.tables j a s.dyn } := by
  cases j with
  | slot g stamp => exact (slotWriteFailed_turns s.tables g a s.dyn).effects
  | refresh d o counts g rest => exact (refreshWriteFailed_linked s.tables g a s.dyn).effects
  | portal j k => exact (raiseStoreFault_linked s.tables a _ s.dyn).effects
  | log r w k => exact .single (.bookkeeping (setLogLost_plant _) (setLogLost_desk _))
  | pass kind k => exact .single (.bookkeeping rfl rfl)
  | _ => exact .refl

theorem accessFailed_busy (c : Tables) (j : Job) (a : Access) (p : Dyn) :
    (accessFailed c j a p).running.isNone = p.running.isNone := by
  have linked {q : Dyn} (h : Linked c p q) : q.running.isNone = p.running.isNone := congrArg Still.free h.frame.still
  cases j with
  | slot g stamp => exact congrArg Still.free (slotWriteFailed_still c g a p)
  | refresh d o counts g rest => exact linked (refreshWriteFailed_linked c g a p)
  | portal j k => exact linked (raiseStoreFault_linked c a _ p)
  | log r w k => exact congrArg Option.isNone (congrArg Desk.running (setLogLost_desk p))
  | _ => rfl

theorem countsInRun_of_refresh {p : Dyn} {d : DamId} {o : RefreshOrigin} {g : GateId} {rest : List GateId} {a : Access}
    (running : p.running = some ⟨.refresh d o true g rest, a⟩) (mode : p.mode = .run) : countsInRun p = true := by
  simp [countsInRun, running, mode]

theorem resetRecorded_linked (c : Tables) (kind : PassKind) (ds : List ReachId) (p : Dyn) :
    Linked c p (reevaluateAll c ds (formRecord (resetRecord kind p) p)) :=
  .head (.record _ p) (reevaluateAll_linked c ds _)

theorem endPass_effects (kind : PassKind) : Effects N s { s with dyn := endPass s.tables kind s.dyn } := by
  have ended : Effects N s { s with dyn := { s.dyn with
      passKind := none
      powerOnUnfinished := if kind == .powerOn then false else s.dyn.powerOnUnfinished } } :=
    .single (.bookkeeping rfl rfl)
  exact (ended.turns (resetRecorded_linked s.tables kind _ _).turns).bookkeeping rfl rfl

/-- A mirror of a gate or a reach, and what its completion reports. -/
def Job.isRecordMirror : Job → Bool
  | .gateMirror _ _ _ => true
  | .reachMirror _ _ _ => true
  | _ => false

theorem mirrorComplete_linked {c : Tables} {j : Job} {a : Access} {ans : StoreAnswer} (data : Word) (p : Dyn)
    (mirror : j.isRecordMirror = true) : Linked c p (jobComplete c j a ans data p) := by
  cases j with
  | gateMirror g k failed =>
    cases failed with
    | none => exact .refl
    | some f => exact raiseStoreFault_linked c f _ p
  | reachMirror r k failed =>
    cases failed with
    | none => exact .refl
    | some f => exact raiseStoreFault_linked c f _ p
  | _ => cases mirror

/-- A job that is complete leaves the port free. -/
theorem jobComplete_effects {j : Job} {x a b : Access} {ans : StoreAnswer} {data : Word}
    (running : s.dyn.running = some ⟨j, b⟩) (distinct : N → s.dyn.queue.Nodup) :
    Effects N s { s with
      dyn := jobComplete s.tables (j.answered x ans) a ans data { s.dyn with running := none } } := by
  have freed (other : j.isPortal = false) : Effects N s { s with dyn := { s.dyn with running := none } } :=
    .single (.desk rfl (.freed running other))
  cases j with
  | forwarded t =>
    have answered (r : BusResult) :
        Effects N s { s with dyn := answerWith t.master r { s.dyn with running := none } } :=
      (freed rfl).tail (.desk (s := { s with dyn := { s.dyn with running := none } }) rfl (.answered (.inr rfl)))
    cases ans with
    | ok => exact answered _
    | error => exact (answered _).turns (.single (.link (.record _ _)))
  | slot g stamp => cases ans <;> exact freed rfl
  | refresh d o counts g rest =>
    have completes := refreshComplete_effects (N := N) (s := s) d (counts := counts) (.inr ⟨_, _, running, rfl⟩)
      (fun counted mode => .inl (by subst counted; exact countsInRun_of_refresh running mode)) distinct
    cases ans <;> exact completes
  | portal j k => cases ans <;> exact .single (.desk rfl (.portalDone running))
  | log r w k => cases ans <;> exact (freed rfl).bookkeeping rfl rfl
  | gateMirror g k failed => cases ans <;> exact (freed rfl).turns (mirrorComplete_linked _ _ rfl).turns
  | reachMirror r k failed => cases ans <;> exact (freed rfl).turns (mirrorComplete_linked _ _ rfl).turns
  | summary =>
    cases ans with
    | ok => exact freed rfl
    | error => exact (freed rfl).turns (raiseStoreFault_linked _ _ _ _).turns
  | pass kind k =>
    have ends := (freed rfl).trans (endPass_effects (s := { s with dyn := { s.dyn with running := none } }) kind)
    cases ans <;> exact ends

theorem jobGoesOn_effects {j : Job} {x a b : Access} {ans : StoreAnswer} {data : Word}
    (running : s.dyn.running = some ⟨j, b⟩) (distinct : N → s.dyn.queue.Nodup) :
    Effects N s { s with dyn := jobGoesOn s.tables (j.answered x ans) a ans data s.dyn } := by
  unfold jobGoesOn
  split
  case h_1 next => exact .single (.desk rfl (.goesOn running next))
  case h_2 => exact jobComplete_effects running distinct

theorem takeAnswer_effects {r : Running} {ans : StoreAnswer} {data : Word} (running : s.dyn.running = some r)
    (distinct : N → s.dyn.queue.Nodup) : Effects N s { s with dyn := takeAnswer s.tables r ans data s.dyn } := by
  have goesOn {p : Dyn} (first : Effects N s { s with dyn := p }) (busy : p.running.isNone = false) :
      Effects N s { s with
        dyn := arbitrate s.tables false
          (jobGoesOn s.tables ((jobNow p r.job).answered r.access ans) r.access ans data p) } := by
    obtain ⟨⟨j, b⟩, now⟩ := Option.isSome_iff_exists.mp (by simpa using busy)
    rw [jobNow_of_running now]
    exact Effects.arbitrated (c := s.tables) (first.trans (jobGoesOn_effects (s := { s with dyn := p }) now
      fun n => first.nodup (distinct n))) false distinct
  cases ans with
  | ok => exact goesOn .refl (by simp [running])
  | error => exact goesOn (accessFailed_effects r.job r.access) ((accessFailed_busy _ _ _ _).trans (by simp [running]))

theorem accessDone_effects (kind : Job → Bool) (ans : StoreAnswer) (distinct : N → s.dyn.queue.Nodup) :
    Effects N s (accessDone kind ans s) := by
  unfold accessDone
  split
  case h_1 => exact .refl
  case h_2 r running =>
    split
    · have advanced : Effects N s { s with dyn := s.dyn.advance } := .single (.bookkeeping rfl rfl)
      exact (advanced.trans (takeAnswer_effects (s := { s with dyn := s.dyn.advance }) running distinct)).tail
        (.store _ _)
    · exact .refl

end Answers

end Sys2Proof.Machine
end

section
/-! What the handlers of written words are made of (Table 7-6). -/

namespace Sys2Proof.Machine

open Relation (ReflTransGen)

/-- What a handler has done to a state: a refusal is turns, which leave the configuration; a taken write is a chain of
effects. Neither touches the transaction in hand. -/
def HandledAs (N : Prop) (s : State) : Handled → Prop
  | .refused _ _ _ p => Turns N s.tables s.dyn p
  | .taken c p => Effects N s { s with tables := c, dyn := p } ∧ p.hand = s.dyn.hand

/-! ### Admissions (Sections 3 and 5) -/

theorem admission_target {c : Tables} {changes : List (DamId × Nat × Nat)} {p q : Dyn}
    (passes : admission c changes p = .ok q) (g : GateId) :
    (q.gates.get g).target = (p.gates.get g).target := Linked.target c (admission_linked passes).2 g

/-- An item that passes its checks (R97, R98). -/
structure Item.Fits (c : Tables) (p : Dyn) (e : Item) : Prop where
  inService : (p.gates.get e.1).state ≠ .outOfService
  sound : (p.gates.get e.1).state ≠ .faulted
  opening : e.2 ≤ 1000
  interlock : e.2 ≠ (p.gates.get e.1).target → e.2 ≠ (p.gates.get e.1).command →
    falseCondition c p.statusWords e.1 (directionTo (p.gates.get e.1).command e.2) = none

theorem admissible_of_fits {c : Tables} {p : Dyn} {items : List Item} (distinct : (items.map (·.1)).Nodup)
    (fits : ∀ e ∈ items, e.Fits c p) : Admissible c p items where
  distinct := distinct
  inService := fun e he => (fits e he).inService
  sound := fun e he => (fits e he).sound
  opening := fun e he => (fits e he).opening
  interlock := fun e he => (fits e he).interlock

theorem itemCheck_ok {c : Tables} {p : Dyn} {cfg : PortalConfig} {header : Word} {earlier : List Item} {w : Word}
    {e : Item} (h : itemCheck c p cfg header earlier w = .ok e) : e.Fits c p ∧ e.1 ∉ earlier.map (·.1) := by
  unfold itemCheck at h
  split at h
  case isFalse => cases h
  case isTrue inside =>
    dsimp only at h
    split at h
    · cases h
    · split at h
      · cases h
      case isFalse new =>
        split at h
        · cases h
        case isFalse opening =>
          split at h
          · cases h
          case isFalse state =>
            split at h
            · cases h
            · split at h
              · cases h
              case isFalse interlock =>
                obtain rfl := Except.ok.inj h
                simp only [Bool.or_eq_true, beq_iff_eq, not_or] at state
                refine ⟨⟨state.1, state.2, Nat.le_of_not_lt opening, fun change moves => ?_⟩, ?_⟩
                · simp only [Bool.and_eq_true, bne_iff_ne, ne_eq, not_and, Bool.not_eq_true,
                    Option.isSome_eq_false_iff, Option.isNone_iff_eq_none] at interlock
                  exact moveBlocked_none c (interlock change) moves
                · simpa using new

theorem itemsCheck_ok {c : Tables} {p : Dyn} {cfg : PortalConfig} {header : Word} :
    (ws : List Word) → {earlier items : List Item} → itemsCheck c p cfg header ws earlier = .ok items →
      (earlier.map (·.1)).Nodup → (∀ e ∈ earlier, e.Fits c p) →
        (items.map (·.1)).Nodup ∧ ∀ e ∈ items, e.Fits c p
  | [], _, _, h, distinct, fits => by
    obtain rfl := Except.ok.inj h
    exact ⟨distinct, fits⟩
  | w :: ws, earlier, items, h, distinct, fits => by
    unfold itemsCheck at h
    split at h
    case h_1 => cases h
    case h_2 e checked =>
      obtain ⟨fit, new⟩ := itemCheck_ok checked
      refine itemsCheck_ok ws h ?_ ?_
      · rw [List.map_append]
        exact nodup_append_single distinct new
      · intro x hx
        obtain old | new := List.mem_append.mp hx
        · exact fits x old
        · rw [List.mem_singleton.mp new]
          exact fit

section Handlers

variable {N : Prop} {s : State}

theorem HandledAs.ofTurns {p : Dyn} (h : Turns N s.tables s.dyn p) : HandledAs N s (.taken s.tables p) :=
  ⟨h.effects, (still_fields h.still).2.2.2.2.2.2.2.2.2.1⟩

theorem HandledAs.ofTables {c : Tables} (h : TableStep s.dyn s.tables c) : HandledAs N s (.taken c s.dyn) :=
  ⟨.single (.tables h), rfl⟩

theorem HandledAs.ofRefusal (code : Code) (detail : Nat) (g : Option GateId) :
    HandledAs N s (.refused code detail g s.dyn) := .refl

theorem HandledAs.bookkeeping {p : Dyn} (plant : p.plant = s.dyn.plant) (desk : p.desk = s.dyn.desk) :
    HandledAs N s (.taken s.tables p) := ⟨.single (.bookkeeping plant desk), congrArg Desk.hand desk⟩

/-! ### The mode word (R105 to R111) -/

theorem anyInService_iff (p : Dyn) : anyInService p = true ↔ ∃ g, (p.gates.get g).inService = true := by
  simp [anyInService, List.any_eq_true]

theorem enterRun_effects (config : s.dyn.mode = .config) : Effects N s { s with dyn := enterRun s.dyn } := by
  have entered : Effects N s { s with dyn := { s.dyn with mode := .run, debt := 0 } } := .single (.toRun config)
  exact Effects.offered (entered.bookkeeping rfl rfl)

theorem enterConfig_effects (run : s.dyn.mode = .run) (out : anyInService s.dyn = false) :
    Effects N s { s with dyn := enterConfig s.dyn } := by
  have idle (g : GateId) : (s.dyn.gates.get g).inService = false := by
    by_contra inService
    rw [(anyInService_iff s.dyn).mpr ⟨g, by simpa using inService⟩] at out
    cases out
  have entered : Effects N s { s with dyn := { uncredit s.dyn with mode := .config } } := .single (.toConfig run idle)
  exact entered.bookkeeping rfl rfl

theorem enterExiting_effects (hold : s.dyn.mode = .hold) : Effects N s { s with dyn := enterExiting s.dyn } := by
  have entered : Effects N s { s with dyn := { s.dyn with mode := .exiting } } := .single (.toExiting hold)
  exact entered.bookkeeping rfl rfl

theorem handleMode_handled (data : Word) : HandledAs N s (handleMode data s.tables s.dyn) := by
  have holds : HandledAs N s (.taken s.tables (enterHold s.dyn)) := .ofTurns (.single (.link (.enterHold _)))
  unfold handleMode
  split
  case h_1 => exact .ofRefusal _ _ _
  case h_2 m _ =>
    unfold requestMode
    split
    case h_1 => exact .ofTurns .refl
    case h_2 config _ => exact ⟨enterRun_effects config, congrArg Desk.hand (offerRun_desk _)⟩
    case h_3 => exact .ofRefusal _ _ _
    case h_4 run _ =>
      split
      · exact .ofRefusal _ _ _
      case isFalse out =>
        refine ⟨enterConfig_effects run (by simpa using out), ?_⟩
        show (uncredit s.dyn).hand = _
        simp
    case h_5 => exact .ofTurns .refl
    case h_6 => exact holds
    case h_7 => exact .ofRefusal _ _ _
    case h_8 hold _ => exact ⟨enterExiting_effects hold, rfl⟩
    case h_9 => exact .ofTurns .refl
    case h_10 => exact .ofRefusal _ _ _
    case h_11 => exact .ofTurns .refl
    case h_12 => exact holds
    case h_13 => exact .ofRefusal _ _ _

/-! ### Configuration words -/

theorem handleLastDam_handled (data : Word) : HandledAs N s (handleLastDam data s.tables s.dyn) := by
  unfold handleLastDam
  dsimp only
  split
  case isTrue inside =>
    split
    · exact .ofTurns .refl
    · split
      · exact .ofRefusal _ _ _
      · split
        · exact .ofRefusal _ _ _
        · have changed := lastDamChanged_turns (N := N)
            { s.tables with lastDam := ⟨(data.extractLsb' 0 3).toNat, inside⟩ } s.dyn
          refine ⟨.head (.tables (.lastDam ⟨_, inside⟩)) (Turns.effects (s := { s with tables := _ }) changed), ?_⟩
          exact (still_fields changed.still).2.2.2.2.2.2.2.2.2.1
  case isFalse => exact .ofRefusal _ _ _

theorem handleDescriptor_handled (q : PageId) (data : Word) :
    HandledAs N s (handleDescriptor q data s.tables s.dyn) := by
  unfold handleDescriptor
  split
  case h_1 => exact .ofRefusal _ _ _
  case h_2 passes =>
    refine .ofTables (.descriptor fun fixed => ?_)
    unfold descriptorCheck at passes
    split at passes
    · cases passes
    case isFalse field => simpa [fixed] using field

theorem handleGateConfig_handled (g : GateId) (i : Fin 7) (data : Word) :
    HandledAs N s (handleGateConfig g i data s.tables s.dyn) := by
  unfold handleGateConfig
  split
  · exact .ofRefusal _ _ _
  case isFalse out => exact .ofTables (.gate _ (by simpa using out))

theorem handleServiceControl_handled (g : GateId) (data : Word) (distinct : N → s.dyn.queue.Nodup) :
    HandledAs N s (handleServiceControl g data s.tables s.dyn) := by
  unfold handleServiceControl
  dsimp only
  split
  · split
    · exact .ofTurns .refl
    case isFalse out =>
      split
      · split
        · split
          case h_1 dam => exact .ofTurns (enterService_turns s.tables (by simpa using out) dam distinct)
          case h_2 => exact .ofRefusal _ _ _
        · exact .ofRefusal _ _ _
      · exact .ofRefusal _ _ _
  · split
    · split
      case isTrue inService => exact .ofTurns (exitService_turns s.tables inService)
      case isFalse => exact .ofTurns .refl
    · exact .ofRefusal _ _ _

theorem handleHoldControl_handled (d : DamId) (data : Word) (distinct : N → s.dyn.queue.Nodup) :
    HandledAs N s (handleHoldControl d data s.tables s.dyn) := by
  unfold handleHoldControl
  split
  · exact .ofTurns (.single (.link (.hold d _)))
  · split
    · exact .ofTurns (Turns.scheduled s.tables (.single (.clearHold d)) s.dyn false distinct)
    · exact .ofRefusal _ _ _

theorem handleRefreshKeep_handled (d : DamId) (data : Word) :
    HandledAs N s (handleRefreshKeep d data s.tables s.dyn) := by
  unfold handleRefreshKeep
  split
  · exact .ofTables (.dams _)
  · split
    · exact .ofTables (.dams _)
    · exact .ofRefusal _ _ _

theorem handleLink_handled (l : LinkId) (i : Fin 2) (data : Word) :
    HandledAs N s (handleLink l i data s.tables s.dyn) := by
  unfold handleLink
  split
  · exact .ofRefusal _ _ _
  · split
    case isTrue valid => exact .ofTables (.link l valid)
    case isFalse => exact .ofRefusal _ _ _

theorem handleMatrix_handled (i : Fin 8) (data : Word) (distinct : N → s.dyn.queue.Nodup) :
    HandledAs N s (handleMatrix i data s.tables s.dyn) := by
  have scanned := scan_turns { s.tables with matrix := Table.put s.tables.matrix i data } s.dyn distinct
  exact ⟨.head (.tables (.matrix _)) (Turns.effects (s := { s with tables := _ }) scanned),
    congrArg Still.hand scanned.still⟩

/-! ### Reach records and sensors (Section 2) -/

theorem reachChanged_handled {r : ReachId} {cfg : ReachConfig} {new : Reach}
    (range : (s.dyn.reaches.get r).InRange → new.InRange) (always : Bool) :
    HandledAs N s (.taken { s.tables with reaches := Table.put s.tables.reaches r cfg }
      (applyReach { s.tables with reaches := Table.put s.tables.reaches r cfg } r new always s.dyn)) := by
  have applied := applyReach_linked { s.tables with reaches := Table.put s.tables.reaches r cfg } r new always s.dyn
  have config : ({ s.tables with reaches := Table.put s.tables.reaches r cfg }.reaches.get r) = cfg := by simp
  rw [config] at applied
  refine ⟨.head (.reach (x := new.withLimits cfg) (fun h => Reach.withLimits_inRange (range h) _) fun _ =>
    Reach.withLimits_follows _ _) (Linked.effects (s := { s with tables := _, dyn := putReach r _ s.dyn }) applied), ?_⟩
  exact (congrArg Still.hand applied.frame.still).trans (congrArg Still.hand (putReach_still r _ s.dyn))

theorem Reach.remarked_inRange {x : Reach} (h : x.InRange) (c : ReachConfig) : (x.remarked c).InRange := by
  unfold Reach.remarked
  split <;> exact h

theorem putReach_self (r : ReachId) (p : Dyn) : putReach r (p.reaches.get r) p = p := by
  rw [putReach, put_get_eq]

/-- The sample timeout of a record does not enter the effective limits. -/
theorem Reach.follows_timeout {x : Reach} {c : ReachConfig} (h : x.Follows c) {i : Fin 11} (last : 9 < i.val)
    (w : Word) : x.Follows (c.withWord i w) := by
  obtain rfl : i = 10 := by omega
  exact h

theorem handleReachWord_handled (r : ReachId) (i : Fin 11) (data : Word) :
    HandledAs N s (handleReachWord r i data s.tables s.dyn) := by
  unfold handleReachWord
  split
  · exact .ofRefusal _ _ _
  · dsimp only
    split
    · exact reachChanged_handled id true
    · split
      · exact reachChanged_handled (fun h => Reach.remarked_inRange h _) false
      · split
        · refine reachChanged_handled ?_ false
          exact fun h => h
        case isFalse lim mark split =>
          have last : 9 < i.val := by omega
          have kept : Effects N s { s with
              tables := { s.tables with
                reaches := Table.put s.tables.reaches r ((s.tables.reaches.get r).withWord i data) }
              dyn := putReach r (s.dyn.reaches.get r) s.dyn } :=
            .single (.reach id fun h => Reach.follows_timeout h last data)
          rw [putReach_self] at kept
          exact ⟨kept, rfl⟩

theorem writtenSample_value (v timeout : Nat) : (writtenSample v timeout).value = v := by
  unfold writtenSample
  split <;> rfl

theorem handleSensor_handled (r : ReachId) (k : Sensor) (data : Word) :
    HandledAs N s (handleSensor r k data s.tables s.dyn) := by
  unfold handleSensor
  split
  case h_1 => exact .ofRefusal _ _ _
  case h_2 decoded =>
    exact .ofTurns (deriveWith_turns s.tables fun _ => (writtenSample_value _ _).trans_le (decodeValue_le decoded))

/-! ### Gates (Sections 1 and 3) -/

theorem orderRefused_handled (g : GateId) (code : Code) (detail : Nat) :
    HandledAs N s (orderRefused g code detail s.dyn) := by
  have tuned : (s.dyn.gates.get g).Tuned { s.dyn.gates.get g with lastRefusal := some code } :=
    ⟨rfl, rfl, rfl, rfl, rfl, .inl rfl, .inl rfl⟩
  exact .head (.tune tuned) (.single (.mark g))

theorem handleFeedback_handled (g : GateId) (data : Word) (distinct : N → s.dyn.queue.Nodup) :
    HandledAs N s (handleFeedback g data s.tables s.dyn) := by
  unfold handleFeedback
  split
  case h_1 => exact .ofRefusal _ _ _
  case h_2 v decoded =>
    have tuned : (s.dyn.gates.get g).Tuned
        ((s.dyn.gates.get g).withFeedback v (s.tables.gates.get g).tolerance.toNat) := by
      refine ⟨rfl, rfl, rfl, rfl, rfl, ?_, .inr (decodeValue_le decoded)⟩
      unfold Gate.withFeedback
      dsimp only
      split
      · exact .inr rfl
      · exact .inl rfl
    have put : Turns N s.tables s.dyn (putGate g _ s.dyn) := .single (.tune tuned)
    exact .ofTurns (put.trans (joinAndScan_turns s.tables _ false _ fun n => put.nodup (distinct n)))

theorem handleOrder_handled (g : GateId) (level : Nat) (data : Word) (distinct : N → s.dyn.queue.Nodup) :
    HandledAs N s (handleOrder g level data s.tables s.dyn) := by
  unfold handleOrder
  split
  · exact .ofRefusal _ _ _
  · split
    case h_1 => exact .ofRefusal _ _ _
    case h_2 v decoded =>
      dsimp only
      split
      · exact orderRefused_handled g _ _
      case isFalse state =>
        split
        · exact orderRefused_handled g _ _
        · split
          · exact .ofTurns .refl
          case isFalse change =>
            split
            case h_1 => exact orderRefused_handled g _ _
            case h_2 free =>
              split
              case h_1 => exact orderRefused_handled g _ _
              case h_2 q passes =>
                simp only [Bool.or_eq_true, beq_iff_eq, not_or] at state
                have fits : Item.Fits s.tables s.dyn (g, v) :=
                  ⟨state.1, state.2, decodeValue_le decoded, fun _ moves => moveBlocked_none _ free moves⟩
                have single : Turns N s.tables s.dyn (commitItems s.tables [(g, v)] q) :=
                  admission_turns s.tables (admissible_of_fits (by simp) (by simpa using fits))
                    (by rwa [batchChanges_single s.tables change])
                rw [commitItems_single s.tables (by rwa [admission_target passes])] at single
                exact .ofTurns (Turns.scheduled s.tables single s.dyn _ distinct)

theorem handleStatusWord_handled (n : StatusId) (data : Word) (distinct : N → s.dyn.queue.Nodup) :
    HandledAs N s (handleStatusWord n data s.tables s.dyn) := by
  have written : Effects N s _ := .single (.statusWord s n data)
  have scheduled := schedule_turns s.tables { s.dyn with statusWords := Table.put s.dyn.statusWords n data } false
    (clearInterlocks s.tables (fun k => (s.tables.conditions.get k).source == n)
      { s.dyn with statusWords := Table.put s.dyn.statusWords n data }) fun m => written.nodup (distinct m)
  exact ⟨written.turns scheduled, (congrArg Still.hand scheduled.still).trans
    (clearInterlocks_keeps Dyn.hand (fun _ _ _ => putGate_hand _ _ _) _ _ _)⟩

theorem handleCondition_handled (k : CondId) (i : Fin 2) (data : Word) (distinct : N → s.dyn.queue.Nodup) :
    HandledAs N s (handleCondition k i data s.tables s.dyn) := by
  have written : Effects N s _ := .single (.condition s k ((s.tables.conditions.get k).withWord i data))
  have scheduled := schedule_turns
    { s.tables with conditions := Table.put s.tables.conditions k ((s.tables.conditions.get k).withWord i data) } s.dyn
    false (clearInterlocks
      { s.tables with conditions := Table.put s.tables.conditions k ((s.tables.conditions.get k).withWord i data) }
      (fun j => j == k) s.dyn) fun m => written.nodup (distinct m)
  exact ⟨written.trans (Turns.effects (s := { s with tables := _, dyn := _ }) scheduled),
    (congrArg Still.hand scheduled.still).trans
      (clearInterlocks_keeps Dyn.hand (fun _ _ _ => putGate_hand _ _ _) _ _ _)⟩

/-! ### Portals (Section 5) -/

theorem request_handled {q : PortalId} {p : Dyn} {j : PortalJob} (free : (s.dyn.portals.get q).busy = false)
    (portal : j.portal = q)
    (turns : Turns N s.tables
      { s.dyn with portals := Table.put s.dyn.portals q { s.dyn.portals.get q with busy := true } } p) :
    HandledAs N s (.taken s.tables (queuePortalJob j p)) :=
  ⟨.single (.request free portal turns), congrArg Still.hand turns.still⟩

theorem handlePortalHeader_handled (q : PortalId) (m : MasterId) (data : Word) (distinct : N → s.dyn.queue.Nodup) :
    HandledAs N s (handlePortalHeader q m data s.tables s.dyn) := by
  unfold handlePortalHeader
  dsimp only
  split
  · exact .ofRefusal _ _ _
  case isFalse busy =>
    have free : (s.dyn.portals.get q).busy = false := by simpa using busy
    have refuses (code : Code) (index : Nat) (p : Dyn) (same : p =
        { s.dyn with portals := Table.put s.dyn.portals q { s.dyn.portals.get q with busy := true } }) :
        HandledAs N s (.taken s.tables (refuseRequest s.tables q m data code index p)) :=
      same ▸ request_handled free rfl (raise_linked s.tables _ _).turns
    unfold processRequest
    dsimp only
    split
    · exact refuses _ _ _ rfl
    · split
      · exact refuses _ _ _ rfl
      case h_2 items checked =>
        split
        · exact refuses _ _ _ rfl
        case h_2 passes =>
          obtain ⟨separate, fits⟩ := itemsCheck_ok _ checked List.nodup_nil (by simp)
          exact request_handled free rfl (Turns.scheduled s.tables
            (admission_turns s.tables (admissible_of_fits separate fits) passes) _ _ distinct)

theorem handlePortalItem_handled (q : PortalId) (i : Fin 125) (data : Word) :
    HandledAs N s (handlePortalItem q i data s.tables s.dyn) := by
  unfold handlePortalItem
  dsimp only
  split
  · exact .ofRefusal _ _ _
  · split
    · exact ⟨.single (.desk rfl (.portal q _ rfl)), rfl⟩
    · exact .ofTurns .refl

/-! ### Every handler -/

theorem handler_handled {x : WriteTarget} (own : ∀ m, x = .masterEntry m → m.val ≠ 0) (m : MasterId) (data : Word)
    (distinct : N → s.dyn.queue.Nodup) : HandledAs N s (handlerOf m data x s.tables s.dyn) := by
  cases x with
  | mode => exact handleMode_handled data
  | lastDam => exact handleLastDam_handled data
  | refreshInterval =>
    show HandledAs N s (handleRefreshInterval data s.tables s.dyn)
    unfold handleRefreshInterval
    split
    · exact .ofRefusal _ _ _
    · exact .ofTables (.interval data)
  | keepMask => exact .ofTables (.dams _)
  | logReadIndex =>
    show HandledAs N s (handleLogReadIndex data s.tables s.dyn)
    unfold handleLogReadIndex clearLogLost
    split
    · exact .ofRefusal _ _ _
    · split <;> exact .bookkeeping rfl rfl
  | alarmClear => exact .bookkeeping rfl rfl
  | masterEntry e => exact .ofTables (.master _ (own e rfl))
  | descriptor q => exact handleDescriptor_handled q data
  | serviceControl g => exact handleServiceControl_handled g data distinct
  | gateConfig g i => exact handleGateConfig_handled g i data
  | damDwell d k => exact .ofTables (.dams _)
  | holdControl d => exact handleHoldControl_handled d data distinct
  | refreshKeep d => exact handleRefreshKeep_handled d data
  | reachWord r i => exact handleReachWord_handled r i data
  | matrix i => exact handleMatrix_handled i data distinct
  | portalConfig q i =>
    show HandledAs N s (handlePortalConfig q i data s.tables s.dyn)
    unfold handlePortalConfig
    split
    · exact .ofRefusal _ _ _
    · exact .ofTables (.portals _)
  | condition k i => exact handleCondition_handled k i data distinct
  | link l i => exact handleLink_handled l i data
  | order g => exact handleOrder_handled g _ data distinct
  | feedback g => exact handleFeedback_handled g data distinct
  | sensor r k => exact handleSensor_handled r k data
  | statusWord n => exact handleStatusWord_handled n data distinct
  | portalHeader q => exact handlePortalHeader_handled q m data distinct
  | portalItem q i => exact handlePortalItem_handled q i data
  | plain => exact .ofTurns .refl
  | unreached => exact .ofTurns .refl

end Handlers

end Sys2Proof.Machine
end

section
/-! Every step is a chain of effects. -/

namespace Sys2Proof.Machine

open Relation (ReflTransGen)

/-! ### Bus commands (R121, R128) -/

/-- Not the entry of master 0, which is the part's own. -/
def WriteTarget.ownless : WriteTarget → Bool
  | .masterEntry m => m.val != 0
  | _ => true

theorem ownless_dite {c : Prop} [Decidable c] {x : c → WriteTarget} {y : ¬c → WriteTarget}
    (hx : ∀ h, (x h).ownless = true) (hy : ∀ h, (y h).ownless = true) :
    (if h : c then x h else y h).ownless = true := by
  split
  · exact hx _
  · exact hy _

theorem ownless_ite {c : Prop} [Decidable c] {x y : WriteTarget} (hx : x.ownless = true) (hy : y.ownless = true) :
    (if c then x else y).ownless = true := ownless_dite (fun _ => hx) fun _ => hy

/-- No address is handled as the entry of master 0: its word is part-owned. -/
theorem targetOf_ownless (q : PageId) (w : WordIdx) : (targetOf q w).ownless = true := by
  unfold targetOf
  repeat' first
    | rfl
    | apply ownless_ite
    | refine ownless_dite (fun _ => ?_) fun _ => ?_
  simp only [WriteTarget.ownless, bne_iff_ne]
  omega

theorem WriteTarget.ownless_of_hasRow {x : WriteTarget} (h : x.hasRow = true) : x.ownless = true := by
  cases x with
  | masterEntry m => exact h
  | _ => rfl

section Bus

variable {N : Prop} {s : State}

theorem presented_effects : Effects N s { s with dyn := presented s.dyn } := .single (.bookkeeping rfl rfl)

theorem refuseTransaction_effects (t : Transaction) (code : Code) (detail : Nat) (noneInHand : s.dyn.hand = none) :
    Effects N s { s with dyn := refuseTransaction t code detail s.dyn } := by
  have answered : Effects N s { s with dyn := answerWith t.master (.refused code) s.dyn } :=
    .single (.desk rfl (.answered (.inl noneInHand)))
  exact answered.turns (.single (.link (.record _ _)))

theorem refuseAtCheck_effects (t : Transaction) (code : Code) (noneInHand : s.dyn.hand = none) :
    Effects N s { s with dyn := refuseAtCheck t code s.dyn } := by
  unfold refuseAtCheck
  split
  · exact .single (.desk rfl (.answered (.inl noneInHand)))
  · exact refuseTransaction_effects t code 0 noneInHand

theorem takeInHand_effects (t : Transaction) (noneInHand : s.dyn.hand = none) :
    Effects N s { s with dyn := takeInHand t s.dyn } := .single (.desk rfl (.taken t noneInHand))

theorem offerOrderRefused_linked (c : Tables) (g : Option GateId) (p : Dyn) :
    Linked c p (offerOrderRefused c g p) := by
  unfold offerOrderRefused
  split
  · exact offerLinks_linked c _ _ p
  · exact .refl

theorem afterHandler_effects (t : Transaction) {h : Handled} (handled : HandledAs N s h) (noneInHand : s.dyn.hand = none) :
    Effects N s { s with tables := (afterHandler t s.tables h).1, dyn := (afterHandler t s.tables h).2 } := by
  cases h with
  | refused code detail g p =>
    have turns : Turns N s.tables s.dyn p := handled
    have refused := refuseTransaction_effects (N := N) (s := { s with dyn := p }) t code detail
      ((congrArg Still.hand turns.still).trans noneInHand)
    exact Effects.turns (turns.effects.trans refused) (offerOrderRefused_linked _ _ _).turns
  | taken c p =>
    obtain ⟨effects, hand⟩ : Effects N s { s with tables := c, dyn := p } ∧ p.hand = s.dyn.hand := handled
    exact effects.trans (takeInHand_effects (s := { s with tables := c, dyn := p }) t (hand.trans noneInHand))

theorem writeTaken_effects (t : Transaction) {x : WriteTarget} (own : x.ownless = true)
    (m : MasterId) (data : Word) (noneInHand : s.dyn.hand = none) (distinct : N → s.dyn.queue.Nodup) :
    Effects N s { s with
      tables := (writeTaken t (handlerOf m data x) s.tables s.dyn).1
      dyn := (writeTaken t (handlerOf m data x) s.tables s.dyn).2 } := by
  unfold writeTaken
  split
  · exact refuseAtCheck_effects t _ noneInHand
  · exact afterHandler_effects t (handler_handled (fun _ same => by subst same; simpa [WriteTarget.ownless] using own) m data distinct) noneInHand

theorem presentWrite_effects (t : Transaction) {x : WriteTarget} (own : x.ownless = true)
    (m : MasterId) (data : Word) (distinct : N → s.dyn.queue.Nodup) :
    Effects N s (presentWrite t (handlerOf m data x) s) := by
  unfold presentWrite
  split
  · exact .refl
  case isFalse hand =>
    have taken := writeTaken_effects (N := N) (s := { s with dyn := presented s.dyn }) t own m data (by simpa using hand)
      distinct
    exact Effects.arbitrated (presented_effects.trans taken) _ distinct

theorem presentRead_effects (t : Transaction) (distinct : N → s.dyn.queue.Nodup) : Effects N s (presentRead t s) := by
  unfold presentRead
  split
  · exact .refl
  case isFalse hand =>
    have noneInHand : (presented s.dyn).hand = none := by simpa using hand
    have taken : Effects N { s with dyn := presented s.dyn }
        { s with dyn := readTaken t s.tables (presented s.dyn) } := by
      unfold readTaken
      split
      · exact refuseAtCheck_effects (s := { s with dyn := presented s.dyn }) t _ noneInHand
      · exact takeInHand_effects (s := { s with dyn := presented s.dyn }) t noneInHand
    exact Effects.arbitrated (c := s.tables) (presented_effects.trans taken) _ distinct

end Bus

/-! ### Expiries and the TICK (R8, R9, R17, R21, R41, R73, R80, R113) -/

/-- A change of the state that is a chain of effects, while the queue holds no gate twice. -/
def IsEffects (N : Prop) (f : State → State) : Prop := ∀ s : State, (N → s.dyn.queue.Nodup) → Effects N s (f s)

section Time

variable {N : Prop} {s : State}

theorem inEvent_effects {f : Tables → Dyn → Dyn} (distinct : N → s.dyn.queue.Nodup)
    (body : Effects N { s with dyn := s.dyn.advance } { s with dyn := f s.tables s.dyn.advance }) :
    Effects N s (inEvent f s) := by
  have advanced : Effects N s { s with dyn := s.dyn.advance } := .single (.bookkeeping rfl rfl)
  exact Effects.arbitrated (c := s.tables) (advanced.trans body) _ distinct

theorem inEventIf_effects {due : Tables → Dyn → Bool} {f : Tables → Dyn → Dyn} (distinct : N → s.dyn.queue.Nodup)
    (body : due s.tables s.dyn = true →
      Effects N { s with dyn := s.dyn.advance } { s with dyn := f s.tables s.dyn.advance }) :
    Effects N s (inEventIf due f s) := by
  unfold inEventIf
  split
  case isTrue isDue => exact inEvent_effects distinct (body isDue)
  case isFalse => exact .refl

/-- The same for a body that is turns. -/
theorem inEventIf_turns {due : Tables → Dyn → Bool} {f : Tables → Dyn → Dyn} (distinct : N → s.dyn.queue.Nodup)
    (body : due s.tables s.dyn = true → Turns N s.tables s.dyn.advance (f s.tables s.dyn.advance)) :
    Effects N s (inEventIf due f s) :=
  inEventIf_effects distinct fun isDue => Turns.effects (s := { s with dyn := s.dyn.advance }) (body isDue)

theorem Timer.running_of_due {t : Timer} (h : t.due = true) : t ≠ .stopped := by
  rintro rfl
  cases h

theorem refreshExpires_effects : Effects N s { s with dyn := refreshExpires s.tables s.dyn } := by
  have restarted : Effects N s { s with
      dyn := { s.dyn with refreshTimer := .running s.tables.refreshInterval.toNat } } := .single (.bookkeeping rfl rfl)
  unfold refreshExpires
  dsimp only
  split
  case h_1 =>
    unfold runExpiry
    split
    · exact restarted.turns (raise_linked _ _ _).turns
    case isFalse owed =>
      exact Effects.offered (.single (.desk rfl (.owed (Int.not_le.mp owed))))
  case h_2 =>
    unfold holdExpiry
    split
    · exact restarted
    · exact restarted.bookkeeping rfl rfl
  case h_3 => exact restarted
  case h_4 => exact restarted

theorem Expiry.isEffects {f : State → State} (h : Expiry f) : IsEffects N f := by
  intro s distinct
  cases h with
  | lag g => exact inEventIf_turns distinct fun isDue => lagExpires_turns _ (.inr (Timer.running_of_due isDue))
  | recovery g =>
    exact inEventIf_turns distinct fun isDue =>
      Turns.scheduled _ (.single (.recover (p := s.dyn.advance) (Timer.running_of_due isDue))) _ false distinct
  | dwell d => exact inEventIf_turns distinct fun _ => Turns.scheduled _ (.single (.dwell d)) _ false distinct
  | sample r k => exact inEventIf_turns distinct fun _ => sampleExpires_turns _ r k _
  | refresh =>
    exact inEventIf_effects distinct fun _ => refreshExpires_effects (s := { s with dyn := s.dyn.advance })
  | history d dir => exact inEventIf_turns distinct fun _ => .single (.forget d dir)
  | grantTick g => exact inEventIf_turns distinct fun _ => .single (.age g)
  | join => exact inEventIf_turns distinct fun _ => joinAndScan_turns _ _ false _ distinct

theorem IsEffects.comp {f g : State → State} (hf : IsEffects N f) (hg : IsEffects N g) :
    IsEffects N fun s => g (f s) := fun s distinct =>
  (hf s distinct).trans (hg _ fun n => (hf s distinct).nodup (distinct n))

theorem takeDue_isEffects : IsEffects N takeDue :=
  takeDue_closed (fun _ _ => .refl) (fun _ _ => IsEffects.comp) fun _ => Expiry.isEffects

theorem tickArrival_effects (distinct : N → s.dyn.queue.Nodup) :
    Effects N s { s with dyn := tickArrival s.tables s.dyn } := by
  have counted : Effects N s { s with dyn := countArrival s.dyn } := .single (.arrival s)
  unfold tickArrival
  dsimp only
  split
  · exact counted
  · exact counted.turns (scan_turns s.tables (countArrival s.dyn) distinct)

theorem tickCounted_isEffects : IsEffects N (inEvent tickArrival) := fun s distinct =>
  inEvent_effects distinct (tickArrival_effects (s := { s with dyn := s.dyn.advance }) distinct)

theorem tickEvent_isEffects : IsEffects N tickEvent :=
  IsEffects.comp (f := takeDue) (g := inEvent tickArrival) takeDue_isEffects tickCounted_isEffects

/-! ### Every command, every step -/

theorem CommandKind.isEffects {i : Instr} {f : State → State} (kind : CommandKind i f) : IsEffects N f := by
  intro s distinct
  cases kind with
  | powerOn => exact .single (.powerOn s)
  | resetLine => exact .single (.resetLine s)
  | tick => exact tickEvent_isEffects s distinct
  | expiry h => exact h.isEffects s distinct
  | stepInterval g => exact inEventIf_turns distinct fun _ => joinAndScan_turns _ _ false _ distinct
  | write row => exact presentWrite_effects _ (WriteTarget.ownless_of_hasRow row) _ _ distinct
  | writeAt => exact presentWrite_effects _ (targetOf_ownless _ _) _ _ distinct
  | readAt => exact presentRead_effects _ distinct
  | answer kind ans => exact accessDone_effects kind ans distinct

/-- A step is a chain of effects. -/
theorem step_effects {t : State} (next : step s = .next t) (distinct : N → s.dyn.queue.Nodup) : Effects N s t := by
  obtain rfl | ⟨i, rest, -, next⟩ := step_cases next
  · exact .refl
  · obtain ⟨f, kind, answered⟩ := exec_kind i
    obtain rfl := Host.Outcome.next.inj ((answered _).symm.trans next)
    exact .head (.pending s rest) (kind.isEffects { s with pending := rest } distinct)

/-- What every effect keeps, every step keeps; nothing need be known of the queue. -/
theorem step_keeps_of_effect {P : State → Prop} (each : ∀ s t, Effect False s t → P s → P t) {t : State}
    (next : step s = .next t) (start : P s) : P t :=
  chain_keeps each (step_effects next False.elim) start

/-- What every effect keeps of a state whose queue is sound, every step keeps. -/
theorem step_keeps_of_soundEffect {P : State → Prop} (queue : ∀ s, P s → s.dyn.queue.Nodup)
    (each : ∀ s t, Effect True s t → P s → P t) {t : State} (next : step s = .next t) (start : P s) : P t :=
  chain_keeps each (step_effects next fun _ => queue s start) start

end Time

end Sys2Proof.Machine
end

section
/-! The records, the portals, the bus and the debt (R31, R93, R94, R115, R116, R121, R122, R124, R145). -/

namespace Sys2Proof.Machine

open Relation (ReflTransGen)

/-! ### Portals, bus and debt: what every effect does -/

/-- A job that counts toward nothing any more (R111, R115). -/
def Job.uncredited : Job → Job
  | .refresh d o _ g rest => .refresh d o false g rest
  | j => j

def Running.uncredited (r : Running) : Running := ⟨r.job.uncredited, r.access⟩

theorem uncredit_running (p : Dyn) : (uncredit p).running = p.running.map Running.uncredited := by
  unfold uncredit
  cases running : p.running with
  | none => exact running
  | some r =>
    obtain ⟨j, a⟩ := r
    cases j with
    | refresh => rfl
    | _ => exact running

/-- The hand stands; the job in progress stands or counts no more; the debt stands, or is 0. -/
structure WorkKept (p q : Dyn) : Prop where
  hand : q.hand = p.hand
  running : q.running = p.running ∨ q.running = p.running.map Running.uncredited
  debt : q.debt = 0 ∨ (q.debt = p.debt ∧ (countsInRun q = true → countsInRun p = true))

/-- So do the portals and the queue of portal jobs. -/
structure DeskKept (p q : Dyn) : Prop extends WorkKept p q where
  portals : q.portals = p.portals
  portalJobs : q.portalJobs = p.portalJobs

theorem countsInRun_congr {p q : Dyn} (mode : q.mode = p.mode) (running : q.running = p.running) :
    countsInRun q = countsInRun p := by
  unfold countsInRun
  rw [mode, running]

theorem countsInRun_of_mode {p : Dyn} (h : countsInRun p = true) : p.mode = .run := by
  unfold countsInRun at h
  split at h
  · simp_all
  · cases h

theorem Turns.deskKept {N : Prop} {c : Tables} {p q : Dyn} (h : Turns N c p q) : DeskKept p q := by
  obtain ⟨-, portals, debt, -, -, -, -, -, portalJobs, hand, -⟩ := still_fields h.still
  refine ⟨⟨hand, ?_, .inr ⟨debt, fun counts => ?_⟩⟩, portals, portalJobs⟩
  · rw [← uncredit_running]
    exact h.holdEntered.elim (fun h => .inl h.2) And.right
  · obtain ⟨mode, running⟩ | ⟨mode, -⟩ := h.holdEntered
    · exact (countsInRun_congr mode running) ▸ counts
    · rw [countsInRun_of_mode counts] at mode
      cases mode

/-- The same where a view of the state stands, but for gates, dams and reaches. -/
theorem DeskKept.of_desk {p q : Dyn} (desk : q.desk = p.desk) (mode : q.mode = p.mode) : DeskKept p q where
  portals := congrArg Desk.portals desk
  portalJobs := congrArg Desk.portalJobs desk
  hand := congrArg Desk.hand desk
  running := .inl (congrArg Desk.running desk)
  debt := .inr ⟨congrArg Desk.debt desk, fun h => (countsInRun_congr mode (congrArg Desk.running desk)) ▸ h⟩

/-- The part of a state that no gate record shows: desk and mode. -/
def Dyn.deskMode (p : Dyn) : Desk × Mode := (p.desk, p.mode)

theorem putGate_deskMode (g : GateId) (x : Gate) (p : Dyn) : (putGate g x p).deskMode = p.deskMode := by
  simp [Dyn.deskMode, Dyn.desk]

theorem DeskKept.of_deskMode {p q : Dyn} (h : q.deskMode = p.deskMode) : DeskKept p q :=
  .of_desk (congrArg Prod.fst h) (congrArg Prod.snd h)

theorem DeskKept.of_debt {p q : Dyn} (h : q.desk = { p.desk with debt := 0 }) : DeskKept p q where
  portals := congrArg Desk.portals h
  portalJobs := congrArg Desk.portalJobs h
  hand := congrArg Desk.hand h
  running := .inl (congrArg Desk.running h)
  debt := .inl (congrArg Desk.debt h)

theorem putGate_desk (g : GateId) (x : Gate) (p : Dyn) : (putGate g x p).desk = p.desk :=
  congrArg Prod.fst (putGate_deskMode g x p)

theorem resumed_desk (p : Dyn) : (resumed p).desk = { p.desk with debt := 0 } := by
  rw [resumed, changeCauses_keeps Dyn.desk putGate_desk]
  rfl

theorem resumed_deskKept (p : Dyn) : DeskKept p (resumed p) := .of_debt (resumed_desk p)

/-- What an effect does to portals, bus, port and debt. -/
inductive DeskEffect (s t : State) : Prop
  | kept : DeskKept s.dyn t.dyn → DeskEffect s t
  | desk {d : Desk} : t.dyn.mode = s.dyn.mode → DeskStep s.dyn d → t.dyn.desk = d → DeskEffect s t
  | request {q : PortalId} {j : PortalJob} : (s.dyn.portals.get q).busy = false → j.portal = q →
      t.dyn.portals = Table.put s.dyn.portals q { s.dyn.portals.get q with busy := true } →
      t.dyn.portalJobs = s.dyn.portalJobs ++ [j] → WorkKept s.dyn t.dyn → DeskEffect s t
  | initial : t.IsInitial → DeskEffect s t

theorem Effect.deskEffect {N : Prop} {s t : State} (h : Effect N s t) : DeskEffect s t := by
  cases h with
  | store => exact .kept (.of_deskMode rfl)
  | pending => exact .kept (.of_deskMode rfl)
  | turn h => exact .kept (Turns.deskKept (.single h))
  | desk plant step => exact .desk (congrArg Plant.mode plant) step rfl
  | request free portal turns =>
    have kept := turns.deskKept
    exact .request free portal kept.portals (congrArg (· ++ _) kept.portalJobs) ⟨kept.hand, kept.running, kept.debt⟩
  | toRun _ => exact .kept (.of_debt rfl)
  | toConfig _ _ =>
    refine .kept ⟨⟨uncredit_hand _, .inr (uncredit_running _), .inr ⟨uncredit_debt _, fun counts => ?_⟩⟩,
      uncredit_portals _, uncredit_portalJobs _⟩
    cases countsInRun_of_mode counts
  | toExiting _ =>
    refine .kept ⟨⟨rfl, .inl rfl, .inr ⟨rfl, fun counts => ?_⟩⟩, rfl, rfl⟩
    cases countsInRun_of_mode counts
  | resume _ =>
    refine .kept ?_
    dsimp only
    exact resumed_deskKept s.dyn
  | arrival => exact .kept (.of_deskMode rfl)
  | statusWord n w => exact .kept (.of_deskMode (clearInterlocks_keeps Dyn.deskMode putGate_deskMode _ _ _))
  | condition k x => exact .kept (.of_deskMode (clearInterlocks_keeps Dyn.deskMode putGate_deskMode _ _ _))
  | reach _ _ => exact .kept (.of_deskMode rfl)
  | tables _ => exact .kept (.of_deskMode rfl)
  | powerOn => exact .initial ⟨_, _, _, _, _, rfl⟩
  | resetLine => exact .initial ⟨_, _, _, _, _, rfl⟩

/-! ### Portals (R93, R94) -/

/-- The portal whose job this is, if it is a portal job. -/
def Job.portals : Job → List PortalId
  | .portal j _ => [j.portal]
  | _ => []

theorem portalsAtWork_free {p : Dyn} (free : p.running = none) :
    portalsAtWork p = p.portalJobs.map (·.portal) := by
  simp [portalsAtWork, free]

theorem portalsAtWork_busy {p : Dyn} {j : Job} {a : Access} (running : p.running = some ⟨j, a⟩) :
    portalsAtWork p = p.portalJobs.map (·.portal) ++ j.portals := by
  unfold portalsAtWork
  rw [running]
  cases j <;> rfl

theorem Job.uncredited_portals (j : Job) : j.uncredited.portals = j.portals := by
  cases j <;> rfl

theorem Job.uncredited_forwarded {j : Job} {t : Transaction} (h : j.uncredited = .forwarded t) : j = .forwarded t := by
  cases j with
  | refresh => cases h
  | _ => exact h

theorem portalsAtWork_congr {p q : Dyn} (jobs : q.portalJobs = p.portalJobs)
    (running : q.running = p.running ∨ q.running = p.running.map Running.uncredited) :
    portalsAtWork q = portalsAtWork p := by
  cases before : p.running with
  | none => rw [portalsAtWork_free before, portalsAtWork_free (by simpa [before] using running), jobs]
  | some r =>
    obtain ⟨j, a⟩ := r
    rw [before] at running
    obtain same | uncredited := running
    · rw [portalsAtWork_busy before, portalsAtWork_busy same, jobs]
    · rw [portalsAtWork_busy before, portalsAtWork_busy (j := j.uncredited) (a := a) uncredited, jobs,
        Job.uncredited_portals]

theorem PortalsSound.of_desk {s t : State} (h : PortalsSound s) (portals : t.dyn.portals = s.dyn.portals)
    (work : portalsAtWork t.dyn = portalsAtWork s.dyn) : PortalsSound t := by
  unfold PortalsSound
  rw [portals, work]
  exact h

/-- The next access of a job is of a job of the same portal. -/
theorem Job.portals_next {j k : Job} {x : Access} {ans : StoreAnswer} (h : (j.answered x ans).next = some k) :
    k.portals = j.portals := by
  cases j <;> cases ans <;> simp only [Job.answered, Job.next] at h <;> (repeat' split at h) <;> cases h <;> rfl

theorem Job.not_forwarded_next {j k : Job} {x : Access} {ans : StoreAnswer} (h : (j.answered x ans).next = some k)
    (t : Transaction) : k ≠ .forwarded t := by
  cases j <;> cases ans <;> simp only [Job.answered, Job.next] at h <;> (repeat' split at h) <;> cases h <;> simp

theorem Job.portals_of_isPortal {j : Job} (h : j.isPortal = false) : j.portals = [] := by
  cases j with
  | portal => cases h
  | _ => rfl

theorem Begins.portals {p : Dyn} {j : Job} (h : Begins p j) : j.portals = [] := by
  cases j with
  | portal => cases h
  | _ => rfl

theorem not_portal_of_countsInRun {p : Dyn} (h : countsInRun p = true) :
    ∃ j a, p.running = some ⟨j, a⟩ ∧ j.portals = [] := by
  unfold countsInRun at h
  split at h
  · next running => exact ⟨_, _, running, rfl⟩
  · cases h

/-- A request: its portal, which was free, is busy and has the one job that joins the queue. -/
theorem PortalsSound.requested {s t : State} {q : PortalId} (sound : PortalsSound s)
    (free : (s.dyn.portals.get q).busy = false)
    (portals : t.dyn.portals = Table.put s.dyn.portals q { s.dyn.portals.get q with busy := true })
    (work : (portalsAtWork t.dyn).Perm (q :: portalsAtWork s.dyn)) : PortalsSound t := by
  obtain ⟨distinct, busy⟩ := sound
  have absent : q ∉ portalsAtWork s.dyn := fun h => by
    rw [(busy q).mpr h] at free
    cases free
  refine ⟨work.nodup_iff.mpr (List.nodup_cons.mpr ⟨absent, distinct⟩), fun r => ?_⟩
  rw [portals, Table.put_get, work.mem_iff, List.mem_cons]
  split
  · next same => simp [same]
  · next other => simp [busy, Ne.symm other]

/-- A completed portal job: its portal is free. -/
theorem PortalsSound.completed {s t : State} {q : PortalId} (sound : PortalsSound s)
    (portals : t.dyn.portals = Table.put s.dyn.portals q { s.dyn.portals.get q with busy := false })
    (work : portalsAtWork s.dyn = portalsAtWork t.dyn ++ [q]) : PortalsSound t := by
  obtain ⟨distinct, busy⟩ := sound
  rw [work, List.nodup_append] at distinct
  obtain ⟨distinct, -, apart⟩ := distinct
  have absent : q ∉ portalsAtWork t.dyn := fun h => apart q h q (List.mem_singleton_self q) rfl
  refine ⟨distinct, fun r => ?_⟩
  rw [portals, Table.put_get]
  split
  · next same => simp [← same, absent]
  · next other =>
    rw [busy, work, List.mem_append, List.mem_singleton]
    simp [Ne.symm other]

theorem DeskStep.portalsSound {s t : State} {d : Desk} (step : DeskStep s.dyn d) (desk : t.dyn.desk = d)
    (sound : PortalsSound s) : PortalsSound t := by
  have portals : t.dyn.portals = d.portals := congrArg Desk.portals desk
  have jobs : t.dyn.portalJobs = d.portalJobs := congrArg Desk.portalJobs desk
  have running : t.dyn.running = d.running := congrArg Desk.running desk
  have keeps (h1 : d.portals = s.dyn.portals) (h2 : d.portalJobs = s.dyn.portalJobs) (h3 : d.running = s.dyn.running) :
      PortalsSound t :=
    sound.of_desk (portals.trans h1) (portalsAtWork_congr (jobs.trans h2) (.inl (running.trans h3)))
  have frees {j : Job} {a : Access} (before : s.dyn.running = some ⟨j, a⟩) (other : j.portals = [])
      (h1 : d.portals = s.dyn.portals) (h2 : d.portalJobs = s.dyn.portalJobs) (h3 : d.running = none) :
      PortalsSound t := by
    refine sound.of_desk (portals.trans h1) ?_
    rw [portalsAtWork_free (running.trans h3), portalsAtWork_busy before, other, jobs.trans h2, List.append_nil]
  cases step with
  | same => exact keeps rfl rfl rfl
  | taken t hand => exact keeps rfl rfl rfl
  | answered h => exact keeps rfl rfl rfl
  | portal q x busy =>
    have work : portalsAtWork t.dyn = portalsAtWork s.dyn := portalsAtWork_congr jobs (.inl running)
    refine ⟨work ▸ sound.1, fun r => ?_⟩
    rw [portals, Table.put_get, work, ← sound.2 r]
    split
    · next same => rw [← same, busy]
    · rfl
  | owed _ => exact keeps rfl rfl rfl
  | paid h =>
    obtain counts | ⟨free, -⟩ := h
    · obtain ⟨j, a, before, other⟩ := not_portal_of_countsInRun counts
      exact frees before other rfl rfl rfl
    · exact keeps rfl rfl free.symm
  | freed before other => exact frees before (Job.portals_of_isPortal other) rfl rfl rfl
  | portalDone before =>
    refine sound.completed portals ?_
    rw [portalsAtWork_busy before, portalsAtWork_free running, jobs]
    rfl
  | goesOn before next =>
    refine sound.of_desk portals ?_
    rw [portalsAtWork_busy running, portalsAtWork_busy before, Job.portals_next next, jobs]
    rfl
  | begun a free begins =>
    refine sound.of_desk portals ?_
    rw [portalsAtWork_busy running, portalsAtWork_free free, begins.portals, List.append_nil, jobs]
    rfl
  | portalBegun a free queued =>
    have work : (portalsAtWork t.dyn).Perm (portalsAtWork s.dyn) := by
      rw [portalsAtWork_busy running, portalsAtWork_free free, jobs, queued]
      exact List.perm_append_comm
    refine ⟨work.nodup_iff.mpr sound.1, fun r => ?_⟩
    rw [portals, work.mem_iff]
    exact sound.2 r

/-- A portal job that joins the queue is one more portal at work. -/
theorem portalsAtWork_queued {p q : Dyn} {j : PortalJob} (jobs : q.portalJobs = p.portalJobs ++ [j])
    (running : q.running = p.running ∨ q.running = p.running.map Running.uncredited) :
    (portalsAtWork q).Perm (j.portal :: portalsAtWork p) := by
  have work : portalsAtWork { q with portalJobs := p.portalJobs } = portalsAtWork p := portalsAtWork_congr rfl running
  rw [← work]
  unfold portalsAtWork
  rw [jobs, List.map_append, List.append_assoc]
  exact List.perm_middle

theorem DeskEffect.portalsSound {s t : State} (h : DeskEffect s t) (sound : PortalsSound s) : PortalsSound t := by
  cases h with
  | kept h => exact sound.of_desk h.portals (portalsAtWork_congr h.portalJobs h.running)
  | initial h => exact h.portalsSound
  | desk _ step desk => exact step.portalsSound desk sound
  | request free portal portals jobs kept =>
    exact sound.requested free portals (portal ▸ portalsAtWork_queued jobs kept.running)

/-! ### The transaction in hand (R121, R129) -/

theorem HandSound.of_free {s : State} (free : s.dyn.running = none) : HandSound s := by
  intro t a running
  rw [free] at running
  cases running

theorem HandSound.of_work {s t : State} (sound : HandSound s) (h : WorkKept s.dyn t.dyn) : HandSound t := by
  intro tr a running
  rw [h.hand]
  obtain same | uncredited := h.running
  · exact sound tr a (same.symm.trans running)
  · rw [uncredited, Option.map_eq_some_iff] at running
    obtain ⟨⟨j, b⟩, before, made⟩ := running
    have forwarded : j = .forwarded tr := Job.uncredited_forwarded (congrArg Running.job made)
    exact sound tr b (forwarded ▸ before)

theorem HandSound.not_running {s : State} (sound : HandSound s) (noneInHand : s.dyn.hand = none) (t : Transaction)
    (a : Access) : s.dyn.running ≠ some ⟨.forwarded t, a⟩ := by
  intro running
  rw [sound t a running] at noneInHand
  cases noneInHand

theorem DeskStep.handSound {s t : State} {d : Desk} (step : DeskStep s.dyn d) (desk : t.dyn.desk = d)
    (sound : HandSound s) : HandSound t := by
  have hand : t.dyn.hand = d.hand := congrArg Desk.hand desk
  have running : t.dyn.running = d.running := congrArg Desk.running desk
  have keeps (h1 : d.hand = s.dyn.hand) (h2 : d.running = s.dyn.running) : HandSound t :=
    fun tr a h => (hand.trans h1).trans (sound tr a ((running.trans h2).symm.trans h))
  have alone (noneInHand : s.dyn.hand = none) (h2 : d.running = s.dyn.running) : HandSound t :=
    fun tr a h => absurd ((running.trans h2).symm.trans h) (sound.not_running noneInHand tr a)
  cases step with
  | same => exact keeps rfl rfl
  | taken u noneInHand => exact alone noneInHand rfl
  | answered h =>
    obtain noneInHand | free := h
    · exact alone noneInHand rfl
    · exact .of_free (running.trans free)
  | portal _ _ _ => exact keeps rfl rfl
  | owed _ => exact keeps rfl rfl
  | paid _ => exact .of_free running
  | freed _ _ => exact .of_free running
  | portalDone _ => exact .of_free running
  | goesOn _ next =>
    intro tr a h
    exact absurd (congrArg Running.job (Option.some.inj (running.symm.trans h))) (Job.not_forwarded_next next tr)
  | begun b free begins =>
    intro tr a h
    obtain ⟨rfl, -⟩ := Running.mk.inj (Option.some.inj (running.symm.trans h))
    exact hand.trans begins
  | portalBegun b free _ =>
    intro tr a h
    cases Option.some.inj (running.symm.trans h)

theorem DeskEffect.handSound {s t : State} (h : DeskEffect s t) (sound : HandSound s) : HandSound t := by
  cases h with
  | kept h => exact sound.of_work h.toWorkKept
  | initial h => exact h.handSound
  | request _ _ _ _ h => exact sound.of_work h
  | desk _ step desk => exact step.handSound desk sound

/-! ### The refresh debt (R115, R116) -/

theorem DebtInRange.of_work {s t : State} (range : DebtInRange s) (h : WorkKept s.dyn t.dyn) : DebtInRange t := by
  obtain ⟨low, high, counts⟩ := range
  unfold DebtInRange
  obtain zero | ⟨same, credit⟩ := h.debt
  · rw [zero]
    exact ⟨by omega, by omega, fun _ => by omega⟩
  · rw [same]
    exact ⟨low, high, fun h => counts (credit h)⟩

theorem countsInRun_free {p : Dyn} (free : p.running = none) : countsInRun p = false := by
  simp [countsInRun, free]

theorem DebtInRange.of_free {s : State} (free : s.dyn.running = none) (low : -4 ≤ s.dyn.debt) (high : s.dyn.debt ≤ 7) :
    DebtInRange s :=
  ⟨low, high, fun h => by rw [countsInRun_free free] at h; cases h⟩

/-- The next access of a refresh counts as the one before. -/
theorem countsInRun_next {p q : Dyn} {j k : Job} {a b x : Access} {ans : StoreAnswer} (mode : q.mode = p.mode)
    (before : p.running = some ⟨j, a⟩) (next : (j.answered x ans).next = some k) (after : q.running = some ⟨k, b⟩)
    (h : countsInRun q = true) : countsInRun p = true := by
  unfold countsInRun at h ⊢
  rw [after, mode] at h
  rw [before]
  cases j <;> cases ans <;> simp only [Job.answered, Job.next] at next <;> (repeat' split at next) <;> cases next <;>
    exact h

theorem DeskStep.debtInRange {s t : State} {d : Desk} (step : DeskStep s.dyn d) (desk : t.dyn.desk = d)
    (mode : t.dyn.mode = s.dyn.mode) (range : DebtInRange s) : DebtInRange t := by
  have debt : t.dyn.debt = d.debt := congrArg Desk.debt desk
  have running : t.dyn.running = d.running := congrArg Desk.running desk
  obtain ⟨low, high, counts⟩ := range
  have keeps (h1 : d.debt = s.dyn.debt) (h2 : d.running = s.dyn.running) : DebtInRange t := by
    rw [DebtInRange, debt, h1, countsInRun_congr mode (running.trans h2)]
    exact ⟨low, high, counts⟩
  have frees (h1 : d.debt = s.dyn.debt) (h2 : d.running = none) : DebtInRange t :=
    .of_free (running.trans h2) ((debt.trans h1) ▸ low) ((debt.trans h1) ▸ high)
  cases step with
  | same => exact keeps rfl rfl
  | taken u noneInHand => exact keeps rfl rfl
  | answered h => exact keeps rfl rfl
  | portal _ _ _ => exact keeps rfl rfl
  | owed room =>
    rw [DebtInRange, debt, countsInRun_congr mode running]
    exact ⟨by show -4 ≤ s.dyn.debt + 1; omega, by show s.dyn.debt + 1 ≤ 7; omega,
      fun h => by have := counts h; show -3 ≤ s.dyn.debt + 1; omega⟩
  | paid h =>
    have above : -3 ≤ s.dyn.debt := h.elim counts And.right
    refine .of_free running ?_ ?_
    · rw [debt]; show -4 ≤ s.dyn.debt - 1; omega
    · rw [debt]; show s.dyn.debt - 1 ≤ 7; omega
  | freed _ _ => exact frees rfl rfl
  | portalDone _ => exact frees rfl rfl
  | goesOn before next =>
    rw [DebtInRange, debt]
    exact ⟨low, high, fun h => counts (countsInRun_next mode before next running h)⟩
  | begun b free begins =>
    rw [DebtInRange, debt]
    refine ⟨low, high, fun h => ?_⟩
    have run := countsInRun_of_mode h
    unfold countsInRun at h
    rw [running] at h
    split at h
    · next same =>
      obtain ⟨rfl, -⟩ := Running.mk.inj (Option.some.inj same)
      exact begins (mode.symm.trans run)
    · cases h
  | portalBegun b free _ =>
    rw [DebtInRange, debt]
    refine ⟨low, high, fun h => ?_⟩
    rw [countsInRun, running] at h
    cases h

theorem DeskEffect.debtInRange {s t : State} (h : DeskEffect s t) (range : DebtInRange s) : DebtInRange t := by
  cases h with
  | kept h => exact range.of_work h.toWorkKept
  | initial h => exact h.debtInRange
  | request _ _ _ _ h => exact range.of_work h
  | desk mode step desk => exact step.debtInRange desk mode range

end Sys2Proof.Machine
end

section
/-! What the operations on gates and dams leave in each record (Sections 1, 3 and 4). -/

namespace Sys2Proof.Machine

/-! ### One gate put -/

theorem put_get_ite {α : Type} {n : Nat} (v : Vector α n) (i : Fin n) (x : α) (j : Fin n) :
    (Table.put v i x).get j = if j = i then x else v.get j := by
  rw [Table.put_get]
  exact if_congr eq_comm rfl rfl

theorem put_put {α : Type} {n : Nat} (v : Vector α n) (i : Fin n) (x y : α) :
    Table.put (Table.put v i x) i y = Table.put v i y := Vector.set_set ..

theorem putGate_get (g : GateId) (x : Gate) (p : Dyn) (h : GateId) :
    (putGate g x p).gates.get h = if h = g then x else p.gates.get h := by
  rw [putGate_gates, put_get_ite]

@[simp] theorem setWarning_gates (d : DamId) (w : Warning) (t : Timer) (p : Dyn) :
    (setWarning d w t p).gates = p.gates := by
  unfold setWarning
  dsimp only
  split <;> simp

theorem setWarning_dams (d : DamId) (w : Warning) (t : Timer) (p : Dyn) :
    (setWarning d w t p).dams = Table.put p.dams d { p.dams.get d with warning := w, dwellTimer := t } := by
  unfold setWarning
  dsimp only
  split <;> simp

@[simp] theorem setWarning_mode (d : DamId) (w : Warning) (t : Timer) (p : Dyn) :
    (setWarning d w t p).mode = p.mode := congrArg Prod.fst (setWarning_work d w t p)

@[simp] theorem setWarning_statusWords (d : DamId) (w : Warning) (t : Timer) (p : Dyn) :
    (setWarning d w t p).statusWords = p.statusWords := congrArg Still.statusWords (setWarning_still d w t p)

/-! ### The silencing check (R23) -/

theorem allShut_iff (c : Tables) (d : DamId) (p : Dyn) : allShut c d p = true ↔ AllShut c p d := by
  unfold allShut AllShut
  rw [List.all_eq_true]
  refine forall_congr' fun g => ?_
  simp only [List.mem_finRange, true_implies, Bool.or_eq_true, beq_iff_eq, Bool.not_eq_true', Bool.and_eq_false_iff,
    beq_eq_false_iff_ne, ne_eq]
  cases (c.gates.get g).kind <;> cases (c.gates.get g).inDam d <;> simp

@[simp] theorem silenceCheckOf_gates (c : Tables) (g : GateId) (p : Dyn) :
    (silenceCheckOf c g p).gates = p.gates := by
  unfold silenceCheckOf silenceCheck
  repeat' split
  all_goals simp

@[simp] theorem silenceCheckOf_queue (c : Tables) (g : GateId) (p : Dyn) :
    (silenceCheckOf c g p).queue = p.queue := by
  unfold silenceCheckOf silenceCheck
  repeat' split
  all_goals simp [setWarning_queue]

/-- The silencing check of a flood gate of dam d. -/
theorem silenceCheckOf_flood {c : Tables} {g : GateId} {d : DamId} (kind : (c.gates.get g).kind = .flood)
    (dam : (c.gates.get g).dam? = some d) (p : Dyn) :
    silenceCheckOf c g p = if allShut c d p then setWarning d .silent .stopped p else p := by
  simp [silenceCheckOf, kind, dam, silenceCheck]

theorem silenceCheckOf_wicket {c : Tables} {g : GateId} (kind : (c.gates.get g).kind = .wicket) (p : Dyn) :
    silenceCheckOf c g p = p := by
  simp [silenceCheckOf, kind]

/-- What the silencing check leaves of the dams: one whose flood gates are all shut may be silent. -/
theorem silenceCheckOf_dam (c : Tables) (g : GateId) (p : Dyn) (e : DamId) :
    (silenceCheckOf c g p).dams.get e = p.dams.get e ∨
      (AllShut c p e ∧
        (silenceCheckOf c g p).dams.get e = { p.dams.get e with warning := .silent, dwellTimer := .stopped }) := by
  unfold silenceCheckOf silenceCheck
  split
  case h_1 d _ _ =>
    split
    case isTrue shut =>
      rw [setWarning_dams, Table.put_get]
      split
      · next same => exact same ▸ .inr ⟨(allShut_iff c d p).mp shut, rfl⟩
      · exact .inl rfl
    case isFalse => exact .inl rfl
  case h_2 => exact .inl rfl
  case h_3 => exact .inl rfl

/-! ### The ends of the two dwells (R9, R21) -/

/-- Gate record x after the end of its recovery dwell. -/
def Gate.recovered (x : Gate) : Gate :=
  { x with state := if x.target = 0 then .closed else x.moveState, recoveryTimer := .stopped }

theorem recoveryEnds_get (c : Tables) (g : GateId) (p : Dyn) (h : GateId) :
    (recoveryEnds c g p).gates.get h = if h = g then (p.gates.get g).recovered else p.gates.get h := by
  unfold recoveryEnds Gate.recovered
  dsimp only
  split
  case isTrue zero => simp [put_get_ite]
  case isFalse other => simp [put_get_ite]

@[simp] theorem releaseWarning_dams (c : Tables) (d : DamId) (p : Dyn) : (releaseWarning c d p).dams = p.dams :=
  releaseWarning_keeps Dyn.dams (fun _ _ _ => by simp) c d p

theorem dwellEnds_get (c : Tables) (d : DamId) (p : Dyn) (g : GateId) :
    (dwellEnds c d p).gates.get g =
      if (c.gates.get g).inDam d && (p.gates.get g).state == .warning then
        { p.gates.get g with state := (p.gates.get g).moveState }
      else p.gates.get g := by
  rw [dwellEnds, releaseWarning_get, setWarning_gates]

theorem dwellEnds_dams (c : Tables) (d : DamId) (p : Dyn) :
    (dwellEnds c d p).dams = Table.put p.dams d { p.dams.get d with warning := .sounded, dwellTimer := .stopped } := by
  rw [dwellEnds, releaseWarning_dams, setWarning_dams]

/-! ### Settling (R6) -/

/-- Gate record x, whose command equals its target, after it has settled. -/
def Gate.ended (x : Gate) (kind : GateKind) (dwell : Nat) : Gate :=
  { x with
    causes := { x.causes with interlock := false }
    state := if kind = .flood ∧ x.command = 0 then (if dwell = 0 then .closed else .recovering) else .settled
    recoveryTimer :=
      if kind = .flood ∧ x.command = 0 then (if dwell = 0 then .stopped else .running dwell) else x.recoveryTimer }

theorem settle_get (c : Tables) {g : GateId} {p : Dyn} (arrived : (p.gates.get g).target = (p.gates.get g).command)
    (h : GateId) : (settle c g p).gates.get h =
      if h = g then (p.gates.get g).ended (c.gates.get g).kind (recoveryDwellOf c g) else p.gates.get h := by
  unfold settle Gate.ended
  dsimp only
  by_cases shut : (c.gates.get g).kind = .flood ∧ (p.gates.get g).command = 0
  · obtain ⟨kind, zero⟩ := shut
    rw [if_pos (by simp [kind, zero])]
    split
    case isTrue now =>
      rw [recoveryEnds_get]
      by_cases same : h = g
      · simp [same, Gate.recovered, arrived, zero, kind, now]
      · simp [same, put_get_ite]
    case isFalse later =>
      by_cases same : h = g
      · simp [same, zero, kind]
      · simp [same, put_get_ite]
  · rw [if_neg (by simpa using shut)]
    by_cases same : h = g
    · simp [same, shut]
    · simp [same, put_get_ite]

theorem settle_dams_wicket {c : Tables} {g : GateId} (kind : (c.gates.get g).kind = .wicket) (p : Dyn) :
    (settle c g p).dams = p.dams := by
  simp [settle, kind]

/-! ### Grants (R85 to R87) -/

@[simp] theorem recordStep_gates (c : Tables) (g : GateId) (dir : Direction) (p : Dyn) :
    (recordStep c g dir p).gates = p.gates := by
  unfold recordStep
  split <;> rfl

@[simp] theorem recordStep_queue (c : Tables) (g : GateId) (dir : Direction) (p : Dyn) :
    (recordStep c g dir p).queue = p.queue := by
  unfold recordStep
  split <;> rfl

/-- Gate record x after a step granted at a tick, settled if it has arrived. -/
def Gate.stepped (x : Gate) (c : GateConfig) (dwell : Nat) (tick : BitVec 32) : Gate :=
  let y := x.granted c tick
  if y.command = y.target then y.ended c.kind dwell else y

theorem grant_get (c : Tables) (g : GateId) (p : Dyn) (h : GateId) :
    (grant c g p).gates.get h =
      if h = g then (p.gates.get g).stepped (c.gates.get g) (recoveryDwellOf c g) p.tick else p.gates.get h := by
  unfold grant Gate.stepped
  dsimp only
  split
  case isTrue arrived =>
    rw [settle_get c (by simpa [put_get_ite] using arrived.symm)]
    by_cases same : h = g
    · simp [same]
    · simp [same, put_get_ite]
  case isFalse => simp [put_get_ite]

/-! ### Warnings (R20, R22) -/

/-- The state in which a CLOSED flood gate of a dam leaves for a move (R20). -/
def Gate.leaving (x : Gate) (warning : Warning) (warningDwell : Nat) : GateState :=
  match warning with
  | .sounded => x.moveState
  | .sounding => .warning
  | .silent => if warningDwell = 0 then x.moveState else .warning

/-- A silent dam without a warning dwell releases its gates in WARNING at once. -/
theorem soundForOrder_get (c : Tables) {g : GateId} {d : DamId} (own : (c.gates.get g).inDam d = true) (p : Dyn)
    (h : GateId) : (soundForOrder c g d p).gates.get h =
      if h = g then
        { p.gates.get g with
          state := (p.gates.get g).leaving (p.dams.get d).warning (c.dams.get d).warningDwell.toNat }
      else if (p.dams.get d).warning = .silent ∧ (c.dams.get d).warningDwell.toNat = 0 ∧
          (c.gates.get h).inDam d = true ∧ (p.gates.get h).state = .warning then
        { p.gates.get h with state := (p.gates.get h).moveState }
      else p.gates.get h := by
  unfold soundForOrder Gate.leaving
  dsimp only
  split
  case h_1 sounded => simp [put_get_ite, sounded]
  case h_2 sounding => simp [put_get_ite, sounding]
  case h_3 silent =>
    split
    case isTrue now =>
      rw [dwellEnds_get]
      by_cases same : h = g
      · subst same; simp [own, now, silent, Gate.moveState]
      · simp [put_get_ite, same, now, silent]
    case isFalse later => simp [put_get_ite, later, silent]

theorem soundForOrder_dams (c : Tables) (g : GateId) (d : DamId) (p : Dyn) :
    (soundForOrder c g d p).dams =
      if (p.dams.get d).warning = .silent then
        Table.put p.dams d
          { p.dams.get d with
            warning := if (c.dams.get d).warningDwell.toNat = 0 then .sounded else .sounding
            dwellTimer := if (c.dams.get d).warningDwell.toNat = 0 then .stopped
              else .running (c.dams.get d).warningDwell.toNat }
      else p.dams := by
  unfold soundForOrder
  dsimp only
  split
  case h_1 sounded => simp [sounded]
  case h_2 sounding => simp [sounding]
  case h_3 silent =>
    rw [if_pos silent]
    split
    case isTrue now => simp [dwellEnds_dams, setWarning_dams, now, put_put]
    case isFalse later => simp [setWarning_dams]

/-! ### Commits (R60 to R64) -/

/-- The warning state that gate g finds at its dam; a gate of no dam needs no warning. -/
def warningOf (c : Tables) (p : Dyn) (g : GateId) : Warning :=
  match (c.gates.get g).dam? with
  | some d => (p.dams.get d).warning
  | none => .sounded

/-- The warning dwell of the dam of gate g. -/
def warningDwellOf (c : Tables) (g : GateId) : Nat :=
  match (c.gates.get g).dam? with
  | some d => (c.dams.get d).warningDwell.toNat
  | none => 0

theorem inDam_of_dam? {x : GateConfig} {d : DamId} (h : x.dam? = some d) : x.inDam d = true := by
  unfold GateConfig.dam? at h
  split at h
  · cases h
    simp [GateConfig.inDam]
  · cases h

theorem dam?_of_inDam {x : GateConfig} {d : DamId} (h : x.inDam d = true) : x.dam? = some d := by
  have same : x.dam.toNat = d.val := by simpa [GateConfig.inDam] using h
  simp [GateConfig.dam?, same]

theorem Causes.moveState_eq (x : Gate) : x.moveState = x.causes.moveState := by
  unfold Gate.moveState Causes.moveState Causes.isEmpty
  cases x.causes.mode || x.causes.dam || x.causes.interlock <;> simp

/-- Only a HELD gate carries INTERLOCK. -/
theorem Gate.Sound.noInterlock {x : Gate} {kind : GateKind} (sound : x.Sound kind) (state : x.state ≠ .held) :
    x.causes.interlock = false := by
  by_contra set
  exact state (sound.interlock (by simpa using set))

theorem Causes.without_interlock {x : Causes} (h : x.interlock = false) : { x with interlock := false } = x := by
  rw [← h]

theorem Gate.retargeted_causes {x : Gate} (h : x.causes.interlock = false) (v : Nat) :
    x.retargeted v = { x with target := v } := by
  simp [Gate.retargeted, Causes.without_interlock h]

/-! The cases of Table 3-3. -/

section Committed

variable {x : Gate} {kind : GateKind} {wd rd : Nat} {w : Warning} {v : Nat}

theorem Gate.committed_recovering (state : x.state = .recovering) :
    x.committed kind wd rd w v = { x with target := v } := by
  simp [Gate.committed, state]

theorem Gate.committed_warning (state : x.state = .warning) :
    x.committed kind wd rd w v = { x with target := v, state := if v = 0 then .closed else .warning } := by
  simp [Gate.committed, state]

theorem Gate.committed_closed (state : x.state = .closed) (clear : x.causes.interlock = false) :
    x.committed kind wd rd w v = { x with target := v, state := x.leaving w wd } := by
  have kept : (if v = x.command then x.causes else { x.causes with interlock := false }) = x.causes := by
    rw [Causes.without_interlock clear, ite_self]
  cases w <;> simp only [Gate.committed, state, kept, Gate.leaving, Causes.moveState_eq]

theorem Gate.committed_settled (state : x.state = .settled) (clear : x.causes.interlock = false) :
    x.committed kind wd rd w v = { x with target := v, state := x.moveState } := by
  have kept : (if v = x.command then x.causes else { x.causes with interlock := false }) = x.causes := by
    rw [Causes.without_interlock clear, ite_self]
  simp only [Gate.committed, state, kept, Causes.moveState_eq]

theorem Gate.committed_arrived (state : x.state = .moving ∨ x.state = .held) (arrived : v = x.command) :
    x.committed kind wd rd w v = ({ x with target := v }).ended kind rd := by
  obtain state | state := state <;> simp [Gate.committed, state, arrived, Gate.ended]

theorem Gate.committed_underWay (state : x.state = .moving ∨ x.state = .held) (moves : v ≠ x.command) :
    x.committed kind wd rd w v =
      { x with
        target := v
        causes := { x.causes with interlock := false }
        state := Causes.moveState { x.causes with interlock := false } } := by
  obtain state | state := state <;> simp [Gate.committed, state, moves]

end Committed

section Commit

variable {c : Tables} {g : GateId} {v : Nat} {p : Dyn}

/-- The commit for a gate with a move outstanding. -/
theorem commitTarget_get_underWay (state : (p.gates.get g).state = .moving ∨ (p.gates.get g).state = .held) (h : GateId) :
    (commitTarget c g v p).gates.get h = if h = g then
      (p.gates.get g).committed (c.gates.get g).kind (warningDwellOf c g) (recoveryDwellOf c g) (warningOf c p g) v
      else p.gates.get h := by
  have commits : commitTarget c g v p =
      if v = (p.gates.get g).command then settle c g (putGate g ((p.gates.get g).retargeted v) p)
      else putGate g { (p.gates.get g).retargeted v with state := ((p.gates.get g).retargeted v).moveState } p := by
    obtain state | state := state <;> simp [commitTarget, state]
  rw [commits]
  by_cases arrived : v = (p.gates.get g).command
  · rw [if_pos arrived, settle_get c (by rw [putGate_get, if_pos rfl]; exact arrived), Gate.committed_arrived state arrived,
      putGate_get, putGate_get, if_pos rfl]
    simp only [Gate.retargeted, if_pos arrived]
    split <;> rfl
  · rw [if_neg arrived, putGate_get, Gate.committed_underWay state arrived]
    simp only [Gate.retargeted, if_neg arrived, Causes.moveState_eq]

/-- The record of gate g after a commit to a new target (Table 3-3). -/
theorem commitTarget_get_self (sound : (p.gates.get g).Sound (c.gates.get g).kind)
    (change : v ≠ (p.gates.get g).target) :
    (commitTarget c g v p).gates.get g =
      (p.gates.get g).committed (c.gates.get g).kind (warningDwellOf c g) (recoveryDwellOf c g) (warningOf c p g) v := by
  have clear (state : (p.gates.get g).state ≠ .held) := sound.noInterlock state
  cases state : (p.gates.get g).state with
  | moving => rw [commitTarget_get_underWay (.inl state), if_pos rfl]
  | held => rw [commitTarget_get_underWay (.inr state), if_pos rfl]
  | recovering =>
    rw [Gate.committed_recovering state]
    simp [commitTarget, state, Gate.retargeted_causes (clear (by simp [state]))]
  | warning =>
    rw [Gate.committed_warning state]
    obtain ⟨-, zero, -⟩ := sound.warning state
    by_cases shut : v = 0
    · simp [commitTarget, state, Gate.retargeted_causes (clear (by simp [state])), zero, shut]
    · simp [commitTarget, state, Gate.retargeted_causes (clear (by simp [state])), zero, shut]
  | closed =>
    rw [Gate.committed_closed state (clear (by simp [state]))]
    obtain ⟨-, target, command⟩ := sound.closed state
    have moves : v ≠ (p.gates.get g).command := by omega
    cases dam : (c.gates.get g).dam? with
    | some d =>
      simp only [commitTarget, state, if_neg moves, dam, soundForOrder_get c (inDam_of_dam? dam), if_pos,
        putGate_get, putGate_dams, Gate.retargeted_causes (clear (by simp [state])), warningOf, warningDwellOf]
      rfl
    | none =>
      simp only [commitTarget, state, if_neg moves, dam, if_pos, putGate_get,
        Gate.retargeted_causes (clear (by simp [state])), warningOf, Gate.leaving]
      rfl
  | settled =>
    rw [Gate.committed_settled state (clear (by simp [state]))]
    obtain ⟨arrived, -⟩ := sound.settled state
    have moves : v ≠ (p.gates.get g).command := by omega
    simp only [commitTarget, state, if_neg moves, putGate_get, if_pos,
      Gate.retargeted_causes (clear (by simp [state]))]
    rfl
  | outOfService => simp [commitTarget, Gate.committed, state]
  | faulted => simp [commitTarget, Gate.committed, state]

/-- What a commit of gate g leaves of another gate: its record, or, where the warning of a dam without a warning dwell
starts and ends with the commit, that of a gate released from WARNING. -/
theorem commitTarget_get_other {h : GateId} (other : h ≠ g) :
    (commitTarget c g v p).gates.get h = p.gates.get h ∨
      ((p.gates.get g).state = .closed ∧ warningOf c p g = .silent ∧ (p.gates.get h).state = .warning ∧
        (∃ d, (c.gates.get g).dam? = some d ∧ (c.gates.get h).inDam d = true) ∧
        (commitTarget c g v p).gates.get h = { p.gates.get h with state := (p.gates.get h).moveState }) := by
  have settles (x : Gate) (arrived : x.target = x.command) :
      (settle c g (putGate g x p)).gates.get h = p.gates.get h := by
    rw [settle_get c (by rw [putGate_get, if_pos rfl]; exact arrived), if_neg other, putGate_get, if_neg other]
  cases state : (p.gates.get g).state with
  | moving => exact .inl (by rw [commitTarget_get_underWay (.inl state), if_neg other])
  | held => exact .inl (by rw [commitTarget_get_underWay (.inr state), if_neg other])
  | closed =>
    by_cases arrived : v = (p.gates.get g).command
    · left
      simp only [commitTarget, state, if_pos arrived]
      exact settles _ arrived
    · cases dam : (c.gates.get g).dam? with
      | some d =>
        simp only [commitTarget, state, if_neg arrived, dam, soundForOrder_get c (inDam_of_dam? dam), if_neg other,
          putGate_get, putGate_dams, warningOf]
        split
        · next released => exact .inr ⟨trivial, released.1, released.2.2.2, ⟨d, rfl, released.2.2.1⟩, rfl⟩
        · exact .inl rfl
      | none => exact .inl (by simp [commitTarget, state, arrived, dam, other, put_get_ite])
  | settled =>
    left
    by_cases arrived : v = (p.gates.get g).command
    · simp only [commitTarget, state, if_pos arrived]
      exact settles _ arrived
    · simp [commitTarget, state, arrived, put_get_ite, other]
  | warning =>
    left
    by_cases arrived : v = (p.gates.get g).command
    · simp [commitTarget, state, arrived, put_get_ite, other]
    · simp [commitTarget, state, arrived, put_get_ite, other]
  | recovering => exact .inl (by simp [commitTarget, state, put_get_ite, other])
  | outOfService => exact .inl (by simp [commitTarget, state])
  | faulted => exact .inl (by simp [commitTarget, state])

end Commit

end Sys2Proof.Machine
end

section
/-! Openings, levels, limits and fixed records in every step (R14, R26, R31, R39, R42, R122, R124, R145). -/

namespace Sys2Proof.Machine

open Relation (ReflTransGen)

/-! ### Configuration copies -/

/-- What an effect does to the configuration copies. -/
inductive TablesEffect (s t : State) : Prop
  | kept : t.tables.masters = s.tables.masters → t.tables.descriptors = s.tables.descriptors →
      t.tables.links = s.tables.links → TablesEffect s t
  | step : TableStep s.dyn s.tables t.tables → TablesEffect s t
  | powerOn : t.tables = .powerOn → TablesEffect s t

theorem Effect.tablesEffect {N : Prop} {s t : State} (h : Effect N s t) : TablesEffect s t := by
  cases h with
  | tables h => exact .step h
  | powerOn => exact .powerOn rfl
  | _ => exact .kept rfl rfl rfl

theorem FixedEntries.of_tables {s t : State} (h : FixedEntries s) (masters : t.tables.masters = s.tables.masters)
    (descriptors : t.tables.descriptors = s.tables.descriptors) : FixedEntries t := by
  unfold FixedEntries
  rw [masters, descriptors]
  exact h

theorem TablesEffect.fixedEntries {s t : State} (h : TablesEffect s t) (fixed : FixedEntries s) : FixedEntries t := by
  cases h with
  | kept masters descriptors _ => exact fixed.of_tables masters descriptors
  | powerOn same => exact Tables.powerOn_fixedEntries same
  | step step =>
    generalize after : t.tables = c at step
    obtain ⟨master, pages⟩ := fixed
    unfold FixedEntries
    rw [after]
    cases step with
    | master x other =>
      refine ⟨?_, pages⟩
      rw [put_get_ite, if_neg fun same => other (congrArg Fin.val same.symm)]
      exact master
    | descriptor checked =>
      refine ⟨master, fun q low => ?_⟩
      rw [put_get_ite]
      split
      · next same => exact same ▸ checked (same ▸ low)
      · exact pages q low
    | _ => exact ⟨master, pages⟩

theorem LinksValid.of_tables {s t : State} (h : LinksValid s) (links : t.tables.links = s.tables.links) :
    LinksValid t := by
  unfold LinksValid
  rw [links]
  exact h

theorem TablesEffect.linksValid {s t : State} (h : TablesEffect s t) (valid : LinksValid s) : LinksValid t := by
  cases h with
  | kept _ _ links => exact valid.of_tables links
  | powerOn same => exact Tables.powerOn_linksValid same
  | step step =>
    generalize after : t.tables = c at step
    unfold LinksValid
    rw [after]
    cases step with
    | link l checked =>
      intro k
      rw [put_get_ite]
      split
      · exact checked
      · exact valid k
    | _ => exact valid

/-! ### Reaches (R31, R39, R42) -/

/-- A reach is as it was, but for its flag, or has a new level part that follows its record. -/
def ReachMoved (c : Tables) (p q : Dyn) : Prop :=
  ∀ r, ((p.reaches.get r).Follows (c.reaches.get r) → (q.reaches.get r).Follows (c.reaches.get r)) ∧
    ((p.reaches.get r).InRange → (q.reaches.get r).InRange)

theorem ReachMoved.of_eq {c : Tables} {p q : Dyn} (h : q.reaches = p.reaches) : ReachMoved c p q := by
  intro r
  rw [h]
  exact ⟨id, id⟩

theorem ReachMoved.trans {c : Tables} {p q u : Dyn} (h1 : ReachMoved c p q) (h2 : ReachMoved c q u) :
    ReachMoved c p u := fun r => ⟨(h2 r).1 ∘ (h1 r).1, (h2 r).2 ∘ (h1 r).2⟩

theorem Linked.reachMoved {c : Tables} {p q : Dyn} (h : Linked c p q) : ReachMoved c p q := by
  intro r
  obtain ⟨b, same⟩ := h.frame.reaches r
  rw [same]
  exact ⟨id, id⟩

theorem reaches_of_rivers {p q : Dyn} (h : q.rivers = p.rivers) : q.reaches = p.reaches := congrArg Prod.snd h

theorem commitItems_rivers (c : Tables) (items : List Item) (p : Dyn) : (commitItems c items p).rivers = p.rivers :=
  foldl_keeps Dyn.rivers _ (fun p e => by split <;> simp) items p

theorem Turn.reachMoved {N : Prop} {c : Tables} {p q : Dyn} (h : Turn N c p q) : ReachMoved c p q := by
  cases h with
  | link h => exact Linked.reachMoved (.single h)
  | join _ => exact .of_eq rfl
  | grant _ _ => exact .of_eq (reaches_of_rivers (grant_rivers _ _ _))
  | lose _ _ => exact .of_eq (by simp [setCauses])
  | fault _ => exact .of_eq (putGate_reaches _ _ _)
  | recover _ => exact .of_eq (reaches_of_rivers (recoveryEnds_rivers _ _ _))
  | dwell d => exact .of_eq (reaches_of_rivers (dwellEnds_rivers _ _ _))
  | @enter q g d _ _ linked =>
    refine ((ReachMoved.of_eq (putGate_reaches _ _ _)).trans linked.reachMoved).trans (.of_eq ?_)
    unfold soundForEntry
    split
    · exact reaches_of_rivers (soundAtEntry_rivers _ _ _)
    · rfl
  | exit _ => exact .of_eq (putGate_reaches _ _ _)
  | silence g => exact .of_eq (reaches_of_rivers (silenceCheckOf_rivers _ _ _))
  | commit _ linked =>
    exact (show ReachMoved c p _ from linked.reachMoved).trans (.of_eq (reaches_of_rivers (commitItems_rivers _ _ _)))
  | tune _ => exact .of_eq (putGate_reaches _ _ _)
  | age g => exact .of_eq rfl
  | forget d dir => exact .of_eq rfl
  | mark g => exact .of_eq rfl
  | @level r x range follows =>
    intro k
    show (_ → ((Table.put p.reaches r x).get k).Follows _) ∧ (_ → ((Table.put p.reaches r x).get k).InRange)
    rw [put_get_ite]
    split
    · next same => exact same ▸ ⟨fun _ => follows, range⟩
    · exact ⟨id, id⟩
  | clearHold d => exact .of_eq (reaches_of_rivers (clearHold_rivers _ _ _))

theorem Turns.reachMoved {N : Prop} {c : Tables} {p q : Dyn} (h : Turns N c p q) : ReachMoved c p q :=
  of_chain (R := ReachMoved c) (fun _ => .of_eq rfl) ReachMoved.trans Turn.reachMoved h

theorem TableStep.reaches {p : Dyn} {c d : Tables} (h : TableStep p c d) : d.reaches = c.reaches := by
  cases h <;> rfl

theorem resumed_reaches (p : Dyn) : (resumed p).reaches = p.reaches := by
  rw [resumed, changeCauses_keeps Dyn.reaches putGate_reaches]
  rfl

/-- What an effect does to the reaches and their records. -/
inductive ReachEffect (s t : State) : Prop
  | moved : t.tables.reaches = s.tables.reaches → ReachMoved s.tables s.dyn t.dyn → ReachEffect s t
  | counted : t.tables.reaches = s.tables.reaches →
      (∀ r, t.dyn.reaches.get r = (s.dyn.reaches.get r).counted) → ReachEffect s t
  | written {r : ReachId} {cfg : ReachConfig} {x : Reach} : ((s.dyn.reaches.get r).InRange → x.InRange) →
      ((s.dyn.reaches.get r).Follows (s.tables.reaches.get r) → x.Follows cfg) →
      t.tables.reaches = Table.put s.tables.reaches r cfg → t.dyn.reaches = Table.put s.dyn.reaches r x →
      ReachEffect s t
  | initial : t.IsInitial → ReachEffect s t

theorem Effect.reachEffect {N : Prop} {s t : State} (h : Effect N s t) : ReachEffect s t := by
  have keeps (sel : GateId → Gate → Bool) (new : GateId → Gate → Gate) (p : Dyn) :
      (eachGate sel new p).reaches = p.reaches := eachGate_keeps _ _ Dyn.reaches (fun _ _ _ => putGate_reaches _ _ _) p
  cases h with
  | store => exact .moved rfl (.of_eq rfl)
  | pending => exact .moved rfl (.of_eq rfl)
  | turn h => exact .moved rfl h.reachMoved
  | desk plant _ => exact .moved rfl (.of_eq (congrArg Plant.reaches plant))
  | request _ _ turns => exact .moved rfl turns.reachMoved
  | toRun _ => exact .moved rfl (.of_eq rfl)
  | toConfig _ _ => exact .moved rfl (.of_eq (uncredit_reaches _))
  | toExiting _ => exact .moved rfl (.of_eq rfl)
  | resume _ =>
    refine .moved rfl (.of_eq ?_)
    dsimp only
    exact resumed_reaches _
  | arrival => exact .counted rfl fun r => Table.tab_get _ r
  | statusWord n w => exact .moved rfl (.of_eq (keeps _ _ _))
  | condition k x => exact .moved rfl (.of_eq (keeps _ _ _))
  | reach range follows => exact .written range follows rfl rfl
  | tables step => exact .moved step.reaches (.of_eq rfl)
  | powerOn => exact .initial ⟨_, _, _, _, _, rfl⟩
  | resetLine => exact .initial ⟨_, _, _, _, _, rfl⟩

theorem ReachEffect.limitsFollow {s t : State} (h : ReachEffect s t) (follow : LimitsFollowLevel s) :
    LimitsFollowLevel t := by
  have before (r : ReachId) : (s.dyn.reaches.get r).Follows (s.tables.reaches.get r) := follow r
  intro r
  show (t.dyn.reaches.get r).Follows (t.tables.reaches.get r)
  cases h with
  | moved same moved => rw [same]; exact (moved r).1 (before r)
  | counted same counted => rw [same, counted]; exact before r
  | written _ follows tables dyn =>
    rw [tables, dyn, put_get_ite, put_get_ite]
    split
    · exact follows (before _)
    · exact before r
  | initial h => exact h.limitsFollowLevel r

theorem ReachEffect.levelsInRange {s t : State} (h : ReachEffect s t) (range : LevelsInRange s) : LevelsInRange t := by
  have before (r : ReachId) : (s.dyn.reaches.get r).InRange := range r
  intro r
  show (t.dyn.reaches.get r).InRange
  cases h with
  | moved _ moved => exact (moved r).2 (before r)
  | counted _ counted => rw [counted]; exact before r
  | written inRange _ _ dyn =>
    rw [dyn, put_get_ite]
    split
    · exact inRange (before _)
    · exact before r
  | initial h => exact h.levelsInRange r

/-- Settles O59: each claim is one about every effect. -/
theorem everyStepKeepsTheRecordsAndTheDebtSound : Obligations.EveryStepKeepsTheRecordsAndTheDebtSound :=
  ⟨fun _ _ next => step_keeps_of_effect (fun _ _ h => h.reachEffect.limitsFollow) next,
    fun _ _ next => step_keeps_of_effect (fun _ _ h => h.tablesEffect.fixedEntries) next,
    fun _ _ next => step_keeps_of_effect (fun _ _ h => h.tablesEffect.linksValid) next,
    fun _ _ next => step_keeps_of_effect (fun _ _ h => h.deskEffect.portalsSound) next,
    fun _ _ next => step_keeps_of_effect (fun _ _ h => h.deskEffect.handSound) next,
    fun _ _ next => step_keeps_of_effect (fun _ _ h => h.deskEffect.debtInRange) next⟩

end Sys2Proof.Machine
end

section
/-! Each change of a gate's record keeps it in agreement with its state and its kind (R5 to R7, R16, R20, R72). -/

namespace Sys2Proof.Machine

section Records

variable {x y : Gate} {kind : GateKind}

theorem Causes.moveState_cases (cs : Causes) :
    (cs.moveState = .moving ∧ cs.isEmpty = true) ∨ (cs.moveState = .held ∧ cs.isEmpty = false) := by
  unfold Causes.moveState Causes.isEmpty
  cases cs.mode || cs.dam || cs.interlock <;> simp

theorem Gate.Sound.restStopped (sound : x.Sound kind) (state : x.state ≠ .recovering) : x.recoveryTimer = .stopped := by
  by_contra runs
  exact state (sound.recovery runs)

/-- A record in a state with no move outstanding, with the facts of its state. -/
theorem Gate.Sound.ofRest (state : x.state = .outOfService) (target : x.target = x.command)
    (causes : x.causes.isEmpty = true) (clear : x.causes.interlock = false) (lag : x.lagTimer = .stopped)
    (recovery : x.recoveryTimer = .stopped) : x.Sound kind := by
  constructor <;> simp_all

/-- A record with a move outstanding: MOVING or HELD by its hold-cause set. -/
theorem Gate.Sound.ofMove (state : x.state = x.causes.moveState) (outstanding : x.target ≠ x.command)
    (recovery : x.recoveryTimer = .stopped) : x.Sound kind := by
  obtain ⟨moves, empty⟩ | ⟨held, causes⟩ := Causes.moveState_cases x.causes
  · rw [moves] at state
    have clear : x.causes.interlock = false := by
      simp only [Causes.isEmpty, Bool.not_eq_true', Bool.or_eq_false_iff] at empty
      exact empty.2
    constructor <;> simp_all
  · rw [held] at state
    constructor <;> simp_all

/-- A record that a recovery, or a gate settled, closed, warned or FAULTED, has. -/
theorem Gate.Sound.ofSettled (state : x.state = .settled) (arrived : x.target = x.command)
    (flood : kind = .flood → 0 < x.command) (clear : x.causes.interlock = false) (recovery : x.recoveryTimer = .stopped) :
    x.Sound kind := by
  constructor <;> simp_all

theorem Gate.Sound.ofClosed (state : x.state = .closed) (flood : kind = .flood) (target : x.target = 0)
    (command : x.command = 0) (clear : x.causes.interlock = false) (recovery : x.recoveryTimer = .stopped) :
    x.Sound kind := by
  constructor <;> simp_all

theorem Gate.Sound.ofRecovering (state : x.state = .recovering) (flood : kind = .flood) (command : x.command = 0)
    (clear : x.causes.interlock = false) : x.Sound kind := by
  constructor <;> simp_all

theorem Gate.Sound.ofWarning (state : x.state = .warning) (flood : kind = .flood) (command : x.command = 0)
    (target : 0 < x.target) (clear : x.causes.interlock = false) (recovery : x.recoveryTimer = .stopped) :
    x.Sound kind := by
  constructor <;> simp_all

theorem Gate.Sound.ofFaulted (state : x.state = .faulted) (arrived : x.target = x.command)
    (clear : x.causes.interlock = false) (recovery : x.recoveryTimer = .stopped) : x.Sound kind := by
  constructor <;> simp_all

/-! ### Hold causes (R7) -/

theorem Gate.withCauses_underWay (state : x.state = .moving ∨ x.state = .held) (cs : Causes) :
    x.withCauses cs = { x with causes := cs, state := cs.moveState } := by
  unfold Gate.withCauses Causes.moveState Causes.isEmpty
  obtain state | state := state <;> simp only [state] <;>
    cases cs.mode || cs.dam || cs.interlock <;> simp

theorem Gate.withCauses_resting (h1 : x.state ≠ .moving) (h2 : x.state ≠ .held) (cs : Causes) :
    x.withCauses cs = { x with causes := cs } := by
  unfold Gate.withCauses
  split <;> simp_all

theorem Gate.Sound.outstanding (sound : x.Sound kind) (state : x.state = .moving ∨ x.state = .held) :
    x.target ≠ x.command := by
  obtain moving | held := state
  · exact (sound.moving moving).1
  · exact (sound.held held).1

theorem Gate.Sound.withCauses (sound : x.Sound kind) (inService : x.inService = true) {cs : Causes}
    (interlock : cs.interlock = true → x.state = .moving ∨ x.state = .held) : (x.withCauses cs).Sound kind := by
  by_cases underWay : x.state = .moving ∨ x.state = .held
  · rw [Gate.withCauses_underWay underWay]
    refine .ofMove rfl (sound.outstanding underWay) (sound.restStopped ?_)
    obtain state | state := underWay <;> simp [state]
  · have clear : cs.interlock = false := by
      by_contra set
      exact underWay (interlock (by simpa using set))
    rw [not_or] at underWay
    rw [Gate.withCauses_resting underWay.1 underWay.2]
    have rest : x.state ≠ .outOfService := by simpa [Gate.inService] using inService
    exact ⟨fun h => absurd h rest, sound.closed, sound.settled, fun h => absurd h underWay.1,
      fun h => absurd h underWay.2, sound.warning, sound.recovering, sound.faulted,
      fun h => (Bool.false_ne_true (clear.symm.trans h)).elim, sound.recovery⟩

/-- MODE and DAM may change at any gate in service. -/
theorem Gate.Sound.withHolds (sound : x.Sound kind) (inService : x.inService = true) {cs : Causes}
    (same : cs.interlock = x.causes.interlock) : (x.withCauses cs).Sound kind :=
  sound.withCauses inService fun set => .inr (sound.interlock (same ▸ set))

/-- INTERLOCK may leave any gate in service. -/
theorem Gate.Sound.withoutInterlock (sound : x.Sound kind) (inService : x.inService = true) {cs : Causes}
    (clear : cs.interlock = false) : (x.withCauses cs).Sound kind :=
  sound.withCauses inService fun set => by rw [clear] at set; cases set

/-! ### Faults, service (R4, R5, R16) -/

theorem Gate.faulted_sound (x : Gate) (cause : FaultCause) : (x.faulted cause).Sound kind := .ofFaulted rfl rfl rfl rfl

theorem Gate.exited_sound (x : Gate) : x.exited.Sound kind := .ofRest rfl rfl rfl rfl rfl rfl

theorem Gate.Sound.entered (sound : x.Sound kind) (out : x.inService = false) (mode : Mode) (held : Bool) :
    (x.entered kind mode held).Sound kind := by
  have state : x.state = .outOfService := by simpa [Gate.inService] using out
  have stopped : x.recoveryTimer = .stopped := sound.restStopped (by simp [state])
  by_cases shut : kind = .flood ∧ x.feedback = 0
  · obtain ⟨flood, zero⟩ := shut
    exact .ofClosed (by simp [Gate.entered, flood, zero]) flood zero zero rfl stopped
  · refine .ofSettled (by simpa [Gate.entered] using shut) rfl (fun flood => ?_) rfl stopped
    exact Nat.pos_of_ne_zero fun zero => shut ⟨flood, zero⟩

/-! ### Dwells and settling (R6, R9, R21) -/

theorem Gate.Sound.recovered (sound : x.Sound kind) (state : x.state = .recovering) : x.recovered.Sound kind := by
  obtain ⟨flood, command⟩ := sound.recovering state
  have clear := sound.noInterlock (by simp [state])
  unfold Gate.recovered
  by_cases zero : x.target = 0
  · rw [if_pos zero]
    exact .ofClosed rfl flood zero command clear rfl
  · rw [if_neg zero, Causes.moveState_eq]
    exact .ofMove rfl (by simpa [command] using zero) rfl

theorem Gate.Sound.released (sound : x.Sound kind) (state : x.state = .warning) :
    ({ x with state := x.moveState }).Sound kind := by
  obtain ⟨-, command, target⟩ := sound.warning state
  rw [Causes.moveState_eq]
  exact .ofMove rfl (by show x.target ≠ x.command; omega) (sound.restStopped (by simp [state]))

theorem Gate.ended_sound (arrived : x.target = x.command) (recovery : x.recoveryTimer = .stopped) (dwell : Nat) :
    (x.ended kind dwell).Sound kind := by
  by_cases shut : kind = .flood ∧ x.command = 0
  · obtain ⟨flood, zero⟩ := shut
    by_cases now : dwell = 0
    · exact .ofClosed (by simp [Gate.ended, flood, zero, now]) flood (arrived.trans zero) zero rfl
        (by simp [Gate.ended, flood, zero, now])
    · exact .ofRecovering (by simp [Gate.ended, flood, zero, now]) flood zero rfl
  · refine .ofSettled (by simp only [Gate.ended, if_neg shut]) arrived (fun flood => ?_) rfl
      (by simpa only [Gate.ended, if_neg shut] using recovery)
    exact Nat.pos_of_ne_zero fun zero => shut ⟨flood, zero⟩

/-! ### Grants (R85 to R87) -/

theorem Gate.Sound.stepped (sound : x.Sound kind) (state : x.state = .moving) {c : GateConfig} (same : c.kind = kind)
    (dwell : Nat) (tick : BitVec 32) : (x.stepped c dwell tick).Sound kind := by
  obtain ⟨outstanding, empty⟩ := sound.moving state
  have stopped := sound.restStopped (by simp [state])
  unfold Gate.stepped
  dsimp only
  split
  case isTrue arrived => exact same ▸ Gate.ended_sound arrived.symm stopped dwell
  case isFalse moves =>
    refine .ofMove ?_ (Ne.symm moves) stopped
    show x.state = x.causes.moveState
    rw [state, ← Causes.moveState_eq, Gate.moveState, if_pos empty]

/-! ### Commits (Table 3-3) -/

theorem Gate.Sound.committed (sound : x.Sound kind) {v : Nat} (change : v ≠ x.target) (wd rd : Nat) (w : Warning) :
    (x.committed kind wd rd w v).Sound kind := by
  have clear (state : x.state ≠ .held) := sound.noInterlock state
  have stopped (state : x.state ≠ .recovering) := sound.restStopped state
  have underWay (state : x.state = .moving ∨ x.state = .held) : (x.committed kind wd rd w v).Sound kind := by
    have recovery : x.recoveryTimer = .stopped := stopped (by obtain state | state := state <;> simp [state])
    by_cases arrived : v = x.command
    · rw [Gate.committed_arrived state arrived]
      exact Gate.ended_sound (x := { x with target := v }) arrived recovery rd
    · rw [Gate.committed_underWay state arrived]
      exact .ofMove rfl arrived recovery
  cases state : x.state with
  | moving => exact underWay (.inl state)
  | held => exact underWay (.inr state)
  | recovering =>
    rw [Gate.committed_recovering state]
    obtain ⟨flood, command⟩ := sound.recovering state
    exact .ofRecovering state flood command (clear (by simp [state]))
  | warning =>
    rw [Gate.committed_warning state]
    obtain ⟨flood, command, -⟩ := sound.warning state
    by_cases zero : v = 0
    · exact .ofClosed (by simp [zero]) flood zero command (clear (by simp [state])) (stopped (by simp [state]))
    · exact .ofWarning (by simp [zero]) flood command (Nat.pos_of_ne_zero zero) (clear (by simp [state]))
        (stopped (by simp [state]))
  | closed =>
    rw [Gate.committed_closed state (clear (by simp [state]))]
    obtain ⟨flood, target, command⟩ := sound.closed state
    have opens : v ≠ 0 := target ▸ change
    have recovery := stopped (by simp [state])
    have warned : ({ x with target := v, state := GateState.warning }).Sound kind :=
      .ofWarning rfl flood command (Nat.pos_of_ne_zero opens) (clear (by simp [state])) recovery
    have moves : ({ x with target := v, state := x.moveState }).Sound kind := by
      rw [Causes.moveState_eq]
      exact .ofMove rfl (by simpa [command] using opens) recovery
    unfold Gate.leaving
    cases w with
    | sounded => exact moves
    | sounding => exact warned
    | silent =>
      by_cases now : wd = 0
      · simpa [now] using moves
      · simpa [now] using warned
  | settled =>
    rw [Gate.committed_settled state (clear (by simp [state])), Causes.moveState_eq]
    obtain ⟨arrived, -⟩ := sound.settled state
    exact .ofMove rfl (by show v ≠ x.command; omega) (stopped (by simp [state]))
  | outOfService => simpa [Gate.committed, state] using sound
  | faulted => simpa [Gate.committed, state] using sound

/-! ### Records that no state depends on -/

theorem Gate.Sound.tuned (sound : x.Sound kind) (h : x.Tuned y) : y.Sound kind := by
  obtain ⟨state, target, command, causes, recovery, lag, -⟩ := h
  constructor <;> rw [state] <;> try rw [causes]
  · intro out
    obtain ⟨arrived, empty, stopped⟩ := sound.rest out
    rw [target, command]
    exact ⟨arrived, empty, lag.elim (·.trans stopped) id⟩
  · rw [target, command]; exact sound.closed
  · rw [target, command]; exact sound.settled
  · rw [target, command]; exact sound.moving
  · rw [target, command]; exact sound.held
  · rw [target, command]; exact sound.warning
  · rw [command]; exact sound.recovering
  · rw [target, command]; exact sound.faulted
  · exact sound.interlock
  · rw [recovery]; exact sound.recovery

theorem Timer.count_stopped (t : Timer) : t.count = .stopped ↔ t = .stopped := by
  cases t <;> simp [Timer.count]

theorem Gate.Sound.counted (sound : x.Sound kind) : x.counted.Sound kind where
  rest := fun out => by
    obtain ⟨arrived, empty, stopped⟩ := sound.rest out
    exact ⟨arrived, empty, (Timer.count_stopped _).mpr stopped⟩
  closed := sound.closed
  settled := sound.settled
  moving := sound.moving
  held := sound.held
  warning := sound.warning
  recovering := sound.recovering
  faulted := sound.faulted
  interlock := sound.interlock
  recovery := fun runs => sound.recovery fun stopped => runs ((Timer.count_stopped _).mpr stopped)

theorem Gate.Sound.ungranted (sound : x.Sound kind) : ({ x with lastGrant := none }).Sound kind :=
  ⟨sound.rest, sound.closed, sound.settled, sound.moving, sound.held, sound.warning, sound.recovering, sound.faulted,
    sound.interlock, sound.recovery⟩

/-- A gate out of service is sound at any kind. -/
theorem Gate.Sound.ofKind (sound : x.Sound kind) (out : x.inService = false) (other : GateKind) : x.Sound other := by
  have state : x.state = .outOfService := by simpa [Gate.inService] using out
  obtain ⟨arrived, empty, stopped⟩ := sound.rest state
  exact .ofRest state arrived empty (sound.noInterlock (by simp [state])) stopped
    (sound.restStopped (by simp [state]))

end Records

end Sys2Proof.Machine
end

section
/-! Every step keeps the gates sound, and the queue (R74). -/

namespace Sys2Proof.Machine

open Relation (ReflTransGen)

/-! ### The queue (R74) -/

/-- The queue holds no gate twice, each MOVING, and only in RUN. -/
structure QueueOk (p : Dyn) : Prop where
  distinct : p.queue.Nodup
  moving : ∀ g ∈ p.queue, (p.gates.get g).state = .moving
  run : ∀ g ∈ p.queue, p.mode = .run

theorem QueueOk.of_eq {p q : Dyn} (h : QueueOk p) (gates : q.gates = p.gates) (queue : q.queue.Sublist p.queue)
    (mode : q.mode = p.mode) : QueueOk q where
  distinct := h.distinct.sublist queue
  moving := fun g hg => by rw [gates]; exact h.moving g (queue.subset hg)
  run := fun g hg => mode.trans (h.run g (queue.subset hg))

theorem QueueOk.empty {p : Dyn} (queue : p.queue = []) : QueueOk p where
  distinct := queue ▸ List.nodup_nil
  moving := fun g hg => by rw [queue] at hg; cases hg
  run := fun g hg => by rw [queue] at hg; cases hg

theorem QueueOk.queue_of_mode {p : Dyn} (h : QueueOk p) (mode : p.mode ≠ .run) : p.queue = [] :=
  List.eq_nil_iff_forall_not_mem.mpr fun g hg => mode (h.run g hg)

/-- A gate that is put leaves the queue unless it is MOVING. -/
theorem QueueOk.put {p : Dyn} (h : QueueOk p) (g : GateId) (x : Gate) : QueueOk (putGate g x p) where
  distinct := h.distinct.sublist (putGate_queue_sublist g x p)
  moving := fun k hk => by
    rw [putGate_get]
    rw [putGate_queue] at hk
    by_cases same : k = g
    · rw [if_pos same]
      by_contra rest
      rw [if_neg (by simpa using rest)] at hk
      simp [same] at hk
    · rw [if_neg same]
      refine h.moving k ?_
      split at hk
      · exact hk
      · exact (List.mem_filter.mp hk).1
  run := fun k hk => by
    rw [putGate_mode]
    exact h.run k ((putGate_queue_sublist g x p).subset hk)

theorem QueueOk.fold {α : Type} {f : Dyn → α → Dyn} (each : ∀ p x, QueueOk p → QueueOk (f p x)) :
    (l : List α) → {p : Dyn} → QueueOk p → QueueOk (l.foldl f p)
  | [], _, h => h
  | x :: l, _, h => QueueOk.fold each l (each _ x h)

theorem QueueOk.eachGate {p : Dyn} (h : QueueOk p) (sel : GateId → Gate → Bool) (new : GateId → Gate → Gate) :
    QueueOk (eachGate sel new p) :=
  QueueOk.fold (fun p g h => by split; exacts [h.put g _, h]) _ h

theorem QueueOk.setWarning {p : Dyn} (h : QueueOk p) (d : DamId) (w : Warning) (t : Timer) :
    QueueOk (setWarning d w t p) :=
  h.of_eq (setWarning_gates _ _ _ _) (by rw [setWarning_queue]) (setWarning_mode _ _ _ _)

theorem QueueOk.dwellEnds {p : Dyn} (h : QueueOk p) (c : Tables) (d : DamId) : QueueOk (dwellEnds c d p) := by
  rw [Machine.dwellEnds, releaseWarning_eq_eachGate]
  exact (h.setWarning d .sounded .stopped).eachGate _ _

theorem QueueOk.changeCauses {p : Dyn} (h : QueueOk p) (sel : GateId → Bool) (f : Causes → Causes) :
    QueueOk (changeCauses sel f p) := by
  rw [changeCauses_eq_eachGate]
  exact h.eachGate _ _

theorem QueueOk.silenceCheckOf {p : Dyn} (h : QueueOk p) (c : Tables) (g : GateId) : QueueOk (silenceCheckOf c g p) :=
  h.of_eq (silenceCheckOf_gates _ _ _) (by rw [silenceCheckOf_queue]) (congrArg Prod.fst (silenceCheckOf_work c g p))

theorem QueueOk.recoveryEnds {p : Dyn} (h : QueueOk p) (c : Tables) (g : GateId) : QueueOk (recoveryEnds c g p) := by
  unfold Machine.recoveryEnds
  dsimp only
  split
  · exact (h.put g _).silenceCheckOf c g
  · exact h.put g _

theorem QueueOk.settle {p : Dyn} (h : QueueOk p) (c : Tables) (g : GateId) : QueueOk (settle c g p) := by
  unfold Machine.settle
  dsimp only
  split
  · split
    · exact (h.put g _).recoveryEnds c g
    · exact h.put g _
  · exact h.put g _

theorem QueueOk.grant {p : Dyn} (h : QueueOk p) (c : Tables) (g : GateId) : QueueOk (grant c g p) := by
  have stepped (dir : Direction) (x : Gate) : QueueOk (recordStep c g dir (putGate g x (dequeue g p))) := by
    have put := (h.of_eq (q := dequeue g p) rfl List.filter_sublist rfl).put g x
    unfold recordStep
    split
    · exact put.of_eq rfl (.refl _) rfl
    · exact put
  unfold Machine.grant
  dsimp only
  split
  · exact (stepped _ _).settle c g
  · exact stepped _ _

theorem QueueOk.soundForOrder {p : Dyn} (h : QueueOk p) (c : Tables) (g : GateId) (d : DamId) :
    QueueOk (soundForOrder c g d p) := by
  unfold Machine.soundForOrder
  dsimp only
  split
  · exact h.put g _
  · exact h.put g _
  · split
    · exact ((h.put g _).setWarning d _ _).dwellEnds c d
    · exact (h.put g _).setWarning d _ _

theorem QueueOk.soundForEntry {p : Dyn} (h : QueueOk p) (c : Tables) (g : GateId) (d : DamId) (n : Nat) :
    QueueOk (soundForEntry c g d n p) := by
  unfold Machine.soundForEntry soundAtEntry
  split
  · split
    · exact h.setWarning d _ _
    · exact h.dwellEnds c d
    · exact h
  · exact h

theorem QueueOk.commitTarget {p : Dyn} (h : QueueOk p) (c : Tables) (g : GateId) (v : Nat) :
    QueueOk (commitTarget c g v p) := by
  unfold Machine.commitTarget
  dsimp only
  split
  case h_1 => exact h.put g _
  case h_2 =>
    split
    · exact (h.put g _).silenceCheckOf c g
    · exact h.put g _
  case h_3 =>
    split
    · exact (h.put g _).settle c g
    · split
      · exact (h.put g _).soundForOrder c g _
      · exact h.put g _
  case h_4 | h_5 | h_6 =>
    split
    · exact (h.put g _).settle c g
    · exact h.put g _
  case h_7 | h_8 => exact h

/-! ### Gates and queue together -/

/-- Every gate record agrees with its state and its kind, and the queue is sound. -/
structure SoundAt (c : Tables) (p : Dyn) : Prop where
  queue : QueueOk p
  gate : ∀ g, (p.gates.get g).Sound (c.gates.get g).kind

theorem gatesSound_iff {s : State} : GatesSound s ↔ SoundAt s.tables s.dyn := by
  constructor
  · rintro ⟨⟨distinct, queued⟩, gates⟩
    exact ⟨⟨distinct, fun g hg => (queued g hg).1, fun g hg => (queued g hg).2.2⟩, gates⟩
  · rintro ⟨⟨distinct, moving, run⟩, gates⟩
    exact ⟨⟨distinct, fun g hg => ⟨moving g hg, ((gates g).moving (moving g hg)).2, run g hg⟩⟩, gates⟩

theorem SoundAt.of_gates {c : Tables} {p q : Dyn} (h : SoundAt c p) (queue : QueueOk q) (gates : q.gates = p.gates) :
    SoundAt c q := ⟨queue, fun g => gates ▸ h.gate g⟩

/-- Gates, queue and mode give the gates' soundness. -/
theorem SoundAt.of_eq {c : Tables} {p q : Dyn} (h : SoundAt c p) (gates : q.gates = p.gates)
    (queue : q.queue = p.queue) (mode : q.mode = p.mode) : SoundAt c q :=
  h.of_gates (h.queue.of_eq gates (by rw [queue]) mode) gates

theorem SoundAt.put {c : Tables} {p : Dyn} (h : SoundAt c p) {g : GateId} {x : Gate}
    (sound : x.Sound (c.gates.get g).kind) : SoundAt c (putGate g x p) where
  queue := h.queue.put g x
  gate := fun k => by
    rw [putGate_get]
    split
    · next same => exact same ▸ sound
    · exact h.gate k

theorem Gate.inService_of_lag {x : Gate} {kind : GateKind} (sound : x.Sound kind)
    (acts : x.inService = true ∨ x.lagTimer ≠ .stopped) : x.inService = true := by
  by_contra out
  have state : x.state = .outOfService := by simpa [Gate.inService] using out
  exact acts.elim out fun runs => runs (sound.rest state).2.2

theorem Gate.inService_of_state {x : Gate} {st : GateState} (state : x.state = st) (h : st ≠ .outOfService) :
    x.inService = true := by
  simp [Gate.inService, state, h]

theorem SoundAt.holds {c : Tables} {p : Dyn} (h : SoundAt c p) {sel : GateId → Bool} {f : Causes → Causes}
    (same : ∀ cs : Causes, (f cs).interlock = cs.interlock) : SoundAt c (changeCauses sel f p) where
  queue := h.queue.changeCauses _ _
  gate := fun g => by
    rw [changeCauses_get]
    split
    case isTrue picked =>
      exact (h.gate g).withHolds (by simp at picked; exact picked.1) (same _)
    case isFalse => exact h.gate g

theorem SoundAt.markReach {c : Tables} {p : Dyn} (h : SoundAt c p) (r : ReachId) : SoundAt c (markReach r p) :=
  h.of_eq (markReach_gates r p) (markReach_queue r p) (markReach_mode r p)

theorem SoundAt.putDam {c : Tables} {p : Dyn} (h : SoundAt c p) (d : DamId) (x : Dam) : SoundAt c (putDam d x p) :=
  h.of_eq rfl rfl rfl

theorem SoundAt.setHold {c : Tables} {p : Dyn} (h : SoundAt c p) (d : DamId) : SoundAt c (setHold c d p) := by
  unfold Machine.setHold
  dsimp only
  split
  · exact h
  · exact ((h.putDam d _).holds (fun _ => by rfl)).markReach d

theorem SoundAt.clearHold {c : Tables} {p : Dyn} (h : SoundAt c p) (d : DamId) : SoundAt c (clearHold c d p) := by
  unfold Machine.clearHold
  dsimp only
  split
  · exact ((h.putDam d _).holds (fun _ => by rfl)).markReach d
  · exact h

/-- The entry into HOLD from RUN empties the queue: every gate in it gains MODE. -/
theorem holdAll_queue {p : Dyn} (moving : ∀ g ∈ p.queue, (p.gates.get g).state = .moving) :
    (changeCauses (fun _ => true) (fun cs => { cs with mode := true }) p).queue = [] := by
  rw [changeCauses_queue, List.filter_eq_nil_iff]
  intro g hg
  have state := moving g hg
  rw [Gate.withCauses_underWay (.inl state)]
  simp [Gate.inService, state, Causes.moveState]

theorem SoundAt.enterHold {c : Tables} {p : Dyn} (h : SoundAt c p) : SoundAt c (enterHold p) := by
  unfold Machine.enterHold
  split
  case h_1 run =>
    refine ⟨.empty (holdAll_queue fun g hg => ?_), fun g => ?_⟩
    · simp only [markSummary_gates, uncredit_gates]
      exact h.queue.moving g (by simpa using hg)
    · rw [changeCauses_get]
      simp only [markSummary_gates, uncredit_gates, Bool.and_true]
      split
      case isTrue inService => exact (h.gate g).withHolds inService rfl
      case isFalse => exact h.gate g
  case h_2 exiting =>
    refine ⟨.empty ?_, fun g => ?_⟩
    · simpa using h.queue.queue_of_mode (by simp [exiting])
    · simpa using h.gate g
  case h_3 => exact h
  case h_4 => exact h

theorem LinkStep.soundAt {c : Tables} {p q : Dyn} (h : LinkStep c p q) (sound : SoundAt c p) : SoundAt c q := by
  cases h with
  | record r => exact sound.of_eq (by simp) (by simp) (by simp)
  | hold d => exact sound.setHold d
  | enterHold => exact sound.enterHold
  | alarm k => exact sound.of_eq rfl rfl rfl
  | exceeded d b => exact sound.of_eq rfl rfl rfl
  | markReach r => exact sound.of_eq rfl rfl rfl

theorem Linked.soundAt {c : Tables} {p q : Dyn} (h : Linked c p q) : SoundAt c p → SoundAt c q :=
  chain_keeps (P := SoundAt c) (fun _ _ => LinkStep.soundAt) h

theorem SoundAt.dwellEnds {c : Tables} {p : Dyn} (h : SoundAt c p) (d : DamId) : SoundAt c (dwellEnds c d p) where
  queue := h.queue.dwellEnds c d
  gate := fun g => by
    rw [dwellEnds_get]
    split
    case isTrue waits => exact (h.gate g).released (by simp at waits; exact waits.2)
    case isFalse => exact h.gate g

theorem SoundAt.soundForEntry {c : Tables} {p : Dyn} (h : SoundAt c p) (g : GateId) (d : DamId) (n : Nat) :
    SoundAt c (soundForEntry c g d n p) := by
  unfold Machine.soundForEntry soundAtEntry
  split
  · split
    · exact h.of_gates (h.queue.setWarning d _ _) (setWarning_gates _ _ _ _)
    · exact h.dwellEnds d
    · exact h
  · exact h

theorem SoundAt.commitTarget {c : Tables} {p : Dyn} (h : SoundAt c p) {g : GateId} {v : Nat}
    (change : v ≠ (p.gates.get g).target) : SoundAt c (commitTarget c g v p) where
  queue := h.queue.commitTarget c g v
  gate := fun k => by
    by_cases same : k = g
    · subst same
      rw [commitTarget_get_self (h.gate k) change]
      exact (h.gate k).committed change _ _ _
    · obtain kept | ⟨-, -, waits, -, released⟩ := commitTarget_get_other (c := c) (g := g) (v := v) (p := p) same
      · rw [kept]; exact h.gate k
      · rw [released]; exact (h.gate k).released waits

theorem commitItems_cons (c : Tables) (e : Item) (items : List Item) (p : Dyn) :
    commitItems c (e :: items) p =
      commitItems c items (if e.2 = (p.gates.get e.1).target then p else commitTarget c e.1 e.2 p) := rfl

theorem SoundAt.commitItems {c : Tables} : (items : List Item) → {p : Dyn} → SoundAt c p →
    SoundAt c (commitItems c items p)
  | [], _, h => h
  | e :: items, p, h => by
    rw [commitItems_cons]
    refine SoundAt.commitItems items ?_
    split
    case isTrue => exact h
    case isFalse change => exact h.commitTarget change

theorem Turn.soundAt {c : Tables} {p q : Dyn} (h : Turn True c p q) (sound : SoundAt c p) : SoundAt c q := by
  have inQueue {g : GateId} (queued : True → g ∈ p.queue) : (p.gates.get g).state = .moving :=
    sound.queue.moving g (queued trivial)
  cases h with
  | link h => exact h.soundAt sound
  | @join g joins =>
    obtain ⟨run, moving⟩ := joinable_run joins
    refine ⟨⟨nodup_append_single sound.queue.distinct (not_mem_queue_of_joinable joins), fun k hk => ?_,
      fun _ _ => run⟩, sound.gate⟩
    obtain old | new := List.mem_append.mp hk
    · exact sound.queue.moving k old
    · rw [List.mem_singleton.mp new]; exact moving
  | @grant g queued _ =>
    refine ⟨sound.queue.grant c g, fun k => ?_⟩
    rw [grant_get]
    split
    · next same => exact same ▸ (sound.gate g).stepped (inQueue queued) rfl _ _
    · exact sound.gate k
  | @lose g k queued _ =>
    have state := inQueue queued
    refine (sound.of_gates (sound.queue.of_eq (q := dequeue g p) rfl List.filter_sublist rfl) rfl).put ?_
    exact (sound.gate g).withCauses (Gate.inService_of_state state (by simp)) fun _ => .inl state
  | @fault g cause acts =>
    exact (sound.put (g := g) (Gate.faulted_sound _ cause)).of_eq rfl rfl rfl
  | @recover g runs =>
    refine ⟨sound.queue.recoveryEnds c g, fun k => ?_⟩
    rw [recoveryEnds_get]
    split
    · next same => exact same ▸ (sound.gate g).recovered ((sound.gate g).recovery runs)
    · exact sound.gate k
  | dwell d => exact sound.dwellEnds d
  | @enter u g d out _ linked =>
    have entered : SoundAt c (enteredAt c g d p) :=
      (sound.put (g := g) ((sound.gate g).entered out p.mode (p.dams.get d).hold)).of_eq rfl rfl rfl
    exact (linked.soundAt entered).soundForEntry g d _
  | @exit g _ => exact (sound.put (g := g) (Gate.exited_sound _)).of_eq rfl rfl rfl
  | silence g => exact sound.of_gates (sound.queue.silenceCheckOf c g) (silenceCheckOf_gates _ _ _)
  | @commit u items _ linked =>
    exact SoundAt.commitItems items (linked.soundAt (sound.of_eq (q := admittedAt c items p) rfl rfl rfl))
  | @tune g y tuned => exact sound.put ((sound.gate g).tuned tuned)
  | age g =>
    refine ⟨⟨sound.queue.distinct, fun k hk => ?_, sound.queue.run⟩, fun k => ?_⟩
    · show ((Table.put p.gates g _).get k).state = _
      rw [put_get_ite]
      split
      · next same => exact sound.queue.moving g (same ▸ hk)
      · exact sound.queue.moving k hk
    · show ((Table.put p.gates g _).get k).Sound _
      rw [put_get_ite]
      split
      · next same => exact same ▸ (sound.gate g).ungranted
      · exact sound.gate k
  | forget d dir => exact sound.of_eq rfl rfl rfl
  | mark g => exact sound.of_eq rfl rfl rfl
  | level _ _ => exact sound.of_eq rfl rfl rfl
  | clearHold d => exact sound.clearHold d

theorem Turns.soundAt {c : Tables} {p q : Dyn} (h : Turns True c p q) : SoundAt c p → SoundAt c q :=
  chain_keeps (P := SoundAt c) (fun _ _ => Turn.soundAt) h

/-! ### Every effect -/

theorem SoundAt.of_plant {c : Tables} {p q : Dyn} (h : SoundAt c p) (plant : q.plant = p.plant) : SoundAt c q :=
  h.of_eq (congrArg Plant.gates plant) (congrArg Plant.queue plant) (congrArg Plant.mode plant)

theorem clearInterlocks_picked {c : Tables} {sel : CondId → Bool} {p : Dyn} {g : GateId}
    (h : interlockCleared c sel p g = true) : (p.gates.get g).inService = true := by
  simp only [interlockCleared, Bool.and_eq_true] at h
  exact h.1.1.1

theorem SoundAt.clearInterlocks {c : Tables} {p : Dyn} (h : SoundAt c p) (sel : CondId → Bool) :
    SoundAt c (clearInterlocks c sel p) where
  queue := h.queue.eachGate _ _
  gate := fun g => by
    rw [clearInterlocks_get]
    split
    case isTrue picked => exact (h.gate g).withoutInterlock (clearInterlocks_picked picked) rfl
    case isFalse => exact h.gate g

theorem TableStep.kind {p : Dyn} {c d : Tables} (h : TableStep p c d) (g : GateId) :
    (d.gates.get g).kind = (c.gates.get g).kind ∨ (p.gates.get g).inService = false := by
  cases h with
  | gate x out =>
    dsimp only
    rw [put_get_ite]
    split
    · next same => exact .inr (same ▸ out)
    · exact .inl rfl
  | _ => exact .inl rfl

theorem SoundAt.resumed {c : Tables} {p : Dyn} (h : SoundAt c p) (exiting : p.mode = .exiting) :
    SoundAt c (resumed p) := by
  have queue : p.queue = [] := h.queue.queue_of_mode (by simp [exiting])
  have started : SoundAt c (markSummary { p with mode := .run, debt := 0, progress := 0 }) :=
    ⟨.empty queue, h.gate⟩
  rw [Machine.resumed]
  exact started.holds (fun _ => by rfl)

theorem Effect.gatesSound {s t : State} (h : Effect True s t) (sound : GatesSound s) : GatesSound t := by
  have before := gatesSound_iff.mp sound
  have emptied (mode : s.dyn.mode ≠ .run) : s.dyn.queue = [] := before.queue.queue_of_mode mode
  cases h with
  | store => exact sound
  | pending => exact sound
  | turn h => exact gatesSound_iff.mpr (h.soundAt before)
  | desk plant _ => exact gatesSound_iff.mpr (before.of_plant plant)
  | @request q p j _ _ turns =>
    exact gatesSound_iff.mpr ((turns.soundAt (before.of_eq rfl rfl rfl)).of_eq rfl rfl rfl)
  | toRun config => exact gatesSound_iff.mpr ⟨.empty (emptied (by simp [config])), before.gate⟩
  | toConfig _ out =>
    refine gatesSound_iff.mpr ⟨.empty ?_, fun g => ?_⟩
    · show (uncredit s.dyn).queue = []
      rw [uncredit_queue, List.eq_nil_iff_forall_not_mem]
      intro g hg
      have inService := Gate.inService_of_state (before.queue.moving g hg) (by simp)
      rw [out g] at inService
      cases inService
    · show ((uncredit s.dyn).gates.get g).Sound _
      rw [uncredit_gates]
      exact before.gate g
  | toExiting hold => exact gatesSound_iff.mpr ⟨.empty (emptied (by simp [hold])), before.gate⟩
  | resume exiting =>
    refine gatesSound_iff.mpr ?_
    dsimp only
    exact before.resumed exiting
  | arrival =>
    have counted (g : GateId) : (countArrival s.dyn).gates.get g = (s.dyn.gates.get g).counted := Table.tab_get _ g
    refine gatesSound_iff.mpr ⟨⟨before.queue.distinct, fun g hg => ?_, before.queue.run⟩, fun g => ?_⟩
    · rw [counted]; exact before.queue.moving g hg
    · rw [counted]; exact (before.gate g).counted
  | statusWord n w =>
    refine gatesSound_iff.mpr ?_
    dsimp only
    exact SoundAt.clearInterlocks
      (before.of_eq (q := { s.dyn with statusWords := Table.put s.dyn.statusWords n w }) rfl rfl rfl) _
  | condition k x =>
    have reworded : SoundAt { s.tables with conditions := Table.put s.tables.conditions k x } s.dyn :=
      ⟨before.queue, before.gate⟩
    refine gatesSound_iff.mpr ?_
    dsimp only
    exact reworded.clearInterlocks _
  | reach _ _ => exact gatesSound_iff.mpr ⟨before.queue.of_eq rfl (.refl _) rfl, before.gate⟩
  | tables step =>
    refine gatesSound_iff.mpr ⟨before.queue, fun g => ?_⟩
    obtain same | out := step.kind g
    · exact same ▸ before.gate g
    · exact (before.gate g).ofKind out _
  | powerOn => exact State.IsInitial.gatesSound ⟨_, _, _, _, _, rfl⟩
  | resetLine => exact State.IsInitial.gatesSound ⟨_, _, _, _, _, rfl⟩

/-- Settles O55: every effect keeps the gates sound. -/
theorem everyStepKeepsTheGatesSound : Obligations.EveryStepKeepsTheGatesSound := fun _ _ =>
  step_keeps_of_soundEffect (fun _ sound => sound.1.1) fun _ _ => Effect.gatesSound

end Sys2Proof.Machine
end

section
/-! What the changes of a gate carry on: its service, target and feedback, the bound of its command, and the causes of a
hold (R6, R7, R12, R60, R85). -/

namespace Sys2Proof.Machine

open Relation (ReflTransGen)

/-! ### Records -/

/-- Gate record y has the target and feedback of x, and a command between its command and its target; where `S`, what is
known of the records, holds, it has its service, and INTERLOCK only with x's command. -/
structure Gate.Kept (S : Prop) (x y : Gate) : Prop where
  target : y.target = x.target
  command : y.command ≤ max x.command x.target
  feedback : y.feedback = x.feedback
  inService : S → y.inService = x.inService
  interlock : S → y.causes.interlock = true → x.causes.interlock = true ∧ y.command = x.command

/-- The same with the causes MODE and DAM. -/
structure Gate.Carried (S : Prop) (x y : Gate) : Prop extends Gate.Kept S x y where
  mode : y.causes.mode = x.causes.mode
  dam : y.causes.dam = x.causes.dam

section Records

variable {S : Prop} {x y z : Gate}

theorem Gate.Kept.refl (x : Gate) : x.Kept S x := ⟨rfl, le_max_left _ _, rfl, fun _ => rfl, fun _ set => ⟨set, rfl⟩⟩

theorem Gate.Kept.trans (h1 : x.Kept S y) (h2 : y.Kept S z) : x.Kept S z where
  target := h2.target.trans h1.target
  command := by
    have first := h1.command
    have second := h2.command
    rw [h1.target] at second
    omega
  feedback := h2.feedback.trans h1.feedback
  inService := fun known => (h2.inService known).trans (h1.inService known)
  interlock := fun known set => by
    obtain ⟨before, command⟩ := h2.interlock known set
    obtain ⟨start, first⟩ := h1.interlock known before
    exact ⟨start, command.trans first⟩

theorem Gate.Carried.refl (x : Gate) : x.Carried S x := ⟨.refl x, rfl, rfl⟩

theorem Gate.Carried.trans (h1 : x.Carried S y) (h2 : y.Carried S z) : x.Carried S z :=
  ⟨h1.toKept.trans h2.toKept, h2.mode.trans h1.mode, h2.dam.trans h1.dam⟩

theorem Gate.withCauses_inService (x : Gate) (cs : Causes) : (x.withCauses cs).inService = x.inService := by
  unfold Gate.withCauses Gate.inService
  cases x.state <;> cases cs.isEmpty <;> rfl

/-- A change of the hold-cause set that sets no INTERLOCK. -/
theorem Gate.Kept.withCauses (x : Gate) {cs : Causes} (interlock : cs.interlock = true → x.causes.interlock = true) :
    x.Kept S (x.withCauses cs) :=
  ⟨rfl, le_max_left _ _, rfl, fun _ => x.withCauses_inService cs, fun _ set => ⟨interlock set, rfl⟩⟩

theorem Gate.OnlyHolds.kept (h : x.OnlyHolds y) : x.Kept S y := by
  obtain rfl | ⟨-, cs, same, -, -, rfl⟩ := h
  · exact .refl _
  · exact .withCauses x fun set => same ▸ set

theorem Gate.moveState_ne (x : Gate) : x.moveState ≠ .outOfService := by
  rw [Causes.moveState_eq]
  obtain ⟨h, -⟩ | ⟨h, -⟩ := Causes.moveState_cases x.causes <;> simp [h]

/-- A change of the state, the two timers and the marks of a gate in service. -/
theorem Gate.Carried.ofState (target : y.target = x.target) (command : y.command = x.command)
    (feedback : y.feedback = x.feedback) (causes : y.causes = x.causes ∨ y.causes = { x.causes with interlock := false })
    (inService : S → x.inService = true) (state : y.state ≠ .outOfService) : x.Carried S y where
  target := target
  command := command ▸ le_max_left _ _
  feedback := feedback
  inService := fun known => by rw [inService known]; simpa [Gate.inService] using state
  interlock := fun _ set => by
    obtain same | clear := causes
    · exact ⟨same ▸ set, command⟩
    · rw [clear] at set; cases set
  mode := by obtain same | clear := causes <;> simp [*]
  dam := by obtain same | clear := causes <;> simp [*]

theorem steppedCommand_le_max (stepSize command target : Nat) :
    steppedCommand stepSize command target ≤ max command target := by
  unfold steppedCommand
  split <;> omega

/-- A step keeps the causes of a gate that carries no INTERLOCK. -/
theorem Gate.Carried.granted (x : Gate) (clear : S → x.causes.interlock = false) (c : GateConfig) (tick : BitVec 32) :
    x.Carried S (x.granted c tick) where
  target := rfl
  command := steppedCommand_le_max _ _ _
  feedback := rfl
  inService := fun _ => rfl
  interlock := fun known set => (Bool.false_ne_true ((clear known).symm.trans set)).elim
  mode := rfl
  dam := rfl

end Records

/-! ### States -/

/-- Every record is kept, with the totals. -/
structure Kept (S : Prop) (p q : Dyn) : Prop where
  gates : ∀ g, (p.gates.get g).Kept S (q.gates.get g)
  totals : q.totals = p.totals

/-- Every record is carried on, with the totals, the mode and the hold flags. -/
structure Carried (S : Prop) (p q : Dyn) : Prop where
  gates : ∀ g, (p.gates.get g).Carried S (q.gates.get g)
  totals : q.totals = p.totals
  mode : q.mode = p.mode
  hold : ∀ d, (q.dams.get d).hold = (p.dams.get d).hold

section States

variable {S : Prop} {c : Tables} {p q r : Dyn}

theorem Carried.kept (h : Carried S p q) : Kept S p q := ⟨fun g => (h.gates g).toKept, h.totals⟩

theorem Kept.refl (p : Dyn) : Kept S p p := ⟨fun _ => .refl _, rfl⟩

theorem Kept.trans (h1 : Kept S p q) (h2 : Kept S q r) : Kept S p r :=
  ⟨fun g => (h1.gates g).trans (h2.gates g), h2.totals.trans h1.totals⟩

theorem Carried.refl (p : Dyn) : Carried S p p := ⟨fun _ => .refl _, rfl, rfl, fun _ => rfl⟩

theorem Carried.trans (h1 : Carried S p q) (h2 : Carried S q r) : Carried S p r :=
  ⟨fun g => (h1.gates g).trans (h2.gates g), h2.totals.trans h1.totals,
    h2.mode.trans h1.mode, fun d => (h2.hold d).trans (h1.hold d)⟩

theorem Carried.of_gates (gates : q.gates = p.gates) (totals : q.totals = p.totals)
    (mode : q.mode = p.mode)
    (hold : ∀ d, (q.dams.get d).hold = (p.dams.get d).hold) : Carried S p q :=
  ⟨fun g => by rw [gates]; exact .refl _, totals, mode, hold⟩

theorem Linked.kept (h : Linked c p q) : Kept S p q :=
  ⟨fun g => (h.frame.gates g).kept, h.frame.totals⟩

/-! ### Operations -/

theorem Carried.put {g : GateId} {x : Gate} (h : (p.gates.get g).Carried S x) : Carried S p (putGate g x p) where
  gates := fun k => by
    rw [putGate_get]
    split
    · next same => exact same ▸ h
    · exact .refl _
  totals := putGate_totals g x p
  mode := putGate_mode g x p
  hold := fun d => by rw [putGate_dams]

theorem Carried.setWarning (d : DamId) (w : Warning) (t : Timer) (p : Dyn) : Carried S p (setWarning d w t p) := by
  have totals : (Machine.setWarning d w t p).totals = p.totals := by
    unfold Machine.setWarning
    dsimp only
    split <;> simp
  refine .of_gates (setWarning_gates d w t p) totals (setWarning_mode d w t p) fun e => ?_
  rw [setWarning_dams, put_get_ite]
  split
  · next same => rw [same]
  · rfl

theorem Carried.silenceCheckOf (c : Tables) (g : GateId) (p : Dyn) : Carried S p (silenceCheckOf c g p) := by
  unfold Machine.silenceCheckOf silenceCheck
  split
  case h_1 =>
    split
    · exact .setWarning _ _ _ _
    · exact .refl p
  case h_2 => exact .refl p
  case h_3 => exact .refl p

theorem Carried.releaseWarning (c : Tables) (d : DamId) (p : Dyn) : Carried S p (releaseWarning c d p) where
  gates := fun g => by
    rw [releaseWarning_get]
    split
    case isTrue waits =>
      refine .ofState rfl rfl rfl (.inl rfl) (fun _ => ?_) (Gate.moveState_ne _)
      simp at waits
      simp [Gate.inService, waits.2]
    case isFalse => exact .refl _
  totals := releaseWarning_keeps Dyn.totals putGate_totals c d p
  mode := releaseWarning_keeps Dyn.mode putGate_mode c d p
  hold := fun e => by rw [releaseWarning_dams]

theorem Carried.dwellEnds (c : Tables) (d : DamId) (p : Dyn) : Carried S p (dwellEnds c d p) :=
  (Carried.setWarning d _ _ p).trans (.releaseWarning c d _)

theorem Carried.recoveryEnds (c : Tables) {g : GateId} (inService : S → (p.gates.get g).inService = true) :
    Carried S p (recoveryEnds c g p) := by
  unfold Machine.recoveryEnds
  dsimp only
  split
  · refine Carried.trans (.put ?_) (.silenceCheckOf c g _)
    exact .ofState rfl rfl rfl (.inl rfl) inService (by simp)
  · exact .put (.ofState rfl rfl rfl (.inl rfl) inService (Gate.moveState_ne _))

theorem Carried.settle (c : Tables) {g : GateId} (inService : S → (p.gates.get g).inService = true) :
    Carried S p (settle c g p) := by
  unfold Machine.settle
  dsimp only
  split
  · have recovers (t : Timer) : Carried S p (putGate g
        { p.gates.get g with
          state := .recovering, causes := { (p.gates.get g).causes with interlock := false }, recoveryTimer := t } p) :=
      .put (.ofState rfl rfl rfl (.inr rfl) inService (by simp))
    split
    · exact (recovers _).trans (.recoveryEnds c fun _ => by rw [putGate_get, if_pos rfl]; rfl)
    · exact recovers _
  · exact .put (.ofState rfl rfl rfl (.inr rfl) inService (by simp))

theorem Carried.recordStep (c : Tables) (g : GateId) (dir : Direction) (p : Dyn) :
    Carried S p (recordStep c g dir p) := by
  unfold Machine.recordStep
  split
  case h_1 d _ =>
    refine .of_gates rfl rfl rfl fun e => ?_
    rw [putDam_dams, put_get_ite]
    split
    · next same => rw [same]; cases dir <;> rfl
    · rfl
  case h_2 => exact .refl p

theorem Carried.grant (c : Tables) {g : GateId} (inService : S → (p.gates.get g).inService = true)
    (clear : S → (p.gates.get g).causes.interlock = false) : Carried S p (grant c g p) := by
  have steps (dir : Direction) : Carried S p (Machine.recordStep c g dir
      (putGate g ((p.gates.get g).granted (c.gates.get g) p.tick) (dequeue g p))) :=
    Carried.trans (q := dequeue g p) (.of_gates rfl rfl rfl fun _ => rfl)
      ((Carried.put (p := dequeue g p) (.granted _ clear (c.gates.get g) p.tick)).trans (.recordStep c g dir _))
  unfold Machine.grant
  dsimp only
  split
  · refine (steps _).trans (.settle c fun known => ?_)
    rw [((steps _).gates g).inService known]
    exact inService known
  · exact steps _

theorem Carried.soundForOrder (c : Tables) {g : GateId} (d : DamId) (inService : S → (p.gates.get g).inService = true) :
    Carried S p (soundForOrder c g d p) := by
  unfold Machine.soundForOrder
  dsimp only
  have warns : Carried S p (putGate g { p.gates.get g with state := .warning } p) :=
    .put (.ofState rfl rfl rfl (.inl rfl) inService (by simp))
  split
  · exact .put (.ofState rfl rfl rfl (.inl rfl) inService (Gate.moveState_ne _))
  · exact warns
  · split
    · exact warns.trans ((Carried.setWarning d _ _ _).trans (.dwellEnds c d _))
    · exact warns.trans (.setWarning d _ _ _)

theorem Carried.soundForEntry (c : Tables) (g : GateId) (d : DamId) (n : Nat) (p : Dyn) :
    Carried S p (soundForEntry c g d n p) := by
  unfold Machine.soundForEntry soundAtEntry
  split
  · split
    · exact .setWarning d _ _ p
    · exact .dwellEnds c d p
    · exact .refl p
  · exact .refl p

/-- A commit puts the target in a record that can take one, and carries the records on. -/
theorem Carried.commitTarget (c : Tables) {g : GateId} {v : Nat} (inService : (p.gates.get g).state ≠ .outOfService)
    (sound : (p.gates.get g).state ≠ .faulted) :
    Carried S (putGate g ((p.gates.get g).retargeted v) p) (commitTarget c g v p) := by
  have moves (st : GateState) (rest : st ≠ .outOfService) : Carried S (putGate g ((p.gates.get g).retargeted v) p)
      (putGate g { (p.gates.get g).retargeted v with state := st } p) := by
    refine ⟨fun k => ?_, by simp, by simp, fun d => by simp⟩
    rw [putGate_get, putGate_get]
    split
    · exact .ofState rfl rfl rfl (.inl rfl) (fun _ => by simpa [Gate.inService, Gate.retargeted] using inService) rest
    · exact .refl _
  have stays : (putGate g ((p.gates.get g).retargeted v) p).gates.get g = (p.gates.get g).retargeted v := by
    rw [putGate_get, if_pos rfl]
  have settles : Carried S (putGate g ((p.gates.get g).retargeted v) p)
      (Machine.settle c g (putGate g ((p.gates.get g).retargeted v) p)) :=
    .settle c fun _ => by rw [stays]; simpa [Gate.inService, Gate.retargeted] using inService
  unfold Machine.commitTarget
  dsimp only
  split
  case h_1 => exact .refl _
  case h_2 =>
    split
    · exact (moves .closed (by simp)).trans (.silenceCheckOf c g _)
    · exact .refl _
  case h_3 =>
    split
    · exact settles
    · split
      · exact .soundForOrder c _ fun _ => by rw [stays]; simpa [Gate.inService, Gate.retargeted] using inService
      · exact moves _ (Gate.moveState_ne _)
  case h_4 | h_5 | h_6 =>
    split
    · exact settles
    · exact moves _ (Gate.moveState_ne _)
  case h_7 out => exact absurd out inService
  case h_8 faulted => exact absurd faulted sound

/-- A gate out of service or FAULTED takes no target. -/
theorem commitTarget_of_noTarget (c : Tables) {g : GateId} (v : Nat)
    (rest : (p.gates.get g).state = .outOfService ∨ (p.gates.get g).state = .faulted) : commitTarget c g v p = p := by
  obtain state | state := rest <;> simp [Machine.commitTarget, state]

theorem Kept.ofGates (gates : q.gates = p.gates) (totals : q.totals = p.totals) : Kept S p q :=
  ⟨fun g => by rw [gates]; exact .refl _, totals⟩

/-- A change of hold causes that sets no INTERLOCK. -/
theorem Kept.changeCauses (sel : GateId → Bool) {f : Causes → Causes}
    (interlock : ∀ cs, (f cs).interlock = true → cs.interlock = true) (p : Dyn) : Kept S p (changeCauses sel f p) where
  gates := fun g => by
    rw [changeCauses_get]
    split
    · exact .withCauses _ (interlock _)
    · exact .refl _
  totals := changeCauses_keeps Dyn.totals putGate_totals sel f p

theorem Kept.clearInterlocks (c : Tables) (sel : CondId → Bool) (p : Dyn) : Kept S p (clearInterlocks c sel p) where
  gates := fun g => by
    rw [clearInterlocks_get]
    split
    · exact .withCauses _ fun set => by simp at set
    · exact .refl _
  totals := clearInterlocks_keeps Dyn.totals putGate_totals c sel p

theorem Kept.resumed (p : Dyn) : Kept S p (resumed p) := by
  have marked : Kept S p (markSummary { p with mode := .run, debt := 0, progress := 0 }) := .ofGates rfl rfl
  rw [Machine.resumed]
  exact marked.trans (Kept.changeCauses (fun _ => true) (f := fun cs => { cs with mode := false }) (fun _ set => set) _)

theorem Kept.countArrival (p : Dyn) : Kept S p (countArrival p) where
  gates := fun g => by
    rw [show (Machine.countArrival p).gates.get g = (p.gates.get g).counted from Table.tab_get _ g]
    exact ⟨rfl, le_max_left _ _, rfl, fun _ => rfl, fun _ set => ⟨set, rfl⟩⟩
  totals := rfl

theorem Kept.clearHold (c : Tables) (d : DamId) (p : Dyn) : Kept S p (clearHold c d p) := by
  have cleared : Kept S p (putDam d { p.dams.get d with hold := false } p) := .ofGates rfl rfl
  have released := cleared.trans (Kept.changeCauses (fun g => (c.gates.get g).inDam d)
    (f := fun cs => { cs with dam := false }) (fun _ set => set) _)
  unfold Machine.clearHold
  dsimp only
  split
  · exact released.trans (.ofGates (markReach_gates d _) (markReach_totals d _))
  · exact .refl p

end States

end Sys2Proof.Machine
end

section
/-! Openings stay in range, and every total is the sum of its gates' releases (R14, R26, R51; O58). -/

namespace Sys2Proof.Machine

open Relation (ReflTransGen)

/-- What every effect keeps of a state whose gates are sound, every step keeps. -/
theorem step_keeps_with_gatesSound {X : State → Prop}
    (each : ∀ s t, Effect True s t → GatesSound s → X s → X t) (s t : State) (next : step s = .next t)
    (sound : GatesSound s) (start : X s) : X t :=
  (step_keeps_of_soundEffect (P := fun s => GatesSound s ∧ X s) (fun _ h => h.1.1.1)
    (fun s t effect h => ⟨effect.gatesSound h.1, each s t effect h.1 h.2⟩) next ⟨sound, start⟩).2

/-! ### Openings -/

/-- Target, command and feedback of a gate are openings. -/
def Gate.InRange (x : Gate) : Prop := x.target ≤ 1000 ∧ x.command ≤ 1000 ∧ x.feedback ≤ 1000

theorem Gate.Kept.inRange {S : Prop} {x y : Gate} (h : x.Kept S y) (start : x.InRange) : y.InRange := by
  obtain ⟨target, command, feedback⟩ := start
  refine ⟨h.target ▸ target, ?_, h.feedback ▸ feedback⟩
  have between := h.command
  omega

/-- Every gate's openings are in range. -/
def OpenAt (p : Dyn) : Prop := ∀ g, (p.gates.get g).InRange

theorem openingsInRange_iff {s : State} : OpeningsInRange s ↔ OpenAt s.dyn := Iff.rfl

theorem OpenAt.kept {S : Prop} {p q : Dyn} (h : Kept S p q) (start : OpenAt p) : OpenAt q :=
  fun g => (h.gates g).inRange (start g)

theorem OpenAt.put {p : Dyn} (start : OpenAt p) {g : GateId} {x : Gate} (h : x.InRange) : OpenAt (putGate g x p) :=
  fun k => by
    rw [putGate_get]
    split
    · exact h
    · exact start k

theorem OpenAt.commitTarget {c : Tables} {p : Dyn} (start : OpenAt p) (g : GateId) {v : Nat} (opening : v ≤ 1000) :
    OpenAt (commitTarget c g v p) := by
  by_cases takes : (p.gates.get g).state ≠ .outOfService ∧ (p.gates.get g).state ≠ .faulted
  · refine OpenAt.kept (Carried.commitTarget (S := False) c takes.1 takes.2).kept (start.put ?_)
    exact ⟨opening, (start g).2.1, (start g).2.2⟩
  · rw [commitTarget_of_noTarget c v (by rwa [not_and_or, not_not, not_not] at takes)]
    exact start

theorem OpenAt.commitItems {c : Tables} : (items : List Item) → (∀ e ∈ items, e.2 ≤ 1000) → {p : Dyn} → OpenAt p →
    OpenAt (commitItems c items p)
  | [], _, _, start => start
  | e :: items, opening, p, start => by
    rw [commitItems_cons]
    refine OpenAt.commitItems items (fun x hx => opening x (List.mem_cons_of_mem e hx)) ?_
    split
    · exact start
    · exact start.commitTarget e.1 (opening e List.mem_cons_self)

theorem Turn.openAt {c : Tables} {p q : Dyn} (h : Turn False c p q) (start : OpenAt p) : OpenAt q := by
  cases h with
  | link h => exact .kept (S := False) (Linked.kept (.single h)) start
  | join => exact start
  | grant => exact .kept (Carried.grant c False.elim False.elim).kept start
  | @lose g =>
    obtain ⟨target, command, feedback⟩ := start g
    exact OpenAt.put (p := dequeue g p) start ⟨target, command, feedback⟩
  | @fault g =>
    obtain ⟨-, command, feedback⟩ := start g
    exact .kept (S := False) (.ofGates rfl rfl) (start.put (g := g) ⟨command, command, feedback⟩)
  | recover => exact .kept (Carried.recoveryEnds c False.elim).kept start
  | dwell d => exact .kept (Carried.dwellEnds (S := False) c d p).kept start
  | @enter u g d _ _ linked =>
    have feedback := (start g).2.2
    have entered : OpenAt (enteredAt c g d p) := start.put (g := g) ⟨feedback, feedback, feedback⟩
    exact .kept (Carried.soundForEntry (S := False) c g d _ _).kept (entered.kept (Linked.kept (S := False) linked))
  | @exit g =>
    obtain ⟨-, command, feedback⟩ := start g
    exact start.put (g := g) ⟨command, command, feedback⟩
  | silence g => exact .kept (Carried.silenceCheckOf (S := False) c g p).kept start
  | commit admissible linked =>
    exact OpenAt.commitItems _ admissible.opening
      (OpenAt.kept (Linked.kept (S := False) linked) (OpenAt.kept (S := False) (.ofGates rfl rfl) start))
  | @tune g y tuned =>
    obtain ⟨target, command, feedback⟩ := start g
    exact start.put ⟨tuned.target ▸ target, tuned.command ▸ command,
      tuned.feedback.elim (fun same => same ▸ feedback) id⟩
  | age g =>
    intro k
    show ((Table.put p.gates g _).get k).InRange
    rw [put_get_ite]
    split
    · exact start g
    · exact start k
  | forget => exact start
  | mark => exact start
  | level => exact start
  | clearHold d => exact .kept (Kept.clearHold (S := False) c d p) start

theorem Turns.openAt {c : Tables} {p q : Dyn} (h : Turns False c p q) : OpenAt p → OpenAt q :=
  chain_keeps (P := OpenAt) (fun _ _ => Turn.openAt) h

theorem Effect.openingsInRange {s t : State} (h : Effect False s t) (start : OpeningsInRange s) : OpeningsInRange t := by
  have opened : OpenAt s.dyn := start
  cases h with
  | store => exact start
  | pending => exact start
  | turn h => exact h.openAt opened
  | @desk q plant =>
    have gates : q.gates = s.dyn.gates := congrArg Plant.gates plant
    exact opened.kept (S := False) (q := q) (.ofGates gates (congrArg Plant.totals plant))
  | request _ _ turns => exact turns.openAt (p := { s.dyn with portals := _ }) opened
  | toRun => exact start
  | toConfig => exact OpenAt.kept (S := False) (.ofGates (uncredit_gates _) (uncredit_totals _)) opened
  | toExiting => exact start
  | resume =>
    refine openingsInRange_iff.mpr ?_
    dsimp only
    exact OpenAt.kept (Kept.resumed (S := False) s.dyn) opened
  | arrival => exact OpenAt.kept (Kept.countArrival (S := False) s.dyn) opened
  | statusWord n w =>
    exact OpenAt.kept (Kept.clearInterlocks (S := False) _ _ _)
      (opened.kept (S := False) (q := { s.dyn with statusWords := Table.put s.dyn.statusWords n w }) (.ofGates rfl rfl))
  | condition k x => exact OpenAt.kept (Kept.clearInterlocks (S := False) _ _ s.dyn) opened
  | reach => exact start
  | tables => exact start
  | powerOn => exact State.IsInitial.openingsInRange ⟨_, _, _, _, _, rfl⟩
  | resetLine => exact State.IsInitial.openingsInRange ⟨_, _, _, _, _, rfl⟩

/-! ### Totals -/

/-- What gate record x counts in the total of dam d (R26). -/
def Gate.counts (x : Gate) (k : GateConfig) (d : DamId) : Nat :=
  if x.inService && k.inDam d then release k.coefficient x.target else 0

/-- What dam d's total shows beyond the releases of its gates. -/
def balance (c : Tables) (p : Dyn) (d : DamId) : Word :=
  p.totals.get d - ∑ g : GateId, BitVec.ofNat 16 ((p.gates.get g).counts (c.gates.get g) d)

theorem totalsExact_iff {s : State} : TotalsExact s ↔ ∀ d, balance s.tables s.dyn d = 0 := by
  refine forall_congr' fun d => ?_
  have sum : BitVec.ofNat 16 ((List.finRange 48).map (countedRelease s d)).sum =
      ∑ g : GateId, BitVec.ofNat 16 ((s.dyn.gates.get g).counts (s.tables.gates.get g) d) := by
    rw [← Fin.sum_univ_def]
    simp only [← BitVec.natCast_eq_ofNat]
    exact Nat.cast_sum _ _
  rw [sum, balance, sub_eq_zero]

section Balance

variable {c : Tables} {p q : Dyn} {d : DamId}

theorem balance_of_counts (totals : q.totals = p.totals)
    (same : ∀ g, (q.gates.get g).inService = (p.gates.get g).inService ∧ (q.gates.get g).target = (p.gates.get g).target) :
    balance c q d = balance c p d := by
  simp only [balance, totals, Gate.counts, same]

theorem Kept.balance (h : Kept True p q) : balance c q d = balance c p d :=
  balance_of_counts h.totals fun g => ⟨(h.gates g).inService trivial, (h.gates g).target⟩

/-- One gate put, and a total changed. -/
theorem balance_put {g : GateId} {x : Gate} (gates : q.gates = Table.put p.gates g x) :
    balance c q d = balance c p d + (q.totals.get d - p.totals.get d) -
      (BitVec.ofNat 16 (x.counts (c.gates.get g) d) -
        BitVec.ofNat 16 ((p.gates.get g).counts (c.gates.get g) d)) := by
  have others : ∑ k ∈ Finset.univ.erase g, BitVec.ofNat 16 ((q.gates.get k).counts (c.gates.get k) d) =
      ∑ k ∈ Finset.univ.erase g, BitVec.ofNat 16 ((p.gates.get k).counts (c.gates.get k) d) :=
    Finset.sum_congr rfl fun k hk => by rw [gates, put_get_ite, if_neg (Finset.ne_of_mem_erase hk)]
  have own : q.gates.get g = x := by rw [gates, put_get_ite, if_pos rfl]
  rw [balance, balance, ← Finset.add_sum_erase Finset.univ _ (Finset.mem_univ g),
    ← Finset.add_sum_erase Finset.univ _ (Finset.mem_univ g), others, own]
  ring

theorem movedTotals_get (c : Tables) (g : GateId) (old new : Nat) (t : Vector Word 6) (d : DamId) :
    (movedTotals c g old new t).get d =
      t.get d + if (c.gates.get g).inDam d then BitVec.ofNat 16 new - BitVec.ofNat 16 old else 0 := by
  unfold movedTotals
  split
  case h_1 e dam =>
    rw [put_get_ite]
    by_cases same : d = e
    · rw [if_pos same, same, if_pos (inDam_of_dam? dam), adjustTotal, add_sub_assoc]
    · rw [if_neg same, if_neg, add_zero]
      intro own
      exact same (Option.some.inj ((dam?_of_inDam own).symm.trans dam))
  case h_2 none =>
    rw [if_neg, add_zero]
    intro own
    rw [dam?_of_inDam own] at none
    cases none

theorem balance_setCauses {g : GateId} {cs : Causes} : balance c (setCauses g cs p) d = balance c p d :=
  balance_of_counts (putGate_totals _ _ p) fun k => by
    rw [setCauses, putGate_get]
    split
    · next same => subst same; exact ⟨Gate.withCauses_inService _ _, rfl⟩
    · exact ⟨rfl, rfl⟩

/-- A gate put with its total moved by what it counts leaves the balance. -/
theorem balance_moved {g : GateId} {x : Gate} {old new : Nat}
    (before : ∀ d, (c.gates.get g).inDam d = true → (p.gates.get g).counts (c.gates.get g) d = old)
    (after : ∀ d, (c.gates.get g).inDam d = true → x.counts (c.gates.get g) d = new) :
    balance c { putGate g x p with totals := movedTotals c g old new p.totals } d = balance c p d := by
  have put := balance_put (c := c) (p := p) (d := d) (g := g) (x := x)
    (q := { putGate g x p with totals := movedTotals c g old new p.totals }) (putGate_gates g x p)
  rw [put, movedTotals_get]
  by_cases own : (c.gates.get g).inDam d = true
  · rw [if_pos own, before d own, after d own]
    ring
  · simp [Gate.counts, own]

/-! ### Admissions -/

/-- What an item of an admission changes in dam d's total (R99). -/
def itemChange (c : Tables) (p : Dyn) (d : DamId) (e : Item) : Word :=
  if (c.gates.get e.1).inDam d then
    BitVec.ofNat 16 (releaseOf c e.1 e.2) - BitVec.ofNat 16 (releaseOf c e.1 (p.gates.get e.1).target)
  else 0

theorem itemChange_of_target {e : Item} (same : e.2 = (p.gates.get e.1).target) : itemChange c p d e = 0 := by
  simp [itemChange, same]

theorem finalTotals_releaseChange (g : GateId) (v : Nat) (t : Vector Word 6) :
    finalTotals (releaseChange c p g v) t = movedTotals c g (releaseOf c g (p.gates.get g).target) (releaseOf c g v) t := by
  unfold releaseChange movedTotals
  cases (c.gates.get g).dam? <;> rfl

theorem finalTotals_append (xs ys : List (DamId × Nat × Nat)) (t : Vector Word 6) :
    finalTotals (xs ++ ys) t = finalTotals ys (finalTotals xs t) := List.foldl_append

theorem finalTotals_batchChanges : (items : List Item) → (t : Vector Word 6) →
    (finalTotals (batchChanges c p items) t).get d = t.get d + (items.map (itemChange c p d)).sum
  | [], t => by simp [batchChanges, finalTotals]
  | e :: items, t => by
    have cons : batchChanges c p (e :: items) =
        (if e.2 = (p.gates.get e.1).target then [] else releaseChange c p e.1 e.2) ++ batchChanges c p items := rfl
    have first : (finalTotals (if e.2 = (p.gates.get e.1).target then [] else releaseChange c p e.1 e.2) t).get d =
        t.get d + itemChange c p d e := by
      split
      case isTrue same => rw [itemChange_of_target same, add_zero]; rfl
      case isFalse => rw [finalTotals_releaseChange, movedTotals_get, itemChange]
    rw [cons, finalTotals_append, finalTotals_batchChanges items, first, List.map_cons, List.sum_cons, add_assoc]

/-- A gate that takes a target: in service and not FAULTED. -/
def Gate.Takes (x : Gate) : Prop := x.state ≠ .outOfService ∧ x.state ≠ .faulted

theorem Gate.takes_of_moveState (x : Gate) : ({ x with state := x.moveState } : Gate).Takes := by
  unfold Gate.Takes
  dsimp only
  rw [Causes.moveState_eq]
  obtain ⟨h, -⟩ | ⟨h, -⟩ := Causes.moveState_cases x.causes <;> simp [h]

theorem Gate.OnlyHolds.takes {x y : Gate} (h : x.OnlyHolds y) (takes : x.Takes) : y.Takes := by
  obtain rfl | ⟨-, cs, -, -, -, rfl⟩ := h
  · exact takes
  · unfold Gate.Takes Gate.withCauses at *
    cases state : x.state <;> cases cs.isEmpty <;> simp_all

/-- A commit of another gate leaves a gate its target, and able to take one. -/
theorem commitTarget_other {g h : GateId} {v : Nat} (other : h ≠ g) (takes : (p.gates.get h).Takes) :
    ((commitTarget c g v p).gates.get h).Takes ∧
      ((commitTarget c g v p).gates.get h).target = (p.gates.get h).target := by
  obtain kept | ⟨-, -, -, -, released⟩ := commitTarget_get_other (c := c) (g := g) (v := v) (p := p) other
  · rw [kept]; exact ⟨takes, rfl⟩
  · rw [released]; exact ⟨Gate.takes_of_moveState _, rfl⟩

theorem Gate.inService_of_takes {x : Gate} (takes : x.Takes) : x.inService = true := by
  simpa [Gate.inService] using takes.1

theorem balance_commitTarget {e : Item} (takes : (p.gates.get e.1).Takes) :
    balance c (commitTarget c e.1 e.2 p) d = balance c p d - itemChange c p d e := by
  rw [(Carried.commitTarget (S := True) c takes.1 takes.2).kept.balance, balance_put (p := p) (putGate_gates _ _ p),
    putGate_totals, itemChange]
  have inService := Gate.inService_of_takes takes
  have retargeted : ((p.gates.get e.1).retargeted e.2).inService = true := inService
  simp only [Gate.counts, inService, retargeted, Bool.true_and, releaseOf, sub_self, add_zero]
  split
  · rfl
  · simp

theorem balance_commitItems : (items : List Item) → {p : Dyn} → (items.map (·.1)).Nodup →
    (∀ e ∈ items, (p.gates.get e.1).Takes) →
    balance c (commitItems c items p) d = balance c p d - (items.map (itemChange c p d)).sum
  | [], p, _, _ => by simp [commitItems]
  | e :: items, p, distinct, takes => by
    obtain ⟨absent, distinct⟩ := List.nodup_cons.mp distinct
    have first := takes e List.mem_cons_self
    have other (x : Item) (hx : x ∈ items) : x.1 ≠ e.1 := fun same =>
      absent (List.mem_map.mpr ⟨x, hx, same⟩)
    rw [commitItems_cons, List.map_cons, List.sum_cons]
    split
    case isTrue same =>
      rw [balance_commitItems items distinct fun x hx => takes x (List.mem_cons_of_mem e hx), itemChange_of_target same,
        zero_add]
    case isFalse =>
      have rest (x : Item) (hx : x ∈ items) := commitTarget_other (c := c) (v := e.2) (other x hx)
        (takes x (List.mem_cons_of_mem e hx))
      rw [balance_commitItems items distinct fun x hx => (rest x hx).1, balance_commitTarget first,
        List.map_congr_left (g := itemChange c p d) fun x hx => by simp only [itemChange, (rest x hx).2]]
      ring

theorem Turn.balance (h : Turn True c p q) (sound : SoundAt c p) : balance c q d = balance c p d := by
  have inService {g : GateId} (queued : True → g ∈ p.queue) : (p.gates.get g).inService = true :=
    Gate.inService_of_state (sound.queue.moving g (queued trivial)) (by simp)
  cases h with
  | link h => exact (Linked.kept (.single h)).balance
  | join => rfl
  | @grant g queued =>
    refine (Carried.grant c (fun _ => inService queued) fun _ => (sound.gate g).noInterlock ?_).kept.balance
    simp [sound.queue.moving g (queued trivial)]
  | lose => exact balance_setCauses (p := dequeue _ p)
  | @fault g cause acts =>
    have served := Gate.inService_of_lag (sound.gate g) acts
    exact balance_moved (fun d own => by simp [Gate.counts, served, own, releaseOf])
      fun d own => by simp [Gate.counts, Gate.faulted, Gate.inService, own, releaseOf]
  | @recover g runs =>
    exact (Carried.recoveryEnds c fun _ =>
      Gate.inService_of_state ((sound.gate g).recovery runs) (by simp)).kept.balance
  | dwell d => exact (Carried.dwellEnds c d p).kept.balance
  | @enter u g e out dam linked =>
    rw [(Carried.soundForEntry c g e _ u).kept.balance, (Linked.kept linked).balance]
    have totals : Table.put p.totals e (adjustTotal (p.totals.get e) 0 (releaseOf c g (p.gates.get g).feedback)) =
        movedTotals c g 0 (releaseOf c g (p.gates.get g).feedback) p.totals := by
      rw [movedTotals, dam]
    rw [enteredAt, totals]
    refine balance_moved (fun d own => by simp [Gate.counts, out]) fun d own => ?_
    have entered : ((p.gates.get g).entered (c.gates.get g).kind p.mode (p.dams.get e).hold).inService = true := by
      unfold Gate.entered Gate.inService
      dsimp only
      split <;> rfl
    rw [Gate.counts, entered, own]
    rfl
  | @exit g served =>
    exact balance_moved (fun d own => by simp [Gate.counts, served, own, releaseOf])
      fun d own => by simp [Gate.counts, Gate.exited, Gate.inService]
  | silence g => exact (Carried.silenceCheckOf c g p).kept.balance
  | @commit u items admissible linked =>
    have kept : Kept True (admittedAt c items p) u := Linked.kept linked
    have takes (e : Item) (he : e ∈ items) : (u.gates.get e.1).Takes :=
      (linked.frame.gates e.1).takes ⟨admissible.inService e he, admissible.sound e he⟩
    have changes : items.map (itemChange c u d) = items.map (itemChange c p d) :=
      List.map_congr_left fun e _ => by rw [itemChange, (kept.gates e.1).target]; rfl
    have admitted : balance c (admittedAt c items p) d =
        balance c p d + (items.map (itemChange c p d)).sum := by
      show (finalTotals (batchChanges c p items) p.totals).get d - _ = p.totals.get d - _ + _
      rw [finalTotals_batchChanges]
      exact add_sub_right_comm _ _ _
    rw [balance_commitItems items admissible.distinct takes, changes, kept.balance, admitted]
    ring
  | @tune g y tuned =>
    refine balance_of_counts (putGate_totals g y p) fun k => ?_
    rw [putGate_get]
    split
    · next same => subst same; exact ⟨by simp [Gate.inService, tuned.state], tuned.target⟩
    · exact ⟨rfl, rfl⟩
  | age g =>
    refine balance_of_counts rfl fun k => ?_
    show ((Table.put p.gates g _).get k).inService = _ ∧ ((Table.put p.gates g _).get k).target = _
    rw [put_get_ite]
    split
    · next same => subst same; exact ⟨rfl, rfl⟩
    · exact ⟨rfl, rfl⟩
  | forget => rfl
  | mark => rfl
  | level => rfl
  | clearHold d => exact (Kept.clearHold c d p).balance

theorem Turns.balance (h : Turns True c p q) (sound : SoundAt c p) : balance c q d = balance c p d := by
  have both : SoundAt c q ∧ Machine.balance c q d = Machine.balance c p d :=
    chain_keeps (P := fun u => SoundAt c u ∧ Machine.balance c u d = Machine.balance c p d)
      (fun _ _ turn h => ⟨turn.soundAt h.1, (turn.balance h.1).trans h.2⟩) h ⟨sound, rfl⟩
  exact both.2

end Balance

theorem TableStep.counts {p : Dyn} {c e : Tables} (h : TableStep p c e) (g : GateId) (d : DamId) :
    (p.gates.get g).counts (e.gates.get g) d = (p.gates.get g).counts (c.gates.get g) d := by
  cases h with
  | gate x out =>
    dsimp only
    rw [put_get_ite]
    split
    · next same => subst same; simp [Gate.counts, out]
    · rfl
  | _ => rfl

theorem Effect.totalsExact {s t : State} (h : Effect True s t) (sound : GatesSound s) (sums : TotalsExact s) :
    TotalsExact t := by
  have before := totalsExact_iff.mp sums
  have soundAt := gatesSound_iff.mp sound
  cases h with
  | store => exact sums
  | pending => exact sums
  | turn h => exact totalsExact_iff.mpr fun d => (h.balance soundAt).trans (before d)
  | @desk q plant =>
    refine totalsExact_iff.mpr fun d => (balance_of_counts (congrArg Plant.totals plant) fun g => ?_).trans (before d)
    have same : (q.gates.get g) = s.dyn.gates.get g := congrArg (fun x : Plant => x.gates.get g) plant
    exact ⟨congrArg Gate.inService same, congrArg Gate.target same⟩
  | @request q p j _ _ turns =>
    refine totalsExact_iff.mpr fun d => Eq.trans (b := balance s.tables p d) rfl ?_
    exact (turns.balance (soundAt.of_eq rfl rfl rfl)).trans (before d)
  | toRun => exact sums
  | toConfig =>
    exact totalsExact_iff.mpr fun d =>
      (Kept.balance (.ofGates (uncredit_gates _) (uncredit_totals _))).trans (before d)
  | toExiting => exact sums
  | resume =>
    refine totalsExact_iff.mpr fun d => ?_
    dsimp only
    exact (Kept.resumed s.dyn).balance.trans (before d)
  | arrival => exact totalsExact_iff.mpr fun d => (Kept.countArrival s.dyn).balance.trans (before d)
  | statusWord n w =>
    exact totalsExact_iff.mpr fun d => (Kept.clearInterlocks _ _ _).balance.trans (before d)
  | condition k x => exact totalsExact_iff.mpr fun d => (Kept.clearInterlocks _ _ s.dyn).balance.trans (before d)
  | reach => exact sums
  | tables step =>
    refine totalsExact_iff.mpr fun d => Eq.trans ?_ (before d)
    simp only [balance, step.counts]
  | powerOn => exact State.IsInitial.totalsExact ⟨_, _, _, _, _, rfl⟩
  | resetLine => exact State.IsInitial.totalsExact ⟨_, _, _, _, _, rfl⟩

/-! ### The largest total -/

theorem countedRelease_le {s : State} (h : OpeningsInRange s) (d : DamId) (g : GateId) : countedRelease s d g ≤ 996 := by
  unfold countedRelease
  split
  · have target := (h g).1
    have coefficient : (s.tables.gates.get g).coefficient.toNat ≤ 255 := Nat.le_of_lt_succ (BitVec.isLt _)
    have product : (s.dyn.gates.get g).target * (s.tables.gates.get g).coefficient.toNat ≤ 1000 * 255 :=
      Nat.mul_le_mul target coefficient
    unfold releaseOf release
    omega
  · exact Nat.zero_le _

theorem sum_countedRelease_le {s : State} (h : OpeningsInRange s) (d : DamId) :
    ((List.finRange 48).map (countedRelease s d)).sum ≤ 47808 := by
  have bound := List.sum_le_card_nsmul ((List.finRange 48).map (countedRelease s d)) 996 fun n hn => by
    obtain ⟨g, -, rfl⟩ := List.mem_map.mp hn
    exact countedRelease_le h d g
  simpa using bound

theorem total_toNat {s : State} (sums : TotalsExact s) (range : OpeningsInRange s) (d : DamId) :
    (s.dyn.totals.get d).toNat = ((List.finRange 48).map (countedRelease s d)).sum := by
  have bound := sum_countedRelease_le range d
  rw [sums d, BitVec.toNat_ofNat]
  exact Nat.mod_eq_of_lt (by omega)

/-- Settles O58: every effect leaves the balance of each total, and no release is above 996. -/
theorem everyStepKeepsTheTotalsExact : Obligations.EveryStepKeepsTheTotalsExact := by
  refine ⟨step_keeps_with_gatesSound fun _ _ => Effect.totalsExact,
    fun _ _ => step_keeps_of_effect fun _ _ => Effect.openingsInRange,
    fun _ _ => step_keeps_of_effect fun _ _ effect => effect.reachEffect.levelsInRange, fun s sums range d => ?_⟩
  rw [total_toNat sums range d]
  exact ⟨rfl, sum_countedRelease_le range d⟩

end Sys2Proof.Machine
end

section
/-! The hold causes follow the mode, the hold flags and the interlock conditions (R12, R24, R66, R69, R84, R109, R110;
O56). -/

namespace Sys2Proof.Machine

open Relation (ReflTransGen)

/-! ### MODE and DAM -/

/-- The mode holds every gate (R12). -/
def Mode.holds (m : Mode) : Bool := m == .hold || m == .exiting

/-- MODE and DAM of an in-service gate of the given dam follow the mode and the hold flags. -/
def Gate.Follows (x : Gate) (k : GateConfig) (mode : Mode) (dams : Vector Dam 6) : Prop :=
  x.inService = true → x.causes.mode = mode.holds ∧ ∀ d, k.inDam d = true → x.causes.dam = (dams.get d).hold

/-- MODE and DAM of every gate follow. -/
def FollowAt (c : Tables) (p : Dyn) : Prop := ∀ g, (p.gates.get g).Follows (c.gates.get g) p.mode p.dams

theorem causesFollow_iff {s : State} : CausesFollow s ↔ FollowAt s.tables s.dyn := Iff.rfl

section Follow

variable {c : Tables} {p q : Dyn}

theorem FollowAt.of_gate (gate : ∀ g, (q.gates.get g).Follows (c.gates.get g) p.mode p.dams) (mode : q.mode = p.mode)
    (hold : ∀ d, (q.dams.get d).hold = (p.dams.get d).hold) : FollowAt c q := fun g inService => by
  rw [mode]
  obtain ⟨byMode, byDam⟩ := gate g inService
  exact ⟨byMode, fun d own => (hold d).symm ▸ byDam d own⟩

theorem Carried.followAt (h : Carried True p q) (start : FollowAt c p) : FollowAt c q := by
  refine .of_gate (fun g inService => ?_) h.mode h.hold
  have carried := h.gates g
  rw [carried.mode, carried.dam]
  exact start g ((carried.inService trivial).symm.trans inService)

theorem FollowAt.of_gates (start : FollowAt c p) (gates : q.gates = p.gates) (mode : q.mode = p.mode)
    (hold : ∀ d, (q.dams.get d).hold = (p.dams.get d).hold) : FollowAt c q :=
  .of_gate (fun g => gates ▸ start g) mode hold

theorem FollowAt.put (start : FollowAt c p) {g : GateId} {x : Gate}
    (follows : x.Follows (c.gates.get g) p.mode p.dams) : FollowAt c (putGate g x p) := by
  refine .of_gate (fun k => ?_) (putGate_mode g x p) fun d => by rw [putGate_dams]
  rw [putGate_get]
  split
  · next same => exact same ▸ follows
  · exact start k

/-- A record with the service, MODE and DAM of the one that stood. -/
theorem Gate.Follows.of_eq {x y : Gate} {k : GateConfig} {mode : Mode} {dams : Vector Dam 6}
    (start : x.Follows k mode dams) (inService : y.inService = true → x.inService = true)
    (byMode : y.causes.mode = x.causes.mode) (byDam : y.causes.dam = x.causes.dam) : y.Follows k mode dams :=
  fun served => by rw [byMode, byDam]; exact start (inService served)

/-- A gate's dam is one. -/
theorem inDam_unique {k : GateConfig} {d e : DamId} (hd : k.inDam d = true) (he : k.inDam e = true) : d = e :=
  Option.some.inj ((dam?_of_inDam hd).symm.trans (dam?_of_inDam he))

/-- The hold flag of dam d changes, and with it DAM at its in-service gates (R24). -/
theorem FollowAt.changeHold (start : FollowAt c p) (d : DamId) (b : Bool) :
    FollowAt c (changeCauses (fun g => (c.gates.get g).inDam d) (fun cs => { cs with dam := b })
      (putDam d { p.dams.get d with hold := b } p)) := by
  have hold (e : DamId) : ((Table.put p.dams d { p.dams.get d with hold := b }).get e).hold =
      if e = d then b else (p.dams.get e).hold := by
    rw [put_get_ite]
    split <;> rfl
  intro g
  rw [changeCauses_get, changeCauses_keeps Dyn.mode putGate_mode, changeCauses_keeps Dyn.dams putGate_dams,
    putDam_gates, putDam_mode, putDam_dams]
  split
  case isTrue picked =>
    simp only [Bool.and_eq_true] at picked
    obtain ⟨inService, own⟩ := picked
    intro _
    refine ⟨(start g inService).1, fun e there => ?_⟩
    rw [hold, if_pos (inDam_unique there own)]
    rfl
  case isFalse rest =>
    intro inService
    obtain ⟨byMode, byDam⟩ := start g inService
    refine ⟨byMode, fun e there => ?_⟩
    rw [hold, if_neg, byDam e there]
    rintro rfl
    exact rest (by simp [inService, there])

theorem FollowAt.markReach (start : FollowAt c p) (r : ReachId) : FollowAt c (markReach r p) :=
  start.of_gates (markReach_gates r p) (markReach_mode r p) fun _ => by rw [markReach_dams]

theorem FollowAt.setHold (start : FollowAt c p) (d : DamId) : FollowAt c (setHold c d p) := by
  have held := (start.changeHold d true).markReach d
  unfold Machine.setHold
  dsimp only
  split
  · exact start
  · exact held

theorem FollowAt.clearHold (start : FollowAt c p) (d : DamId) : FollowAt c (clearHold c d p) := by
  have cleared := (start.changeHold d false).markReach d
  unfold Machine.clearHold
  dsimp only
  split
  · exact cleared
  · exact start

/-- The mode changes, and with it MODE at every in-service gate (R109, R110). -/
theorem FollowAt.changeMode (start : FollowAt c p) {u : Dyn} (gates : u.gates = p.gates) (dams : u.dams = p.dams) :
    FollowAt c (changeCauses (fun _ => true) (fun cs => { cs with mode := u.mode.holds }) u) := by
  intro g
  rw [changeCauses_get, changeCauses_keeps Dyn.mode putGate_mode, changeCauses_keeps Dyn.dams putGate_dams, gates, dams]
  split
  case isTrue picked =>
    simp only [Bool.and_true] at picked
    exact fun _ => ⟨rfl, (start g picked).2⟩
  case isFalse rest =>
    intro inService
    exact absurd inService (by simpa using rest)

theorem FollowAt.enterHold (start : FollowAt c p) : FollowAt c (enterHold p) := by
  unfold Machine.enterHold
  split
  case h_1 run =>
    exact start.changeMode (u := markSummary { uncredit p with mode := .hold, offer := none })
      (by simp) (by simp)
  case h_2 exiting =>
    intro g
    have follows := start g
    rw [exiting] at follows
    simp only [markSummary_gates, uncredit_gates, markSummary_mode, markSummary_dams, uncredit_dams]
    exact follows
  case h_3 => exact start
  case h_4 => exact start

theorem FollowAt.resumed (start : FollowAt c p) : FollowAt c (resumed p) := by
  rw [Machine.resumed]
  exact start.changeMode (u := markSummary { p with mode := .run, debt := 0, progress := 0 }) rfl rfl

theorem LinkStep.followAt (h : LinkStep c p q) (start : FollowAt c p) : FollowAt c q := by
  cases h with
  | record r => exact start.of_gates (by simp) (by simp) fun _ => by simp
  | hold d => exact start.setHold d
  | enterHold => exact start.enterHold
  | alarm => exact start
  | exceeded => exact start
  | markReach => exact start

theorem Linked.followAt (h : Linked c p q) : FollowAt c p → FollowAt c q :=
  chain_keeps (P := FollowAt c) (fun _ _ => LinkStep.followAt) h

theorem FollowAt.commitTarget (start : FollowAt c p) (g : GateId) (v : Nat) : FollowAt c (commitTarget c g v p) := by
  by_cases takes : (p.gates.get g).Takes
  · refine (Carried.commitTarget c takes.1 takes.2).followAt (start.put ?_)
    refine (start g).of_eq id ?_ ?_ <;>
    · unfold Gate.retargeted
      dsimp only
      split <;> rfl
  · rw [commitTarget_of_noTarget c v (by rwa [Gate.Takes, not_and_or, not_not, not_not] at takes)]
    exact start

theorem FollowAt.commitItems : (items : List Item) → {p : Dyn} → FollowAt c p → FollowAt c (commitItems c items p)
  | [], _, start => start
  | e :: items, p, start => by
    rw [commitItems_cons]
    refine FollowAt.commitItems items ?_
    split
    · exact start
    · exact start.commitTarget e.1 e.2

theorem Turn.followAt (h : Turn True c p q) (sound : SoundAt c p) (start : FollowAt c p) : FollowAt c q := by
  have moving {g : GateId} (queued : True → g ∈ p.queue) := sound.queue.moving g (queued trivial)
  cases h with
  | link h => exact h.followAt start
  | join => exact start
  | @grant g queued =>
    refine (Carried.grant c (fun _ => ?_) fun _ => (sound.gate g).noInterlock ?_).followAt start
    · exact Gate.inService_of_state (moving queued) (by simp)
    · simp [moving queued]
  | @lose g =>
    refine FollowAt.put (p := dequeue g p) start ?_
    exact (start g).of_eq (fun served => by rwa [Gate.withCauses_inService] at served) rfl rfl
  | @fault g cause acts =>
    have put : FollowAt c (putGate g ((p.gates.get g).faulted cause) p) :=
      start.put ((start g).of_eq (fun _ => Gate.inService_of_lag (sound.gate g) acts) rfl rfl)
    exact put
  | @recover g runs =>
    exact (Carried.recoveryEnds c fun _ =>
      Gate.inService_of_state ((sound.gate g).recovery runs) (by simp)).followAt start
  | dwell d => exact (Carried.dwellEnds c d p).followAt start
  | @enter u g d _ dam linked =>
    have entered : FollowAt c (enteredAt c g d p) := by
      refine FollowAt.put start (g := g) fun _ => ⟨rfl, fun e there => ?_⟩
      rw [inDam_unique there (inDam_of_dam? dam)]
      rfl
    exact (Carried.soundForEntry c g d _ u).followAt (linked.followAt entered)
  | @exit g =>
    have put : FollowAt c (putGate g (p.gates.get g).exited p) := start.put fun served => by cases served
    exact put
  | silence g => exact (Carried.silenceCheckOf c g p).followAt start
  | @commit u items _ linked =>
    exact FollowAt.commitItems items (linked.followAt (start.of_gates (q := admittedAt c items p) rfl rfl fun _ => rfl))
  | @tune g y tuned =>
    refine start.put ((start g).of_eq (fun served => ?_) ?_ ?_)
    · simpa [Gate.inService, tuned.state] using served
    · rw [tuned.causes]
    · rw [tuned.causes]
  | age g =>
    refine FollowAt.of_gate (p := p) (fun k => ?_) rfl fun _ => rfl
    show ((Table.put p.gates g _).get k).Follows _ _ _
    rw [put_get_ite]
    split
    · next same => exact same ▸ (start g).of_eq id rfl rfl
    · exact start k
  | forget d dir =>
    refine start.of_gates rfl rfl fun e => ?_
    rw [putDam_dams, put_get_ite]
    split
    · next same => rw [same]; cases dir <;> rfl
    · rfl
  | mark => exact start
  | level => exact start
  | clearHold d => exact start.clearHold d

theorem Turns.followAt (h : Turns True c p q) (sound : SoundAt c p) (start : FollowAt c p) : FollowAt c q := by
  have both : SoundAt c q ∧ FollowAt c q :=
    chain_keeps (P := fun u => SoundAt c u ∧ FollowAt c u)
      (fun _ _ turn h => ⟨turn.soundAt h.1, turn.followAt h.1 h.2⟩) h ⟨sound, start⟩
  exact both.2

theorem FollowAt.clearInterlocks (start : FollowAt c p) (e : Tables) (sel : CondId → Bool) :
    FollowAt c (clearInterlocks e sel p) := by
  intro g
  rw [clearInterlocks_get, clearInterlocks_keeps Dyn.mode putGate_mode, clearInterlocks_keeps Dyn.dams putGate_dams]
  split
  · exact (start g).of_eq (fun served => by rwa [Gate.withCauses_inService] at served) rfl rfl
  · exact start g

theorem TableStep.followAt {e : Tables} (h : TableStep p c e) (start : FollowAt c p) : FollowAt e p := by
  cases h with
  | gate x out =>
    intro g
    dsimp only
    rw [put_get_ite]
    split
    · next same =>
      subst same
      exact fun served => (Bool.false_ne_true (out.symm.trans served)).elim
    · exact start g
  | _ => exact start

end Follow

theorem Effect.causesFollow {s t : State} (h : Effect True s t) (sound : GatesSound s) (start : CausesFollow s) :
    CausesFollow t := by
  have soundAt := gatesSound_iff.mp sound
  have follow := causesFollow_iff.mp start
  cases h with
  | store => exact start
  | pending => exact start
  | turn h => exact h.followAt soundAt follow
  | @desk q plant =>
    have same {β : Type} (f : Plant → β) : f q.plant = f s.dyn.plant := congrArg f plant
    exact follow.of_gates (q := q) (same Plant.gates) (same Plant.mode) fun d => same fun x => x.hold d
  | @request q p j _ _ turns =>
    have kept : FollowAt s.tables p := turns.followAt (soundAt.of_eq rfl rfl rfl) follow
    exact kept
  | toRun config =>
    intro g
    have follows := follow g
    rw [config] at follows
    exact follows
  | toConfig _ out =>
    intro g served
    have none := out g
    rw [show (s.dyn.gates.get g).inService = true by simpa using served] at none
    cases none
  | toExiting hold =>
    intro g
    have follows := follow g
    rw [hold] at follows
    exact follows
  | resume =>
    refine causesFollow_iff.mpr ?_
    dsimp only
    exact follow.resumed
  | arrival =>
    intro g
    have counted : (countArrival s.dyn).gates.get g = (s.dyn.gates.get g).counted := Table.tab_get _ g
    have hold (d : DamId) : ((countArrival s.dyn).dams.get d).hold = (s.dyn.dams.get d).hold :=
      by rw [countArrival, Table.tab_get]; rfl
    dsimp only
    rw [counted]
    intro served
    obtain ⟨byMode, byDam⟩ := follow g served
    exact ⟨byMode, fun d own => (byDam d own).trans (hold d).symm⟩
  | statusWord n w =>
    have stored : FollowAt s.tables { s.dyn with statusWords := Table.put s.dyn.statusWords n w } := follow
    refine causesFollow_iff.mpr ?_
    dsimp only
    exact stored.clearInterlocks _ _
  | condition k x =>
    have reworded : FollowAt { s.tables with conditions := Table.put s.tables.conditions k x } s.dyn := follow
    refine causesFollow_iff.mpr ?_
    dsimp only
    exact reworded.clearInterlocks _ _
  | reach => exact start
  | tables step => exact step.followAt follow
  | powerOn => exact State.IsInitial.causesFollow ⟨_, _, _, _, _, rfl⟩
  | resetLine => exact State.IsInitial.causesFollow ⟨_, _, _, _, _, rfl⟩

/-! ### INTERLOCK -/

/-- A gate record that carries INTERLOCK stands before a false condition. -/
def Gate.Interlocked (x : Gate) (c : Tables) (status : Vector Word 16) (g : GateId) : Prop :=
  x.causes.interlock = true → (falseCondition c status g (directionTo x.command x.target)).isSome = true

/-- Every gate that carries INTERLOCK stands before a false condition. -/
def InterlockAt (c : Tables) (p : Dyn) : Prop := ∀ g, (p.gates.get g).Interlocked c p.statusWords g

theorem interlockSound_iff {s : State} : InterlockSound s ↔ InterlockAt s.tables s.dyn := Iff.rfl

section Interlock

variable {c : Tables} {p q : Dyn}

theorem Kept.interlockAt (h : Kept True p q) (status : q.statusWords = p.statusWords) (start : InterlockAt c p) :
    InterlockAt c q := by
  intro g set
  have kept := h.gates g
  obtain ⟨before, command⟩ := kept.interlock trivial set
  rw [status, command, kept.target]
  exact start g before

theorem InterlockAt.put (start : InterlockAt c p) {g : GateId} {x : Gate} (own : x.Interlocked c p.statusWords g) :
    InterlockAt c (putGate g x p) := by
  intro k
  rw [putGate_get, putGate_statusWords]
  split
  · next same => exact same ▸ own
  · exact start k

theorem Gate.interlocked_of_clear {x : Gate} (clear : x.causes.interlock = false) (c : Tables) (status : Vector Word 16)
    (g : GateId) : x.Interlocked c status g := fun set => (Bool.false_ne_true (clear.symm.trans set)).elim

/-- A committed target leaves no INTERLOCK. -/
theorem Gate.Sound.committed_clear {x : Gate} {kind : GateKind} (sound : x.Sound kind) (wd rd : Nat) (w : Warning)
    (v : Nat) : (x.committed kind wd rd w v).causes.interlock = false := by
  have clear (state : x.state ≠ .held) : x.causes.interlock = false := sound.noInterlock state
  have underWay (state : x.state = .moving ∨ x.state = .held) : (x.committed kind wd rd w v).causes.interlock = false := by
    by_cases arrived : v = x.command
    · rw [Gate.committed_arrived state arrived]; rfl
    · rw [Gate.committed_underWay state arrived]
  cases state : x.state with
  | moving => exact underWay (.inl state)
  | held => exact underWay (.inr state)
  | recovering => rw [Gate.committed_recovering state]; exact clear (by simp [state])
  | warning => rw [Gate.committed_warning state]; exact clear (by simp [state])
  | closed =>
    have none := clear (by simp [state])
    rw [Gate.committed_closed state none]
    exact none
  | settled =>
    have none := clear (by simp [state])
    rw [Gate.committed_settled state none]
    exact none
  | outOfService => simpa [Gate.committed, state] using clear (by simp [state])
  | faulted => simpa [Gate.committed, state] using clear (by simp [state])

theorem InterlockAt.commitTarget (start : InterlockAt c p) (sound : SoundAt c p) {g : GateId} {v : Nat}
    (change : v ≠ (p.gates.get g).target) : InterlockAt c (commitTarget c g v p) := by
  intro k
  rw [show (Machine.commitTarget c g v p).statusWords = p.statusWords from
    congrArg Still.statusWords (commitTarget_still c g v p)]
  by_cases same : k = g
  · subst same
    rw [commitTarget_get_self (sound.gate k) change]
    exact Gate.interlocked_of_clear ((sound.gate k).committed_clear _ _ _ _) _ _ _
  · obtain kept | ⟨-, -, -, -, released⟩ := commitTarget_get_other (c := c) (g := g) (v := v) (p := p) same
    · rw [kept]; exact start k
    · rw [released]; exact start k

theorem InterlockAt.commitItems : (items : List Item) → {p : Dyn} → SoundAt c p → InterlockAt c p →
    InterlockAt c (commitItems c items p)
  | [], _, _, start => start
  | e :: items, p, sound, start => by
    rw [commitItems_cons]
    split
    case isTrue => exact InterlockAt.commitItems items sound start
    case isFalse change =>
      exact InterlockAt.commitItems items (sound.commitTarget change) (start.commitTarget sound change)

theorem Turn.interlockAt (h : Turn True c p q) (sound : SoundAt c p) (start : InterlockAt c p) : InterlockAt c q := by
  have moving {g : GateId} (queued : True → g ∈ p.queue) := sound.queue.moving g (queued trivial)
  have status : q.statusWords = p.statusWords := congrArg Still.statusWords h.still
  cases h with
  | link h => exact (Linked.kept (.single h)).interlockAt status start
  | join => exact start
  | @grant g queued =>
    refine (Carried.grant c (fun _ => ?_) fun _ => (sound.gate g).noInterlock ?_).kept.interlockAt status start
    · exact Gate.inService_of_state (moving queued) (by simp)
    · simp [moving queued]
  | @lose g k _ stops =>
    refine InterlockAt.put (p := dequeue g p) start fun _ => ?_
    show (falseCondition c p.statusWords g (directionTo (p.gates.get g).command (p.gates.get g).target)).isSome = true
    rw [stops]
    rfl
  | fault =>
    exact InterlockAt.put start (Gate.interlocked_of_clear rfl _ _ _)
  | @recover g runs =>
    exact (Carried.recoveryEnds c fun _ =>
      Gate.inService_of_state ((sound.gate g).recovery runs) (by simp)).kept.interlockAt status start
  | dwell d => exact (Carried.dwellEnds c d p).kept.interlockAt status start
  | @enter u g d _ dam linked =>
    have entered : InterlockAt c (enteredAt c g d p) := InterlockAt.put start (Gate.interlocked_of_clear rfl _ _ _)
    have linkStatus : u.statusWords = (enteredAt c g d p).statusWords := congrArg Still.statusWords linked.frame.still
    refine (Carried.soundForEntry c g d _ u).kept.interlockAt ?_ ((Linked.kept linked).interlockAt linkStatus entered)
    exact congrArg Still.statusWords (soundForEntry_still c g d _ u)
  | exit => exact InterlockAt.put start (Gate.interlocked_of_clear rfl _ _ _)
  | silence g => exact (Carried.silenceCheckOf c g p).kept.interlockAt status start
  | @commit u items _ linked =>
    have admitted : SoundAt c (admittedAt c items p) := sound.of_eq rfl rfl rfl
    have linkStatus : u.statusWords = p.statusWords := congrArg Still.statusWords linked.frame.still
    have kept : InterlockAt c u :=
      Kept.interlockAt (p := admittedAt c items p) (Linked.kept linked) linkStatus start
    exact InterlockAt.commitItems items (linked.soundAt admitted) kept
  | @tune g y tuned =>
    refine start.put fun set => ?_
    rw [tuned.command, tuned.target]
    exact start g (tuned.causes ▸ set)
  | age g =>
    intro k
    show ((Table.put p.gates g _).get k).Interlocked _ _ _
    rw [put_get_ite]
    split
    · next same => subst same; exact start k
    · exact start k
  | forget => exact start
  | mark => exact start
  | level => exact start
  | clearHold d => exact (Kept.clearHold c d p).interlockAt status start

theorem Turns.interlockAt (h : Turns True c p q) (sound : SoundAt c p) (start : InterlockAt c p) : InterlockAt c q := by
  have both : SoundAt c q ∧ InterlockAt c q :=
    chain_keeps (P := fun u => SoundAt c u ∧ InterlockAt c u)
      (fun _ _ turn h => ⟨turn.soundAt h.1, turn.interlockAt h.1 h.2⟩) h ⟨sound, start⟩
  exact both.2

theorem falseCondition_isSome {status : Vector Word 16} {g : GateId} {dir : Direction} :
    (falseCondition c status g dir).isSome = true ↔
      ∃ k, refCondition ((c.gates.get g).reference dir) = some k ∧
        (c.conditions.get k).holds (status.get (c.conditions.get k).source) = false := by
  unfold falseCondition
  cases refCondition ((c.gates.get g).reference dir) with
  | none => simp
  | some k => cases holds : (c.conditions.get k).holds (status.get (c.conditions.get k).source) <;> simp [holds]

/-- The re-evaluation after a change that leaves the conditions that `sel` does not name: INTERLOCK stays only before
false conditions (R69). -/
theorem InterlockAt.reevaluated {e : Tables} {sel : CondId → Bool} (start : InterlockAt c p)
    (inService : ∀ g, (q.gates.get g).causes.interlock = true → (q.gates.get g).inService = true)
    (gates : q.gates = p.gates) (configs : e.gates = c.gates)
    (untouched : ∀ k, sel k = false →
      (e.conditions.get k).holds (q.statusWords.get (e.conditions.get k).source) =
        (c.conditions.get k).holds (p.statusWords.get (c.conditions.get k).source)) :
    InterlockAt e (clearInterlocks e sel q) := by
  intro g
  rw [clearInterlocks_get, clearInterlocks_keeps Dyn.statusWords putGate_statusWords]
  split
  case isTrue => exact Gate.interlocked_of_clear rfl _ _ _
  case isFalse stays =>
    intro set
    obtain ⟨k, names, before⟩ := falseCondition_isSome.mp (start g (gates ▸ set))
    rw [← gates, ← configs] at names
    by_cases picked : sel k = true
    · by_contra passes
      refine stays ?_
      simp only [interlockCleared, inService g set, set, names, picked, Bool.true_and]
      simpa using passes
    · refine falseCondition_isSome.mpr ⟨k, names, ?_⟩
      rw [untouched k (by simpa using picked), before]

theorem TableStep.interlockAt {e : Tables} (h : TableStep p c e) (sound : SoundAt c p) (start : InterlockAt c p) :
    InterlockAt e p := by
  cases h with
  | @gate g x out =>
    intro k set
    have served : (p.gates.get k).inService = true :=
      Gate.inService_of_state ((sound.gate k).interlock set) (by simp)
    have other : k ≠ g := by
      rintro rfl
      exact Bool.false_ne_true (out.symm.trans served)
    have same := start k set
    unfold falseCondition at same ⊢
    dsimp only
    rwa [put_get_ite, if_neg other]
  | _ => exact start

end Interlock

theorem Effect.interlockSound {s t : State} (h : Effect True s t) (sound : GatesSound s) (start : InterlockSound s) :
    InterlockSound t := by
  have soundAt := gatesSound_iff.mp sound
  have before := interlockSound_iff.mp start
  have inService (g : GateId) (set : (s.dyn.gates.get g).causes.interlock = true) :
      (s.dyn.gates.get g).inService = true := Gate.inService_of_state ((soundAt.gate g).interlock set) (by simp)
  cases h with
  | store => exact start
  | pending => exact start
  | turn h => exact h.interlockAt soundAt before
  | @desk q plant =>
    have same {β : Type} (f : Plant → β) : f q.plant = f s.dyn.plant := congrArg f plant
    exact Kept.interlockAt (q := q) (.ofGates (same Plant.gates) (same Plant.totals)) (same Plant.statusWords) before
  | @request q p j _ _ turns =>
    have kept : InterlockAt s.tables p := turns.interlockAt (soundAt.of_eq rfl rfl rfl) before
    exact kept
  | toRun => exact start
  | toConfig =>
    have kept : Kept True s.dyn (uncredit s.dyn) := .ofGates (uncredit_gates _) (uncredit_totals _)
    exact kept.interlockAt (uncredit_statusWords _) before
  | toExiting => exact start
  | resume =>
    refine interlockSound_iff.mpr ?_
    dsimp only
    refine (Kept.resumed s.dyn).interlockAt ?_ before
    rw [resumed, changeCauses_keeps Dyn.statusWords putGate_statusWords]
    rfl
  | arrival => exact (Kept.countArrival s.dyn).interlockAt rfl before
  | statusWord n w =>
    refine interlockSound_iff.mpr ?_
    dsimp only
    refine before.reevaluated (q := { s.dyn with statusWords := Table.put s.dyn.statusWords n w })
      inService rfl rfl fun k other => ?_
    dsimp only
    rw [put_get_ite, if_neg (by simpa using other)]
  | condition k x =>
    refine interlockSound_iff.mpr ?_
    dsimp only
    refine before.reevaluated (e := { s.tables with conditions := Table.put s.tables.conditions k x })
      inService rfl rfl fun j other => ?_
    dsimp only
    rw [put_get_ite, if_neg (by simpa using other)]
  | reach => exact start
  | tables step => exact step.interlockAt soundAt before
  | powerOn => exact State.IsInitial.interlockSound ⟨_, _, _, _, _, rfl⟩
  | resetLine => exact State.IsInitial.interlockSound ⟨_, _, _, _, _, rfl⟩

/-- Settles O56: every effect keeps the hold causes following, and INTERLOCK before false conditions only. -/
theorem everyStepKeepsTheHoldCausesSound : Obligations.EveryStepKeepsTheHoldCausesSound :=
  ⟨step_keeps_with_gatesSound fun _ _ => Effect.causesFollow, step_keeps_with_gatesSound fun _ _ => Effect.interlockSound⟩

end Sys2Proof.Machine
end

section
/-! Flood gates that are open, or have a move outstanding, stand at SOUNDED dams (R20 to R23; O57). -/

namespace Sys2Proof.Machine

open Relation (ReflTransGen)

/-! ### Records -/

/-- Gate record x agrees with the warning of its dam. -/
def Gate.Warned (x : Gate) (w : Warning) : Prop :=
  x.inService = true →
    (0 < x.command → w = .sounded) ∧
    (x.state = .settled ∨ x.state = .moving ∨ x.state = .held ∨ x.state = .recovering → w = .sounded) ∧
    (x.state = .warning → w = .sounding)

section Records

variable {x y : Gate} {w : Warning}

theorem Gate.warned_sounded (state : x.state ≠ .warning) : x.Warned .sounded :=
  fun _ => ⟨fun _ => rfl, fun _ => rfl, fun waits => absurd waits state⟩

theorem Gate.warned_out (out : x.inService = false) (w : Warning) : x.Warned w :=
  fun served => (Bool.false_ne_true (out.symm.trans served)).elim

theorem Gate.warned_closed (state : x.state = .closed) (command : x.command = 0) (w : Warning) : x.Warned w :=
  fun _ => ⟨fun above => by omega, fun h => by simp [state] at h, fun h => by simp [state] at h⟩

theorem Gate.warned_waiting (state : x.state = .warning) (command : x.command = 0) : x.Warned .sounding :=
  fun _ => ⟨fun above => by omega, fun h => by simp [state] at h, fun _ => rfl⟩

theorem Gate.Warned.of_eq (h : x.Warned w) (state : y.state = x.state) (command : y.command = x.command) :
    y.Warned w := by
  unfold Gate.Warned Gate.inService at *
  rwa [state, command]

/-- At a silent dam a gate agrees with every warning. -/
theorem Gate.Warned.of_silent (h : x.Warned .silent) (w : Warning) : x.Warned w := fun served => by
  obtain ⟨command, state, waits⟩ := h served
  exact ⟨fun above => (nomatch command above), fun there => (nomatch state there), fun there => (nomatch waits there)⟩

theorem Gate.Warned.sounded_of_state (h : x.Warned w)
    (state : x.state = .settled ∨ x.state = .moving ∨ x.state = .held ∨ x.state = .recovering) : w = .sounded := by
  refine (h ?_).2.1 state
  obtain state | state | state | state := state <;> simp [Gate.inService, state]

theorem Gate.Warned.withCauses (h : x.Warned w) (cs : Causes) : (x.withCauses cs).Warned w := by
  by_cases underWay : x.state = .moving ∨ x.state = .held
  · have sounded : w = .sounded := h.sounded_of_state (by obtain s | s := underWay <;> simp [s])
    subst sounded
    rw [Gate.withCauses_underWay underWay]
    refine Gate.warned_sounded ?_
    obtain ⟨state, -⟩ | ⟨state, -⟩ := Causes.moveState_cases cs <;> simp [state]
  · rw [not_or] at underWay
    rw [Gate.withCauses_resting underWay.1 underWay.2]
    exact h.of_eq rfl rfl

theorem Gate.OnlyHolds.warned (h : x.OnlyHolds y) (warned : x.Warned w) : y.Warned w := by
  obtain rfl | ⟨-, cs, -, -, -, rfl⟩ := h
  · exact warned
  · exact warned.withCauses cs

theorem Gate.withCauses_warning_iff (cs : Causes) : (x.withCauses cs).state = .warning ↔ x.state = .warning := by
  unfold Gate.withCauses
  cases state : x.state <;> cases cs.isEmpty <;> simp

theorem Gate.OnlyHolds.notWaiting (h : x.OnlyHolds y) (rest : x.state ≠ .warning) : y.state ≠ .warning := by
  obtain rfl | ⟨-, cs, -, -, -, rfl⟩ := h
  · exact rest
  · exact fun waits => rest ((Gate.withCauses_warning_iff cs).mp waits)

theorem Gate.moveState_ne_warning (x : Gate) : x.moveState ≠ .warning := by
  rw [Causes.moveState_eq]
  obtain ⟨h, -⟩ | ⟨h, -⟩ := Causes.moveState_cases x.causes <;> simp [h]

end Records

/-! ### States -/

/-- Every flood gate of dam e agrees with its warning. -/
def DamWarned (c : Tables) (p : Dyn) (e : DamId) : Prop :=
  ∀ g, (c.gates.get g).kind = .flood → (c.gates.get g).inDam e = true → (p.gates.get g).Warned (p.dams.get e).warning

/-- Every flood gate agrees with the warning of its dam. -/
def WarnedAt (c : Tables) (p : Dyn) : Prop := ∀ e, DamWarned c p e

theorem floodGatesWarned_iff {s : State} : FloodGatesWarned s ↔ WarnedAt s.tables s.dyn := forall_comm

/-- Dam d is SOUNDED wherever it is the dam of flood gate g. -/
def Sounded (c : Tables) (p : Dyn) (g : GateId) : Prop :=
  (c.gates.get g).kind = .flood → ∀ d, (c.gates.get g).inDam d = true → (p.dams.get d).warning = .sounded

section States

variable {c : Tables} {p q : Dyn}

theorem WarnedAt.gate (h : WarnedAt c p) {g : GateId} (flood : (c.gates.get g).kind = .flood) {d : DamId}
    (own : (c.gates.get g).inDam d = true) : (p.gates.get g).Warned (p.dams.get d).warning := h d g flood own

theorem WarnedAt.of_gates (h : WarnedAt c p) (gates : ∀ g w, (p.gates.get g).Warned w → (q.gates.get g).Warned w)
    (warning : ∀ d, (q.dams.get d).warning = (p.dams.get d).warning) : WarnedAt c q := fun d g flood own => by
  rw [warning]
  exact gates g _ (h.gate flood own)

theorem WarnedAt.put (h : WarnedAt c p) {g : GateId} {x : Gate}
    (own : (c.gates.get g).kind = .flood → ∀ d, (c.gates.get g).inDam d = true → x.Warned (p.dams.get d).warning) :
    WarnedAt c (putGate g x p) := fun d k flood there => by
  rw [putGate_get, putGate_dams]
  split
  · next same => subst same; exact own flood d there
  · exact h.gate flood there

/-- A record that does not wait, put at a SOUNDED dam. -/
theorem WarnedAt.put_sounded (h : WarnedAt c p) {g : GateId} {x : Gate} (sounded : Sounded c p g)
    (state : x.state ≠ .warning) : WarnedAt c (putGate g x p) :=
  h.put fun flood d own => by rw [sounded flood d own]; exact Gate.warned_sounded state

theorem WarnedAt.sounded (h : WarnedAt c p) {g : GateId}
    (state : (p.gates.get g).state = .settled ∨ (p.gates.get g).state = .moving ∨ (p.gates.get g).state = .held ∨
      (p.gates.get g).state = .recovering) : Sounded c p g :=
  fun flood _ own => (h.gate flood own).sounded_of_state state

theorem Linked.warnedAt (h : Linked c p q) (start : WarnedAt c p) : WarnedAt c q := by
  refine start.of_gates (fun g w => (h.frame.gates g).warned) fun d => ?_
  obtain ⟨b, dam⟩ := h.frame.dams d
  rw [dam]

/-- A dam that is SOUNDED, with no flood gate waiting at it, agrees with all of them. -/
theorem DamWarned.of_sounded {d : DamId} (warning : (p.dams.get d).warning = .sounded)
    (rest : ∀ g, (c.gates.get g).kind = .flood → (c.gates.get g).inDam d = true → (p.gates.get g).state ≠ .warning) :
    DamWarned c p d := fun g flood own => by
  rw [warning]
  exact Gate.warned_sounded (rest g flood own)

/-- A CLOSED gate stands at 0. -/
def ClosedAtZero (p : Dyn) : Prop := ∀ g, (p.gates.get g).state = .closed → (p.gates.get g).command = 0

theorem SoundAt.closedAtZero (h : SoundAt c p) : ClosedAtZero p := fun g state => ((h.gate g).closed state).2.2

theorem ClosedAtZero.put (h : ClosedAtZero p) {g : GateId} {x : Gate} (own : x.state = .closed → x.command = 0) :
    ClosedAtZero (putGate g x p) := fun k => by
  rw [putGate_get]
  split
  · exact own
  · exact h k

theorem WarnedAt.silenceCheckOf (h : WarnedAt c p) (closed : ClosedAtZero p) (g : GateId) :
    WarnedAt c (silenceCheckOf c g p) := fun d k flood own => by
  rw [silenceCheckOf_gates]
  obtain kept | ⟨shut, -⟩ := silenceCheckOf_dam c g p d
  · rw [kept]; exact h.gate flood own
  · obtain state | out := shut k flood own
    · exact Gate.warned_closed state (closed k state) _
    · exact Gate.warned_out (by simp [Gate.inService, out]) _

/-- A gate that closes at 0, with the silencing check (R9, R64). -/
theorem WarnedAt.shut (h : WarnedAt c p) (closed : ClosedAtZero p) {g : GateId} {x : Gate} (state : x.state = .closed)
    (command : x.command = 0) : WarnedAt c (Machine.silenceCheckOf c g (putGate g x p)) :=
  WarnedAt.silenceCheckOf (h.put fun _ _ _ => Gate.warned_closed state command _) (closed.put fun _ => command) g

/-- The end of a warning dwell leaves the dam in agreement, whatever its gates were. -/
theorem dwellEnds_warned (d : DamId) (others : ∀ e, e ≠ d → DamWarned c p e) : WarnedAt c (dwellEnds c d p) := by
  intro e
  by_cases same : e = d
  · subst same
    refine .of_sounded (by rw [dwellEnds_dams, put_get_ite, if_pos rfl]) fun g _ own => ?_
    rw [dwellEnds_get]
    split
    case isTrue => exact Gate.moveState_ne_warning _
    case isFalse rest => simpa [own] using rest
  · intro g flood own
    rw [dwellEnds_get, dwellEnds_dams, put_get_ite, if_neg same, if_neg]
    · exact others e same g flood own
    · intro picked
      simp only [Bool.and_eq_true] at picked
      exact same (inDam_unique own picked.1)

theorem WarnedAt.dwellEnds (h : WarnedAt c p) (d : DamId) : WarnedAt c (dwellEnds c d p) :=
  dwellEnds_warned d fun e _ => h e

theorem Sounded.of_dams {g : GateId} (h : Sounded c p g) (dams : q.dams = p.dams) : Sounded c q g :=
  fun flood d own => by rw [dams]; exact h flood d own

theorem Sounded.put {g : GateId} (h : Sounded c p g) (x : Gate) : Sounded c (putGate g x p) g :=
  h.of_dams (putGate_dams g x p)

theorem WarnedAt.recoveryEnds (h : WarnedAt c p) (closed : ClosedAtZero p) {g : GateId} (sounded : Sounded c p g)
    (command : (p.gates.get g).command = 0) : WarnedAt c (recoveryEnds c g p) := by
  unfold Machine.recoveryEnds
  dsimp only
  split
  · refine h.shut closed ?_ ?_
    · rfl
    · exact command
  · exact h.put_sounded sounded (Gate.moveState_ne_warning _)

theorem WarnedAt.settle (h : WarnedAt c p) (closed : ClosedAtZero p) {g : GateId} (sounded : Sounded c p g) :
    WarnedAt c (settle c g p) := by
  unfold Machine.settle
  dsimp only
  split
  case isTrue shut =>
    simp only [Bool.and_eq_true, beq_iff_eq] at shut
    have recovers (t : Timer) : WarnedAt c (putGate g
        { p.gates.get g with
          state := .recovering, causes := { (p.gates.get g).causes with interlock := false }, recoveryTimer := t } p) :=
      h.put_sounded sounded (by simp)
    split
    · refine (recovers _).recoveryEnds (closed.put fun state => by cases state) (sounded.put _) ?_
      rw [putGate_get, if_pos rfl]
      exact shut.2
    · exact recovers _
  case isFalse => exact h.put_sounded sounded (by simp)

theorem WarnedAt.grant (h : WarnedAt c p) (closed : ClosedAtZero p) {g : GateId} (state : (p.gates.get g).state = .moving) :
    WarnedAt c (grant c g p) := by
  have sounded : Sounded c p g := h.sounded (.inr (.inl state))
  have step (dir : Direction) (q : Dyn) (d : DamId) : ((recordStep c g dir q).dams.get d).warning = (q.dams.get d).warning := by
    unfold recordStep
    split
    · rw [putDam_dams, put_get_ite]
      split
      · next same => rw [same]; cases dir <;> rfl
      · rfl
    · rfl
  have put : WarnedAt c (putGate g ((p.gates.get g).granted (c.gates.get g) p.tick) (dequeue g p)) :=
    WarnedAt.put_sounded (p := dequeue g p) h sounded (by simp [Gate.granted, state])
  have stepped (dir : Direction) : WarnedAt c
      (recordStep c g dir (putGate g ((p.gates.get g).granted (c.gates.get g) p.tick) (dequeue g p))) :=
    put.of_gates (fun k w => by rw [recordStep_gates]; exact id) (step dir _)
  unfold Machine.grant
  dsimp only
  split
  · refine (stepped _).settle (fun k => ?_) fun flood d own => ?_
    · rw [recordStep_gates]
      exact ClosedAtZero.put (p := dequeue g p) closed (fun shut => by simp [Gate.granted, state] at shut) k
    · rw [step, putGate_dams]
      exact sounded flood d own
  · exact stepped _

theorem WarnedAt.soundForOrder (h : WarnedAt c p) {g : GateId} {d : DamId} (own : (c.gates.get g).inDam d = true)
    (command : (p.gates.get g).command = 0) : WarnedAt c (soundForOrder c g d p) := by
  unfold Machine.soundForOrder
  dsimp only
  split
  case h_1 sounded =>
    refine h.put fun _ e there => ?_
    rw [inDam_unique there own, sounded]
    exact Gate.warned_sounded (Gate.moveState_ne_warning _)
  case h_2 sounding =>
    refine h.put fun _ e there => ?_
    rw [inDam_unique there own, sounding]
    exact Gate.warned_waiting rfl command
  case h_3 silent =>
    have starts (t : Timer) : WarnedAt c
        (setWarning d .sounding t (putGate g { p.gates.get g with state := .warning } p)) := by
      intro e k flood there
      rw [setWarning_gates, setWarning_dams, put_get_ite, putGate_get, putGate_dams]
      by_cases same : e = d
      · subst same
        rw [if_pos rfl]
        split
        · exact Gate.warned_waiting rfl command
        · have warned := h.gate flood there
          rw [silent] at warned
          exact warned.of_silent _
      · rw [if_neg same, if_neg]
        · exact h.gate flood there
        · rintro rfl
          exact same (inDam_unique there own)
    split
    · exact (starts _).dwellEnds d
    · exact starts _

theorem WarnedAt.commitTarget (h : WarnedAt c p) (sound : SoundAt c p) {g : GateId} {v : Nat}
    (change : v ≠ (p.gates.get g).target) : WarnedAt c (commitTarget c g v p) := by
  have closed := sound.closedAtZero
  have sound_g := sound.gate g
  have same : WarnedAt c (putGate g ((p.gates.get g).retargeted v) p) :=
    h.put fun flood d own => (h.gate flood own).of_eq rfl rfl
  have closedPut : ClosedAtZero (putGate g ((p.gates.get g).retargeted v) p) := closed.put (closed g)
  have moves (sounded : Sounded c p g) : WarnedAt c
      (if v = (p.gates.get g).command then Machine.settle c g (putGate g ((p.gates.get g).retargeted v) p)
        else putGate g
          { (p.gates.get g).retargeted v with state := ((p.gates.get g).retargeted v).moveState } p) := by
    split
    · exact same.settle closedPut (sounded.put _)
    · exact h.put_sounded sounded (Gate.moveState_ne_warning _)
  cases state : (p.gates.get g).state with
  | recovering => simpa only [Machine.commitTarget, state] using same
  | warning =>
    have command := (sound_g.warning state).2.1
    simp only [Machine.commitTarget, state]
    split
    · refine h.shut closed ?_ ?_
      · rfl
      · exact command
    · exact same
  | closed =>
    obtain ⟨-, target, command⟩ := sound_g.closed state
    simp only [Machine.commitTarget, state]
    rw [if_neg (by omega)]
    split
    case h_1 d dam =>
      refine same.soundForOrder (inDam_of_dam? dam) ?_
      rw [putGate_get, if_pos rfl]
      exact command
    case h_2 none =>
      refine h.put fun _ d own => ?_
      rw [dam?_of_inDam own] at none
      cases none
  | settled => simpa only [Machine.commitTarget, state] using moves (h.sounded (.inl state))
  | moving => simpa only [Machine.commitTarget, state] using moves (h.sounded (.inr (.inl state)))
  | held => simpa only [Machine.commitTarget, state] using moves (h.sounded (.inr (.inr (.inl state))))
  | outOfService => simpa only [Machine.commitTarget, state] using h
  | faulted => simpa only [Machine.commitTarget, state] using h

theorem WarnedAt.commitItems : (items : List Item) → {p : Dyn} → SoundAt c p → WarnedAt c p →
    WarnedAt c (commitItems c items p)
  | [], _, _, start => start
  | e :: items, p, sound, start => by
    rw [commitItems_cons]
    split
    case isTrue => exact WarnedAt.commitItems items sound start
    case isFalse change =>
      exact WarnedAt.commitItems items (sound.commitTarget change) (start.commitTarget sound change)

/-- Gate g of dam d enters service, and the dam sounds for it if it is an open flood gate (R4, R22). -/
theorem WarnedAt.entered (h : WarnedAt c p) {g : GateId} {d : DamId} (own : (c.gates.get g).inDam d = true)
    (linked : Linked c (enteredAt c g d p) q) : WarnedAt c (soundForEntry c g d (p.gates.get g).feedback q) := by
  have record (k : GateId) : (enteredAt c g d p).gates.get k = if k = g then
      (p.gates.get g).entered (c.gates.get g).kind p.mode (p.dams.get d).hold else p.gates.get k := putGate_get g _ p k
  have warning (e : DamId) : (q.dams.get e).warning = (p.dams.get e).warning := by
    obtain ⟨b, dam⟩ := linked.frame.dams e
    rw [dam]
    exact congrArg (fun x : Vector Dam 6 => (x.get e).warning) (putGate_dams g _ p)
  have others (e : DamId) (other : e ≠ d) : DamWarned c q e := fun k flood there => by
    rw [warning]
    refine (linked.frame.gates k).warned ?_
    rw [record, if_neg]
    · exact h.gate flood there
    · rintro rfl
      exact other (inDam_unique there own)
  unfold soundForEntry
  split
  case isTrue opens =>
    obtain ⟨flood, above⟩ : (c.gates.get g).kind = .flood ∧ 0 < (p.gates.get g).feedback := by simpa using opens
    have settled : ((p.gates.get g).entered (c.gates.get g).kind p.mode (p.dams.get d).hold).state = .settled := by
      rw [Gate.entered, if_neg]
      simp only [Bool.and_eq_true, beq_iff_eq, not_and]
      exact fun _ => by omega
    have stays (quiet : (q.dams.get d).warning ≠ .sounding) (k : GateId) (flood : (c.gates.get k).kind = .flood)
        (there : (c.gates.get k).inDam d = true) : (q.gates.get k).state ≠ .warning := by
      refine (linked.frame.gates k).notWaiting ?_
      rw [record]
      split
      · rw [settled]; simp
      · intro waits
        exact quiet ((warning d).trans ((h.gate flood there (Gate.inService_of_state waits (by simp))).2.2 waits))
    unfold soundAtEntry
    split
    case h_1 silent =>
      intro e
      by_cases same : e = d
      · subst same
        refine .of_sounded (by rw [setWarning_dams, put_get_ite, if_pos rfl]) ?_
        rw [setWarning_gates]
        exact stays (by simp [silent])
      · intro k flood there
        rw [setWarning_gates, setWarning_dams, put_get_ite, if_neg same]
        exact others e same k flood there
    case h_2 => exact dwellEnds_warned d others
    case h_3 sounded =>
      intro e
      by_cases same : e = d
      · subst same
        exact .of_sounded sounded (stays (by simp [sounded]))
      · exact others e same
  case isFalse shut =>
    refine Linked.warnedAt linked (WarnedAt.put h fun flood e _ => ?_)
    have zero : (p.gates.get g).feedback = 0 := by
      by_contra above
      exact shut (by simp [flood, Nat.pos_of_ne_zero above])
    exact Gate.warned_closed (by simp [Gate.entered, flood, zero]) zero _

theorem WarnedAt.changeCauses (h : WarnedAt c p) (sel : GateId → Bool) (f : Causes → Causes) :
    WarnedAt c (changeCauses sel f p) := by
  refine h.of_gates (fun g w warned => ?_) fun d => by rw [changeCauses_keeps Dyn.dams putGate_dams]
  rw [changeCauses_get]
  split
  · exact warned.withCauses _
  · exact warned

theorem WarnedAt.clearInterlocks (h : WarnedAt c p) (e : Tables) (sel : CondId → Bool) :
    WarnedAt c (clearInterlocks e sel p) := by
  refine h.of_gates (fun g w warned => ?_) fun d => by rw [clearInterlocks_keeps Dyn.dams putGate_dams]
  rw [clearInterlocks_get]
  split
  · exact warned.withCauses _
  · exact warned

theorem Turn.warnedAt (h : Turn True c p q) (sound : SoundAt c p) (start : WarnedAt c p) : WarnedAt c q := by
  have closed := sound.closedAtZero
  have moving {g : GateId} (queued : True → g ∈ p.queue) := sound.queue.moving g (queued trivial)
  cases h with
  | link h => exact Linked.warnedAt (.single h) start
  | join => exact start
  | grant queued => exact start.grant closed (moving queued)
  | @lose g _ queued =>
    exact WarnedAt.put (p := dequeue g p) start fun flood d own => (start.gate flood own).withCauses _
  | @fault g cause acts =>
    have served := Gate.inService_of_lag (sound.gate g) acts
    refine WarnedAt.put start fun flood d own _ => ?_
    exact ⟨(start.gate flood own served).1, fun state => by simp [Gate.faulted] at state, fun state => by cases state⟩
  | @recover g runs =>
    have state := (sound.gate g).recovery runs
    exact start.recoveryEnds closed (start.sounded (by simp [state])) ((sound.gate g).recovering state).2
  | dwell d => exact start.dwellEnds d
  | enter _ dam linked => exact start.entered (inDam_of_dam? dam) linked
  | exit => exact WarnedAt.put start fun _ _ _ => Gate.warned_out rfl _
  | silence g => exact start.silenceCheckOf closed g
  | @commit u items _ linked =>
    have admitted : SoundAt c (admittedAt c items p) := sound.of_eq rfl rfl rfl
    exact WarnedAt.commitItems items (linked.soundAt admitted) (linked.warnedAt (p := admittedAt c items p) start)
  | tune tuned => exact start.put fun flood d own => (start.gate flood own).of_eq tuned.state tuned.command
  | age g =>
    refine start.of_gates (fun k w warned => ?_) fun _ => rfl
    show ((Table.put p.gates g _).get k).Warned w
    rw [put_get_ite]
    split
    · next same => subst same; exact warned
    · exact warned
  | forget d dir =>
    refine start.of_gates (fun _ _ => id) fun e => ?_
    rw [putDam_dams, put_get_ite]
    split
    · next same => rw [same]; cases dir <;> rfl
    · rfl
  | mark => exact start
  | level => exact start
  | clearHold d =>
    have cleared : WarnedAt c (putDam d { p.dams.get d with hold := false } p) :=
      start.of_gates (fun _ _ => id) fun e => by
        rw [putDam_dams, put_get_ite]
        split
        · next same => rw [same]
        · rfl
    have released := WarnedAt.changeCauses cleared (fun g => (c.gates.get g).inDam d) (fun cs => { cs with dam := false })
    unfold Machine.clearHold
    dsimp only
    split
    · exact released.of_gates (fun g w => by rw [markReach_gates]; exact id) fun e => by rw [markReach_dams]
    · exact start

theorem Turns.warnedAt (h : Turns True c p q) (sound : SoundAt c p) (start : WarnedAt c p) : WarnedAt c q := by
  have both : SoundAt c q ∧ WarnedAt c q :=
    chain_keeps (P := fun u => SoundAt c u ∧ WarnedAt c u)
      (fun _ _ turn h => ⟨turn.soundAt h.1, turn.warnedAt h.1 h.2⟩) h ⟨sound, start⟩
  exact both.2

theorem TableStep.warnedAt {e : Tables} (h : TableStep p c e) (start : WarnedAt c p) : WarnedAt e p := by
  cases h with
  | @gate g x out =>
    intro d k flood own
    by_cases same : k = g
    · exact Gate.warned_out (same ▸ out) _
    · dsimp only at flood own
      rw [put_get_ite, if_neg same] at flood own
      exact start.gate flood own
  | _ => exact start

end States

theorem Effect.floodGatesWarned {s t : State} (h : Effect True s t) (sound : GatesSound s) (start : FloodGatesWarned s) :
    FloodGatesWarned t := by
  have soundAt := gatesSound_iff.mp sound
  have before := floodGatesWarned_iff.mp start
  cases h with
  | store => exact start
  | pending => exact start
  | turn h => exact floodGatesWarned_iff.mpr (h.warnedAt soundAt before)
  | @desk q plant =>
    have same {β : Type} (f : Plant → β) : f q.plant = f s.dyn.plant := congrArg f plant
    have gates : q.gates = s.dyn.gates := same Plant.gates
    exact floodGatesWarned_iff.mpr
      (before.of_gates (q := q) (fun g w => by rw [gates]; exact id) fun d => same fun x => x.warning d)
  | @request q p j _ _ turns =>
    have kept : WarnedAt s.tables p := turns.warnedAt (soundAt.of_eq rfl rfl rfl) before
    exact floodGatesWarned_iff.mpr kept
  | toRun => exact start
  | toConfig =>
    refine floodGatesWarned_iff.mpr (before.of_gates (fun g w => ?_) fun d => ?_)
    · dsimp only
      rw [uncredit_gates]
      exact id
    · dsimp only
      rw [uncredit_dams]
  | toExiting => exact start
  | resume =>
    have marked : WarnedAt s.tables (markSummary { s.dyn with mode := .run, debt := 0, progress := 0 }) := before
    refine floodGatesWarned_iff.mpr ?_
    dsimp only
    rw [resumed]
    exact marked.changeCauses _ _
  | arrival =>
    refine floodGatesWarned_iff.mpr (before.of_gates (fun g w warned => ?_) fun d => ?_)
    · have counted : (countArrival s.dyn).gates.get g = (s.dyn.gates.get g).counted := Table.tab_get _ g
      dsimp only
      rw [counted]
      exact warned
    · have counted : (countArrival s.dyn).dams.get d = (s.dyn.dams.get d).counted := by
        rw [countArrival, Table.tab_get]
      dsimp only
      rw [counted]
      rfl
  | statusWord n w =>
    have stored : WarnedAt s.tables { s.dyn with statusWords := Table.put s.dyn.statusWords n w } := before
    refine floodGatesWarned_iff.mpr ?_
    dsimp only
    exact stored.clearInterlocks _ _
  | condition k x =>
    have reworded : WarnedAt { s.tables with conditions := Table.put s.tables.conditions k x } s.dyn := before
    refine floodGatesWarned_iff.mpr ?_
    dsimp only
    exact reworded.clearInterlocks _ _
  | reach => exact start
  | tables step => exact floodGatesWarned_iff.mpr (step.warnedAt before)
  | powerOn => exact State.IsInitial.floodGatesWarned ⟨_, _, _, _, _, rfl⟩
  | resetLine => exact State.IsInitial.floodGatesWarned ⟨_, _, _, _, _, rfl⟩

/-- Settles O57: every effect keeps the flood gates in agreement with their dams' warnings. -/
theorem everyStepKeepsTheFloodGatesWarned : Obligations.EveryStepKeepsTheFloodGatesWarned :=
  step_keeps_with_gatesSound fun _ _ => Effect.floodGatesWarned

end Sys2Proof.Machine
end

section
/-! The layouts of written words and of the part's own words, field by field (Section 11, R10, R11, R95, R130, R152,
R156 to R159; O26). -/

namespace Sys2Proof.Machine

/-! ### Words as fields -/

theorem toNat_append_eq {m n : Nat} (x : BitVec m) (y : BitVec n) : (x ++ y).toNat = x.toNat * 2 ^ n + y.toNat := by
  rw [BitVec.toNat_append, ← Nat.shiftLeft_add_eq_or_of_lt y.isLt, Nat.shiftLeft_eq]

/-- The four digits of a packed word. -/
theorem extract_digits (a b c d : BitVec 4) :
    (a ++ b ++ c ++ d).extractLsb' 12 4 = a ∧ (a ++ b ++ c ++ d).extractLsb' 8 4 = b ∧
      (a ++ b ++ c ++ d).extractLsb' 4 4 = c ∧ (a ++ b ++ c ++ d).extractLsb' 0 4 = d := by
  refine ⟨?_, ?_, ?_, ?_⟩ <;>
  · refine BitVec.eq_of_getLsbD_eq fun i hi => ?_
    simp only [BitVec.getLsbD_append, BitVec.getLsbD_extractLsb']
    interval_cases i <;> simp

/-! ### Written words (R159) -/

theorem kind_flag (b : Bool) : ((if b then GateKind.flood else GateKind.wicket) == .flood) = b := by cases b <;> rfl

theorem gateConfig_word0 (w : Word) :
    (0 : BitVec 7) ++ BitVec.ofBool (w.getLsbD 8) ++ (0 : BitVec 5) ++ w.extractLsb' 0 3 = w &&& 0x0107 := by
  refine BitVec.eq_of_getLsbD_eq fun i hi => ?_
  simp only [BitVec.getLsbD_append, BitVec.getLsbD_and, BitVec.getLsbD_extractLsb']
  interval_cases i <;> simp

theorem gateConfig_word1 (w : Word) : (0 : BitVec 8) ++ w.extractLsb' 0 8 = w &&& 0x00FF := by
  refine BitVec.eq_of_getLsbD_eq fun i hi => ?_
  simp only [BitVec.getLsbD_append, BitVec.getLsbD_and, BitVec.getLsbD_extractLsb']
  interval_cases i <;> simp

theorem gateConfig_word6 (w : Word) :
    w.extractLsb' 14 2 ++ w.extractLsb' 8 6 ++ (0 : BitVec 2) ++ w.extractLsb' 0 6 = w &&& 0xFF3F := by
  refine BitVec.eq_of_getLsbD_eq fun i hi => ?_
  simp only [BitVec.getLsbD_append, BitVec.getLsbD_and, BitVec.getLsbD_extractLsb']
  interval_cases i <;> simp

theorem and_ones (w : Word) : w &&& 0xFFFF = w := BitVec.and_allOnes (x := w)

/-- The words of a gate's configuration record. -/
theorem GateConfig.withWord_word (c : GateConfig) (i j : Fin 7) (w : Word) : (c.withWord i w).word j =
    if j = i then w &&& (if i = 0 then 0x0107 else if i = 1 then 0x00FF else if i = 6 then 0xFF3F else 0xFFFF)
    else c.word j := by
  by_cases same : j = i
  · subst same
    rw [if_pos rfl]
    fin_cases j
    · simpa [GateConfig.word, GateConfig.withWord, kind_flag] using gateConfig_word0 w
    · exact gateConfig_word1 w
    iterate 4 exact (and_ones w).symm
    · exact gateConfig_word6 w
  · rw [if_neg same]
    fin_cases i <;> fin_cases j <;> simp at same <;> rfl

theorem GateConfig.withWord_kind (c : GateConfig) (w : Word) :
    (c.withWord 0 w).kind = if w.getLsbD 8 then .flood else .wicket := rfl

theorem ReachConfig.withWord_word (c : ReachConfig) (i j : Fin 11) (w : Word) :
    (c.withWord i w).word j = if j = i then w else c.word j := by
  by_cases same : j = i
  · subst same
    rw [if_pos rfl]
    fin_cases j <;> rfl
  · rw [if_neg same]
    fin_cases i <;> fin_cases j <;> simp at same <;> rfl

theorem portalConfig_word0 (w : Word) :
    BitVec.ofBool (w.getLsbD 15) ++ (0 : BitVec 1) ++ w.extractLsb' 12 2 ++ w.extractLsb' 10 2 ++ (0 : BitVec 6) ++
      w.extractLsb' 0 4 = w &&& 0xBC0F := by
  refine BitVec.eq_of_getLsbD_eq fun i hi => ?_
  simp only [BitVec.getLsbD_append, BitVec.getLsbD_and, BitVec.getLsbD_extractLsb']
  interval_cases i <;> simp

theorem portalConfig_word1 (w : Word) : (0 : BitVec 10) ++ w.extractLsb' 0 6 = w &&& 0x003F := by
  refine BitVec.eq_of_getLsbD_eq fun i hi => ?_
  simp only [BitVec.getLsbD_append, BitVec.getLsbD_and, BitVec.getLsbD_extractLsb']
  interval_cases i <;> simp

theorem PortalConfig.withWord_word (c : PortalConfig) (i j : Fin 2) (w : Word) : (c.withWord i w).word j =
    if j = i then w &&& (if i = 0 then 0xBC0F else 0x003F) else c.word j := by
  by_cases same : j = i
  · subst same
    rw [if_pos rfl]
    fin_cases j
    · exact portalConfig_word0 w
    · exact portalConfig_word1 w
  · rw [if_neg same]
    fin_cases i <;> fin_cases j <;> simp at same <;> rfl

theorem Test.code_ofCode (t : BitVec 2) : BitVec.ofNat 2 (Test.ofCode t.toNat).code = t := by
  revert t; decide

theorem condition_word0 (w : Word) :
    (0 : BitVec 6) ++ w.extractLsb' 8 2 ++ (0 : BitVec 4) ++ w.extractLsb' 0 4 = w &&& 0x030F := by
  refine BitVec.eq_of_getLsbD_eq fun i hi => ?_
  simp only [BitVec.getLsbD_append, BitVec.getLsbD_and, BitVec.getLsbD_extractLsb']
  interval_cases i <;> simp

theorem Condition.withWord_word (c : Condition) (i j : Fin 2) (w : Word) : (c.withWord i w).word j =
    if j = i then w &&& (if i = 0 then 0x030F else 0xFFFF) else c.word j := by
  by_cases same : j = i
  · subst same
    rw [if_pos rfl]
    fin_cases j
    · have source : BitVec.ofNat 4 (w.extractLsb' 0 4).toFin.val = w.extractLsb' 0 4 := BitVec.ofNat_toNat ..
      show (0 : BitVec 6) ++ BitVec.ofNat 2 (Test.ofCode (w.extractLsb' 8 2).toNat).code ++ (0 : BitVec 4) ++
        BitVec.ofNat 4 (w.extractLsb' 0 4).toFin.val = w &&& 0x030F
      rw [Test.code_ofCode, source]
      exact condition_word0 w
    · exact (and_ones w).symm
  · rw [if_neg same]
    fin_cases i <;> fin_cases j <;> simp at same <;> rfl

theorem masterWord_masterOfWord (w : Word) : masterWord (masterOfWord w) = w &&& 0x8003 := by
  unfold masterWord masterOfWord
  refine BitVec.eq_of_getLsbD_eq fun i hi => ?_
  simp only [BitVec.getLsbD_append, BitVec.getLsbD_and, BitVec.getLsbD_extractLsb']
  interval_cases i <;> simp

theorem descriptorWord_descriptorOfWord (w : Word) : descriptorWord (descriptorOfWord w) = w &&& 0xFCFF := by
  unfold descriptorWord descriptorOfWord
  refine BitVec.eq_of_getLsbD_eq fun i hi => ?_
  simp only [BitVec.getLsbD_append, BitVec.getLsbD_and, BitVec.getLsbD_extractLsb']
  interval_cases i <;> simp

theorem keepMask_ofWord (c : Tables) (w : Word) :
    Tables.keepMask { c with dams := Table.tab fun d => { c.dams.get d with keep := w.getLsbD d.val } } =
      w &&& 0x003F := by
  simp only [Tables.keepMask, Table.tab_get]
  refine BitVec.eq_of_getLsbD_eq fun i hi => ?_
  simp only [BitVec.getLsbD_append, BitVec.getLsbD_and]
  interval_cases i <;> simp

/-! ### Values (R51, 11.3) -/

theorem decodeValue_binary (max : Nat) (w : Word) :
    decodeValue false max w = if w.toNat ≤ max then some w.toNat else none := rfl

theorem bcdValue_bcdWord {n : Nat} (h : n ≤ 9999) : bcdValue (bcdWord n) = some n := by
  obtain ⟨d3, d2, d1, d0⟩ := extract_digits (BitVec.ofNat 4 (n / 1000 % 10)) (BitVec.ofNat 4 (n / 100 % 10))
    (BitVec.ofNat 4 (n / 10 % 10)) (BitVec.ofNat 4 (n % 10))
  unfold bcdValue bcdWord
  dsimp only
  rw [d3, d2, d1, d0]
  simp only [BitVec.toNat_ofNat]
  rw [if_pos (by omega)]
  congr 1
  omega

theorem decodeValue_bcdWord (n max : Nat) (h : n ≤ 9999) :
    decodeValue true max (bcdWord n) = if n ≤ max then some n else none := by
  rw [decodeValue, if_pos rfl, bcdValue_bcdWord h]

theorem decodeValue_badDigit (max : Nat) (w : Word) (n : Fin 4) (h : 9 < (w.extractLsb' (4 * n.val) 4).toNat) :
    decodeValue true max w = none := by
  have none : bcdValue w = none := by
    unfold bcdValue
    dsimp only
    rw [if_neg]
    rintro ⟨d3, d2, d1, d0⟩
    fin_cases n
    · exact absurd d0 (by simpa using h)
    · exact absurd d1 (by simpa using h)
    · exact absurd d2 (by simpa using h)
    · exact absurd d3 (by simpa using h)
  rw [decodeValue, if_pos rfl, none]

/-! ### The part's own words -/

theorem GateState.code_lt (x : GateState) : x.code < 8 := by cases x <;> decide

theorem stampWord_toNat (n : BitVec 8) (g : Gate) : (stampWord n g).toNat =
    256 * n.toNat + 128 * (g.causes.mode || g.causes.dam || g.causes.interlock).toNat + g.state.code := by
  simp only [stampWord, toNat_append_eq, BitVec.toNat_ofNat, BitVec.toNat_ofBool, Nat.mod_eq_of_lt g.state.code_lt]
  simp
  omega

theorem codeNumber_eq (x : Option Code) : codeNumber x = match x with | none => 0 | some x => x.number := by
  cases x <;> rfl

theorem codeNumber_lt (x : Option Code) : codeNumber x < 32 := by
  cases x with
  | none => decide
  | some x => cases x <;> decide

theorem gateMirrorValue_state (decimal : Bool) (g : Gate) : (gateMirrorValue decimal g 0).toNat =
    256 * (match g.faultCause with | none => 0 | some .lag => 1 | some .store => 2) +
      64 * g.causes.interlock.toNat + 32 * g.causes.dam.toNat + 16 * g.causes.mode.toNat + g.state.code := by
  have code := g.state.code_lt
  have fault : faultCode g.faultCause % 4 = match g.faultCause with | none => 0 | some .lag => 1 | some .store => 2 := by
    cases g.faultCause with
    | none => rfl
    | some x => cases x <;> rfl
  have word : gateMirrorValue decimal g 0 = (0 : BitVec 6) ++ BitVec.ofNat 2 (faultCode g.faultCause) ++
      (0 : BitVec 1) ++ BitVec.ofBool g.causes.interlock ++ BitVec.ofBool g.causes.dam ++
      BitVec.ofBool g.causes.mode ++ (0 : BitVec 1) ++ BitVec.ofNat 3 g.state.code := rfl
  simp only [word, toNat_append_eq, BitVec.toNat_ofNat, BitVec.toNat_ofBool]
  simp [Nat.mod_eq_of_lt code, fault]
  omega

theorem gateMirrorValue_words (decimal : Bool) (g : Gate) :
    gateMirrorValue decimal g 1 = (if decimal then bcdWord g.target else BitVec.ofNat 16 g.target) ∧
      gateMirrorValue decimal g 2 = (if decimal then bcdWord g.command else BitVec.ofNat 16 g.command) ∧
      gateMirrorValue decimal g 3 = (match g.lastRefusal with | none => 0 | some x => BitVec.ofNat 16 x.number) :=
  ⟨rfl, rfl, by cases h : g.lastRefusal <;> simp [gateMirrorValue, codeNumber, h]⟩

section Reaches

variable (c : Tables) (p : Dyn) (r : ReachId)

theorem reachMirrorValue_flags : (reachMirrorValue c p r 4).toNat =
    1024 * (p.reaches.get r).b.freshness.code + 256 * (p.reaches.get r).a.freshness.code +
      32 * (p.reaches.get r).exceeded.toNat + 16 * (p.reaches.get r).split.toNat +
      (p.reaches.get r).levelState.code := by
  have fresh (x : Freshness) : x.code < 4 := by cases x <;> decide
  have level (x : LevelState) : x.code < 4 := by cases x <;> decide
  have fresh4 (x : Freshness) : x.code % 4 = x.code := Nat.mod_eq_of_lt (fresh x)
  have level4 (x : LevelState) : x.code % 4 = x.code := Nat.mod_eq_of_lt (level x)
  have word : reachMirrorValue c p r 4 = (0 : BitVec 4) ++ BitVec.ofNat 2 (p.reaches.get r).b.freshness.code ++
      BitVec.ofNat 2 (p.reaches.get r).a.freshness.code ++ (0 : BitVec 2) ++
      BitVec.ofBool (p.reaches.get r).exceeded ++ BitVec.ofBool (p.reaches.get r).split ++ (0 : BitVec 2) ++
      BitVec.ofNat 2 (p.reaches.get r).levelState.code := rfl
  simp only [word, toNat_append_eq, BitVec.toNat_ofNat, BitVec.toNat_ofBool]
  simp [fresh4, level4]
  omega

theorem reachMirrorValue_dam : (reachMirrorValue c p r 5).toNat =
    16 * (p.dams.get r).hold.toNat + (p.dams.get r).warning.code := by
  have code (x : Warning) : x.code % 4 = x.code := by cases x <;> rfl
  have word : reachMirrorValue c p r 5 = (0 : BitVec 11) ++ BitVec.ofBool (p.dams.get r).hold ++ (0 : BitVec 2) ++
      BitVec.ofNat 2 (p.dams.get r).warning.code := rfl
  simp only [word, toNat_append_eq, BitVec.toNat_ofNat, BitVec.toNat_ofBool]
  simp [code]
  omega

theorem reachMirrorValue_sequence : (reachMirrorValue c p r 6).toNat = (p.dams.get r).sequence.toNat := by
  have word : reachMirrorValue c p r 6 = (0 : BitVec 8) ++ (p.dams.get r).sequence := rfl
  simp only [word, toNat_append_eq]
  simp

theorem reachMirrorValue_gates : (reachMirrorValue c p r 7).toNat =
    ((List.finRange 48).filter fun g => (p.gates.get g).state != .outOfService && (c.gates.get g).inDam r).length := by
  have few : gatesInService c p r ≤ 48 := (List.length_filter_le _ _).trans (by simp)
  show gatesInService c p r % 65536 = gatesInService c p r
  omega

end Reaches

theorem ofInt4_toNat (n : Int) : (BitVec.ofInt 4 n).toNat = (n % 16).toNat := by
  simp [BitVec.toNat_ofInt]

theorem summaryWord_toNat (done : Bool) (p : Dyn) : (summaryWord done p).toNat =
    32768 * done.toNat + 16384 * p.logLost.toNat + 4 * (p.debt % 16).toNat + p.mode.code := by
  have code (x : Mode) : x.code % 4 = x.code := by cases x <;> rfl
  simp only [summaryWord, toNat_append_eq, BitVec.toNat_ofNat, BitVec.toNat_ofBool, ofInt4_toNat]
  simp [code]
  omega

theorem contextWord_toNat (x : Context) : (contextWord x).toNat =
    match x with | .gate x => x.code | .mode x => 32768 + x.code := by
  cases x with
  | gate x => cases x <;> rfl
  | mode x => cases x <;> rfl

theorem LogRecord.word_toNat (r : LogRecord) :
    (r.word 0).toNat = 16384 * r.kind.code + r.code.toNat ∧ (r.word 1).toNat = 256 * r.master.val + r.page.val ∧
    (r.word 2).toNat = 256 * r.qualifier.toNat + r.subject.toNat ∧ r.word 3 = r.value ∧
    (r.word 4).toNat = r.tick.toNat % 65536 ∧ (r.word 5).toNat = r.tick.toNat / 65536 ∧ r.word 6 = r.detail ∧
    (r.word 7).toNat = (match r.context with | .gate x => x.code | .mode x => 32768 + x.code) := by
  have kind (x : RecordKind) : x.code % 4 = x.code := by cases x <;> rfl
  have master := r.master.isLt
  have page := r.page.isLt
  have tick := r.tick.isLt
  refine ⟨?_, ?_, ?_, rfl, ?_, ?_, rfl, contextWord_toNat _⟩
  · have word : r.word 0 = BitVec.ofNat 2 r.kind.code ++ (0 : BitVec 9) ++ r.code := rfl
    simp only [word, toNat_append_eq, BitVec.toNat_ofNat]
    simp [kind]
    omega
  · have word : r.word 1 = (0 : BitVec 5) ++ BitVec.ofNat 3 r.master.val ++ BitVec.ofNat 8 r.page.val := rfl
    simp only [word, toNat_append_eq, BitVec.toNat_ofNat]
    simp
    omega
  · have word : r.word 2 = r.qualifier ++ r.subject := rfl
    simp only [word, toNat_append_eq]
    omega
  · have word : r.word 4 = r.tick.extractLsb' 0 16 := rfl
    simp [word]
  · have word : r.word 5 = r.tick.extractLsb' 16 16 := rfl
    simp only [word, BitVec.extractLsb'_toNat, Nat.shiftRight_eq_div_pow]
    omega

theorem resultWord_toNat (j : PortalJob) :
    (resultWord0 j).toNat = 256 * j.status.code + j.sequence.toNat ∧
      (j.index < 16 →
        (resultWord1 j).toNat = 256 * (match j.code with | none => 0 | some x => x.number) + j.index) := by
  have status (x : PortalStatus) : x.code % 4 = x.code := by cases x <;> rfl
  refine ⟨?_, fun index => ?_⟩
  · simp only [resultWord0, toNat_append_eq, BitVec.toNat_ofNat]
    simp [status]
    omega
  · have code := codeNumber_lt j.code
    rw [← codeNumber_eq]
    simp only [resultWord1, toNat_append_eq, BitVec.toNat_ofNat]
    simp [Nat.mod_eq_of_lt code, Nat.mod_eq_of_lt index]
    omega

/-! ### The CRC (R95) -/

theorem crc_append (ws : List Word) (w : Word) : crc (ws ++ [w]) = crcWord (crc ws) w := by
  simp [crc, List.foldl_append]

theorem crcWord_eq (x w : Word) :
    crcWord x w = (List.range 16).foldl (fun y n => crcBit y (w.getLsbD (15 - n))) x := rfl

theorem crcBit_getLsbD (x : Word) (b : Bool) (n : Fin 16) : (crcBit x b).getLsbD n.val =
    ((decide (0 < n.val) && x.getLsbD (n.val - 1)) != ((x.getLsbD 15 != b) && (n == 12 || n == 5 || n == 0))) := by
  unfold crcBit
  cases differ : x.getLsbD 15 != b <;> fin_cases n <;> simp

/-! ### Lines and places -/

theorem outputLines (p : Dyn) :
    (∀ d, (holdLine p d = true ↔ (p.dams.get d).hold = true) ∧
      (warnLine p d = true ↔ (p.dams.get d).warning = .sounding ∨ (p.dams.get d).warning = .sounded)) ∧
    (∀ k, alarmLine p k = true ↔ p.alarms.get k = true) ∧
    (alertLine p = true ↔ p.passKind = none ∧ p.logWrite ≠ p.logRead) := by
  refine ⟨fun d => ⟨Iff.rfl, ?_⟩, fun k => Iff.rfl, ?_⟩
  · unfold warnLine
    cases (p.dams.get d).warning <;> decide
  · simp [alertLine]

theorem gatePlaces (g : GateId) : (gateConfigPage g).val = 3 + g.val / 16 ∧ (slotPage g).val = 14 + g.val / 32 ∧
    (∀ i, (gateConfigWord g i).val = 8 * (g.val % 16) + i.val) ∧
    ∀ i, (slotWord g i).val = 4 * (g.val % 32) + i.val := by
  refine ⟨rfl, ?_, fun _ => rfl, fun _ => rfl⟩
  have below := g.isLt
  unfold slotPage
  split
  · show 14 = 14 + g.val / 32
    omega
  · show 15 = 14 + g.val / 32
    omega

theorem gateNamed_config (g : GateId) (i : Fin 8) : gateNamed (gateConfigPage g) (gateConfigWord g i) = some g := by
  revert g i; decide

theorem gateNamed_slot (g : GateId) (i : Fin 4) : gateNamed (slotPage g) (slotWord g i) = some g := by
  revert g i; decide

/-- A word that names a gate is one of its configuration or of its slot. -/
theorem place_of_gateNamed {q : PageId} {w : WordIdx} {g : GateId} (h : gateNamed q w = some g) :
    (∃ i, (q, w) = (gateConfigPage g, gateConfigWord g i)) ∨ ∃ i, (q, w) = (slotPage g, slotWord g i) := by
  have word := w.isLt
  unfold gateNamed at h
  split at h
  case isTrue config =>
    obtain rfl := Option.some.inj h
    refine .inl ⟨⟨w.val % 8, Nat.mod_lt _ (by decide)⟩, Prod.ext (Fin.ext ?_) (Fin.ext ?_)⟩
    · show q.val = 3 + (16 * (q.val - 3) + w.val / 8) / 16
      omega
    · show w.val = 8 * ((16 * (q.val - 3) + w.val / 8) % 16) + w.val % 8
      omega
  case isFalse =>
    split at h
    case isTrue slot =>
      split at h
      case isTrue named =>
        obtain rfl := Option.some.inj h
        refine .inr ⟨⟨w.val % 4, Nat.mod_lt _ (by decide)⟩, Prod.ext (Fin.ext ?_) (Fin.ext ?_)⟩
        · rw [(gatePlaces _).2.1]
          show q.val = 14 + (32 * (q.val - 14) + w.val / 4) / 32
          omega
        · show w.val = 4 * ((32 * (q.val - 14) + w.val / 4) % 32) + w.val % 4
          omega
      case isFalse => cases h
    case isFalse => cases h

/-! ### Records (Table 10-1) -/

theorem refusalRecord_fields (t : Transaction) (x : Code) (detail : Nat) (p : Dyn) : ∃ context : Context,
    refusalRecord t x detail p =
      { kind := .refusal, code := BitVec.ofNat 5 x.number, master := t.master, page := t.page
        qualifier := if t.write then 1 else 0, subject := BitVec.ofNat 8 t.word.val
        value := if t.write then t.data else 0, tick := p.tick, detail := BitVec.ofNat 16 detail, context := context } ∧
    (∀ g : GateId, (∃ i, (t.page, t.word) = (gateConfigPage g, gateConfigWord g i)) ∨
        (∃ i, (t.page, t.word) = (slotPage g, slotWord g i)) → context = .gate (p.gates.get g).state) ∧
    ((∀ (g : GateId), (∀ i, (t.page, t.word) ≠ (gateConfigPage g, gateConfigWord g i)) ∧
        ∀ i, (t.page, t.word) ≠ (slotPage g, slotWord g i)) → context = .mode p.mode) := by
  refine ⟨_, rfl, fun g named => ?_, fun nowhere => ?_⟩
  · have gate : gateNamed t.page t.word = some g := by
      obtain ⟨i, place⟩ | ⟨i, place⟩ := named <;> obtain ⟨page, word⟩ := Prod.mk.inj place <;> rw [page, word]
      · exact gateNamed_config g i
      · exact gateNamed_slot g i
    simp [gate]
  · have none : gateNamed t.page t.word = none := by
      by_contra some
      obtain ⟨g, gate⟩ := Option.ne_none_iff_exists'.mp some
      obtain ⟨i, place⟩ | ⟨i, place⟩ := place_of_gateNamed gate
      · exact (nowhere g).1 i place
      · exact (nowhere g).2 i place
    simp [none]

theorem Event.record_fields (e : Event) (tick : BitVec 32) : e.record tick =
    { kind := .event, code := BitVec.ofNat 5 e.kind.code, master := e.master, page := e.page
      qualifier := BitVec.ofNat 8 e.qualifier
      subject := BitVec.ofNat 8
        (match e.subject with | .reach r => r.val | .gate g => g.val | .portal q => q.val | .none => 255)
      value := e.value, tick := tick, detail := e.detail, context := e.context } := by
  obtain ⟨kind, subject, master, page, qualifier, value, detail, context⟩ := e
  cases subject <;> rfl

theorem boundEvent_fields (c : Tables) (p : Dyn) (r : ReachId) (b : Bound) : ∃ value : Word,
    boundEvent c r b p =
      ⟨.boundExceeded, .reach r, 0, 6, match b with | .ceiling => 0 | .floor => 1 | .surplus => 2 | .draw => 3, value,
        match b with
          | .ceiling => (p.reaches.get r).ceff
          | .floor => (c.reaches.get r).floor
          | .surplus => (c.reaches.get r).surplus
          | .draw => (p.reaches.get r).deff,
        .mode p.mode⟩ ∧
    (-32768 ≤ b.expression p.totals r → b.expression p.totals r ≤ 32767 →
      value = BitVec.ofInt 16 (b.expression p.totals r)) := by
  refine ⟨expressionWord p.moment r b (b.expression p.totals r), ?_, fun low high => if_pos ⟨low, high⟩⟩
  cases b <;> rfl

theorem portalRefusedEvent_value (header : Word) :
    BitVec.ofNat 16 (headerSequence header).toNat = BitVec.ofNat 16 (header.toNat % 256) := by
  simp [headerSequence, BitVec.extractLsb'_toNat]

theorem resetRecord_fields (kind : PassKind) (p : Dyn) : resetRecord kind p =
    { kind := .reset, code := match kind with | .powerOn => 0 | .resetLine => 1, master := 0, page := 0, qualifier := 0
      subject := 0xFF, value := BitVec.ofNat 16 p.passFailed, tick := p.tick, detail := 0, context := .mode .config } :=
  rfl

/-- Settles O26: each layout by its own lemma; the code tables by evaluation. -/
theorem writtenWordsKeepTheirFields : Obligations.WrittenWordsKeepTheirFields := by
  unfold Obligations.WrittenWordsKeepTheirFields
  refine ⟨GateConfig.withWord_word, ReachConfig.withWord_word, PortalConfig.withWord_word, Condition.withWord_word,
    masterWord_masterOfWord, descriptorWord_descriptorOfWord, keepMask_ofWord, decodeValue_binary, decodeValue_bcdWord,
    decodeValue_badDigit, GateConfig.withWord_kind, stampWord_toNat,
    fun decimal g => ⟨gateMirrorValue_state decimal g, gateMirrorValue_words decimal g⟩,
    fun c p r => ⟨rfl, rfl, rfl, rfl, reachMirrorValue_flags c p r, reachMirrorValue_dam c p r,
      reachMirrorValue_sequence c p r, reachMirrorValue_gates c p r⟩,
    summaryWord_toNat, LogRecord.word_toNat, resultWord_toNat, ⟨rfl, crc_append, crcWord_eq, crcBit_getLsbD⟩,
    outputLines, rfl, rfl, rfl, rfl, rfl, rfl, rfl, rfl, rfl, rfl, rfl, rfl, rfl, refusalRecord_fields, gatePlaces,
    Event.record_fields, fun c p r => ⟨rfl, rfl, rfl, rfl, rfl, boundEvent_fields c p r⟩, ?interlock,
    fun p a => ⟨rfl, fun _ => rfl, rfl⟩, fun p q m header x index => ⟨?refused, rfl⟩, resetRecord_fields, rfl⟩
  case interlock =>
    intro c p g before dir k
    refine ⟨rfl, ?_⟩
    cases dir <;> rfl
  case refused => rw [portalRefusedEvent, portalRefusedEvent_value]

end Sys2Proof.Machine
end

section
/-! The bounds that an admission checks, the bound that BOUND_EXCEEDED reports, and the tests of an interlock condition
(R30, R33, R34, R37, R66; O41). -/

namespace Sys2Proof.Machine

/-! ### The first of an ordered list -/

/-- In a list ordered by `r`, the first element that passes is the one that passes and has none before it that does. -/
theorem find?_eq_some_iff_first {α : Type} {r : α → α → Prop} (asymm : ∀ x y, r x y → ¬ r y x) {p : α → Bool} {x : α} :
    (l : List α) → l.Pairwise r → (l.find? p = some x ↔ x ∈ l ∧ p x = true ∧ ∀ y ∈ l, r y x → p y = false)
  | [], _ => by simp
  | a :: l, sorted => by
    obtain ⟨before, sorted⟩ := List.pairwise_cons.mp sorted
    cases passes : p a with
    | true =>
      rw [List.find?_cons_of_pos passes, Option.some.injEq]
      constructor
      · rintro rfl
        refine ⟨List.mem_cons_self, passes, fun y hy earlier => ?_⟩
        obtain rfl | later := List.mem_cons.mp hy
        · exact absurd earlier (asymm _ _ earlier)
        · exact absurd earlier (asymm _ _ (before y later))
      · rintro ⟨listed, -, first⟩
        obtain rfl | later := List.mem_cons.mp listed
        · rfl
        · exact absurd (passes.symm.trans (first a List.mem_cons_self (before x later))) (by simp)
    | false =>
      rw [List.find?_cons_of_neg (by simp [passes]), find?_eq_some_iff_first asymm l sorted]
      constructor
      · rintro ⟨later, ok, first⟩
        refine ⟨List.mem_cons_of_mem a later, ok, fun y hy earlier => ?_⟩
        obtain rfl | hy := List.mem_cons.mp hy
        · exact passes
        · exact first y hy earlier
      · rintro ⟨listed, ok, first⟩
        obtain rfl | later := List.mem_cons.mp listed
        · exact absurd (passes.symm.trans ok) (by simp)
        · exact ⟨later, ok, fun y hy => first y (List.mem_cons_of_mem a hy)⟩

/-! ### Bounds (R30) -/

theorem mem_allBounds (b : Bound) : b ∈ allBounds := by cases b <;> decide

theorem mem_boundOrder (b : Bound) (d : ReachId) : (b, d) ∈ boundOrder := by
  simp [boundOrder, mem_allBounds]

theorem damBelow_eq {d n : DamId} (next : n.val = d.val + 1) : damBelow d = n := by
  have bound := n.isLt
  rw [damBelow, dif_pos (by omega)]
  exact Fin.ext next.symm

/-- The dam below a reach below the last dam. -/
theorem damBelow_val {d l : DamId} (below : d.val < l.val) : (damBelow d).val = d.val + 1 := by
  have bound := l.isLt
  rw [damBelow, dif_pos (by omega)]

section Violations

variable {c : Tables} {totals : Vector Word 6} {reaches : Vector Reach 6} {d : ReachId}

/-- What stops bound b at reach d: it is in force and does not hold. -/
def boundBroken (c : Tables) (totals : Vector Word 6) (reaches : Vector Reach 6) (d : ReachId) (b : Bound) : Bool :=
  b.inForce c.lastDam d && !b.holds (b.expression totals d) (b.limit (c.reaches.get d) (reaches.get d))

theorem not_decide_le (m n : Int) : (!decide (m ≤ n)) = true ↔ n < m := by simp

theorem boundBroken_surplus : boundBroken c totals reaches d .surplus = true ↔
    d.val < c.lastDam.val ∧
      ((c.reaches.get d).surplus.toNat : Int) < (totals.get d).toNat - (totals.get (damBelow d)).toNat := by
  rw [boundBroken, Bool.and_eq_true]
  exact and_congr decide_eq_true_iff (not_decide_le _ _)

theorem boundBroken_draw : boundBroken c totals reaches d .draw = true ↔
    d.val < c.lastDam.val ∧
      ((reaches.get d).deff.toNat : Int) < (totals.get (damBelow d)).toNat - (totals.get d).toNat := by
  rw [boundBroken, Bool.and_eq_true]
  exact and_congr decide_eq_true_iff (not_decide_le _ _)

theorem boundBroken_iff (b : Bound) : boundBroken c totals reaches d b = true ↔ Violated c totals reaches d b := by
  cases b with
  | ceiling => simp [boundBroken, Violated, Bound.inForce, Bound.holds, Bound.expression, Bound.limit, totalOf]
  | floor => simp [boundBroken, Violated, Bound.inForce, Bound.holds, Bound.expression, Bound.limit, totalOf]
  | surplus =>
    rw [boundBroken_surplus]
    constructor
    · rintro ⟨below, above⟩
      exact ⟨damBelow d, damBelow_val below, below, above⟩
    · rintro ⟨n, next, below, above⟩
      rw [damBelow_eq next]
      exact ⟨below, above⟩
  | draw =>
    rw [boundBroken_draw]
    constructor
    · rintro ⟨below, above⟩
      exact ⟨damBelow d, damBelow_val below, below, above⟩
    · rintro ⟨n, next, below, above⟩
      rw [damBelow_eq next]
      exact ⟨below, above⟩

theorem firstViolated_eq : firstViolated c totals reaches d = allBounds.find? (boundBroken c totals reaches d) := rfl

theorem firstViolated_eq_none_iff :
    firstViolated c totals reaches d = none ↔ ∀ k, ¬ Violated c totals reaches d k := by
  rw [firstViolated_eq, List.find?_eq_none]
  exact ⟨fun h k violated => h k (mem_allBounds k) ((boundBroken_iff k).mpr violated),
    fun h k _ broken => h k ((boundBroken_iff k).mp broken)⟩

theorem firstViolated_eq_some_iff (k : Bound) : firstViolated c totals reaches d = some k ↔
    Violated c totals reaches d k ∧ ∀ j : Bound, j.number < k.number → ¬ Violated c totals reaches d j := by
  have sorted : allBounds.Pairwise fun x y => x.number < y.number := by decide
  rw [firstViolated_eq, find?_eq_some_iff_first (fun _ _ h => Nat.lt_asymm h) _ sorted]
  simp only [mem_allBounds, true_and, true_imp_iff, boundBroken_iff, ← Bool.not_eq_true]

end Violations

/-! ### Admissions (R33, R34) -/

/-- The order of R34: ceilings, floors, surpluses, draws, each by reach. -/
def BoundBefore (x y : Bound × ReachId) : Prop :=
  x.1.number < y.1.number ∨ (x.1 = y.1 ∧ x.2.val < y.2.val)

theorem BoundBefore.asymm (x y : Bound × ReachId) (h : BoundBefore x y) : ¬ BoundBefore y x := by
  rintro (less | ⟨same, less⟩) <;> obtain first | ⟨equal, first⟩ := h
  · omega
  · rw [equal] at less; omega
  · rw [same] at first; omega
  · omega

theorem boundOrder_sorted : boundOrder.Pairwise BoundBefore := by
  have evaluated : boundOrder.Pairwise fun x y =>
      x.1.number < y.1.number ∨ (x.1.number = y.1.number ∧ x.2.val < y.2.val) := by decide
  refine evaluated.imp fun {x y} h => ?_
  obtain less | ⟨same, less⟩ := h
  · exact .inl less
  · exact .inr ⟨by cases hx : x.1 <;> cases hy : y.1 <;> simp_all [Bound.number], less⟩

theorem Bound.code_injective : Function.Injective Bound.code := by
  intro x y h
  cases x <;> cases y <;> simp_all [Bound.code]

section Admissions

variable {c : Tables} {reaches : Vector Reach 6} {a b : Vector Word 6}

theorem admissionCheck_eq_none : admissionCheck c reaches a b = none ↔ ∀ k d, boundFails c reaches a b k d = false := by
  unfold admissionCheck
  cases found : boundOrder.find? fun x => boundFails c reaches a b x.1 x.2 with
  | none =>
    have all := List.find?_eq_none.mp found
    exact ⟨fun _ k d => by simpa using all (k, d) (mem_boundOrder k d), fun _ => rfl⟩
  | some x =>
    have fails := List.find?_some found
    refine ⟨fun h => (by cases h), fun h => ?_⟩
    rw [h x.1 x.2] at fails
    cases fails

theorem admissionCheck_eq_some (k : Bound) (d : ReachId) : admissionCheck c reaches a b = some (k.code, d) ↔
    boundFails c reaches a b k d = true ∧
      ∀ (j : Bound) (e : ReachId), (j.number < k.number ∨ (j = k ∧ e.val < d.val)) →
        boundFails c reaches a b j e = false := by
  have first : boundOrder.find? (fun x => boundFails c reaches a b x.1 x.2) = some (k, d) ↔
      admissionCheck c reaches a b = some (k.code, d) := by
    unfold admissionCheck
    cases boundOrder.find? fun x => boundFails c reaches a b x.1 x.2 with
    | none => simp
    | some x =>
      obtain ⟨j, e⟩ := x
      simp [Bound.code_injective.eq_iff]
  rw [← first, find?_eq_some_iff_first BoundBefore.asymm _ boundOrder_sorted]
  simp only [mem_boundOrder, true_and]
  exact and_congr_right fun _ =>
    ⟨fun h j e earlier => h (j, e) (mem_boundOrder j e) earlier, fun h x _ earlier => h x.1 x.2 earlier⟩

/-- A check that applies and does not hold fails. -/
theorem check_passes (applies moved holds : Prop) [Decidable applies] [Decidable moved] [Decidable holds] :
    (decide applies && decide moved && !decide holds) = false ↔ (applies → moved → holds) := by
  by_cases applies <;> by_cases moved <;> by_cases holds <;> simp [*]

theorem boundFails_ceiling (d : ReachId) : boundFails c reaches a b .ceiling d = false ↔
    (d.val ≤ c.lastDam.val → (a.get d).toNat < (b.get d).toNat → (b.get d).toNat ≤ (reaches.get d).ceff.toNat) := by
  simp [boundFails, Bound.inForce, Bound.movedToward, Bound.holds, Bound.expression, Bound.limit, totalOf, imp_iff_not_or,
    or_assoc]

theorem boundFails_floor (d : ReachId) : boundFails c reaches a b .floor d = false ↔
    (d.val ≤ c.lastDam.val → (b.get d).toNat < (a.get d).toNat → (c.reaches.get d).floor.toNat ≤ (b.get d).toNat) := by
  simp [boundFails, Bound.inForce, Bound.movedToward, Bound.holds, Bound.expression, Bound.limit, totalOf, imp_iff_not_or,
    or_assoc]

theorem boundFails_surplus (d : ReachId) : boundFails c reaches a b .surplus d = false ↔
    ∀ n : DamId, n.val = d.val + 1 → d.val < c.lastDam.val →
      ((a.get d).toNat : Int) - (a.get n).toNat < (b.get d).toNat - (b.get n).toNat →
        ((b.get d).toNat : Int) - (b.get n).toNat ≤ (c.reaches.get d).surplus.toNat := by
  have shape : boundFails c reaches a b .surplus d = false ↔ (d.val < c.lastDam.val →
      ((a.get d).toNat : Int) - (a.get (damBelow d)).toNat < (b.get d).toNat - (b.get (damBelow d)).toNat →
        ((b.get d).toNat : Int) - (b.get (damBelow d)).toNat ≤ (c.reaches.get d).surplus.toNat) :=
    check_passes _ _ _
  rw [shape]
  exact ⟨fun h n next below => by rw [← damBelow_eq next]; exact h below,
    fun h below => h _ (damBelow_val below) below⟩

theorem boundFails_draw (d : ReachId) : boundFails c reaches a b .draw d = false ↔
    ∀ n : DamId, n.val = d.val + 1 → d.val < c.lastDam.val →
      ((a.get n).toNat : Int) - (a.get d).toNat < (b.get n).toNat - (b.get d).toNat →
        ((b.get n).toNat : Int) - (b.get d).toNat ≤ (reaches.get d).deff.toNat := by
  have shape : boundFails c reaches a b .draw d = false ↔ (d.val < c.lastDam.val →
      ((a.get (damBelow d)).toNat : Int) - (a.get d).toNat < (b.get (damBelow d)).toNat - (b.get d).toNat →
        ((b.get (damBelow d)).toNat : Int) - (b.get d).toNat ≤ (reaches.get d).deff.toNat) :=
    check_passes _ _ _
  rw [shape]
  exact ⟨fun h n next below => by rw [← damBelow_eq next]; exact h below,
    fun h below => h _ (damBelow_val below) below⟩

/-- An admission passes exactly where every bound that it moves toward its limit holds at the totals it would leave. -/
theorem admissionCheck_none_iff : admissionCheck c reaches a b = none ↔
    ∀ d : ReachId, d.val ≤ c.lastDam.val →
      ((a.get d).toNat < (b.get d).toNat → (b.get d).toNat ≤ (reaches.get d).ceff.toNat) ∧
      ((b.get d).toNat < (a.get d).toNat → (c.reaches.get d).floor.toNat ≤ (b.get d).toNat) ∧
      ∀ n : DamId, n.val = d.val + 1 → d.val < c.lastDam.val →
        (((a.get d).toNat : Int) - (a.get n).toNat < (b.get d).toNat - (b.get n).toNat →
          ((b.get d).toNat : Int) - (b.get n).toNat ≤ (c.reaches.get d).surplus.toNat) ∧
        (((a.get n).toNat : Int) - (a.get d).toNat < (b.get n).toNat - (b.get d).toNat →
          ((b.get n).toNat : Int) - (b.get d).toNat ≤ (reaches.get d).deff.toNat) := by
  rw [admissionCheck_eq_none]
  constructor
  · intro h d inForce
    exact ⟨(boundFails_ceiling d).mp (h .ceiling d) inForce, (boundFails_floor d).mp (h .floor d) inForce,
      fun n next below => ⟨(boundFails_surplus d).mp (h .surplus d) n next below,
        (boundFails_draw d).mp (h .draw d) n next below⟩⟩
  · intro h k d
    cases k with
    | ceiling => exact (boundFails_ceiling d).mpr fun inForce => (h d inForce).1
    | floor => exact (boundFails_floor d).mpr fun inForce => (h d inForce).2.1
    | surplus => exact (boundFails_surplus d).mpr fun n next below => ((h d below.le).2.2 n next below).1
    | draw => exact (boundFails_draw d).mpr fun n next below => ((h d below.le).2.2 n next below).2

end Admissions

/-! ### Interlock conditions (R66) -/

theorem and_eq_mask_iff (status mask : Word) :
    status &&& mask = mask ↔ ∀ n : Fin 16, mask.getLsbD n.val = true → status.getLsbD n.val = true := by
  constructor
  · intro h n set
    have bit := congrArg (fun w : Word => w.getLsbD n.val) h
    simp only [BitVec.getLsbD_and, set, Bool.and_true] at bit
    exact bit
  · intro h
    refine BitVec.eq_of_getLsbD_eq fun i hi => ?_
    rw [BitVec.getLsbD_and]
    cases set : mask.getLsbD i with
    | false => simp
    | true => simp [h ⟨i, hi⟩ set]

theorem and_eq_zero_iff (status mask : Word) :
    status &&& mask = 0 ↔ ∀ n : Fin 16, mask.getLsbD n.val = true → status.getLsbD n.val = false := by
  constructor
  · intro h n set
    have bit := congrArg (fun w : Word => w.getLsbD n.val) h
    simp only [BitVec.getLsbD_and, set, Bool.and_true] at bit
    exact bit.trans BitVec.getLsbD_zero
  · intro h
    refine BitVec.eq_of_getLsbD_eq fun i hi => ?_
    rw [BitVec.getLsbD_and]
    cases set : mask.getLsbD i with
    | false => simp
    | true => simp [h ⟨i, hi⟩ set]

/-- The four tests of Table 3-5. -/
theorem Condition.holds_iff (c : Condition) (status : Word) : c.holds status = true ↔
    match c.test with
    | .allSet => ∀ n : Fin 16, c.mask.getLsbD n.val = true → status.getLsbD n.val = true
    | .anySet => ∃ n : Fin 16, c.mask.getLsbD n.val = true ∧ status.getLsbD n.val = true
    | .allClear => ∀ n : Fin 16, c.mask.getLsbD n.val = true → status.getLsbD n.val = false
    | .anyClear => ∃ n : Fin 16, c.mask.getLsbD n.val = true ∧ status.getLsbD n.val = false := by
  unfold Condition.holds
  cases c.test with
  | allSet => exact beq_iff_eq.trans (and_eq_mask_iff status c.mask)
  | anySet =>
    refine bne_iff_ne.trans ((and_eq_zero_iff status c.mask).not.trans ?_)
    simp
  | allClear => exact beq_iff_eq.trans (and_eq_zero_iff status c.mask)
  | anyClear =>
    refine bne_iff_ne.trans ((and_eq_mask_iff status c.mask).not.trans ?_)
    simp

theorem falseCondition_of_none {c : Tables} {status : Vector Word 16} {g : GateId} {dir : Direction}
    (h : (c.gates.get g).reference dir = 63) : falseCondition c status g dir = none := by
  rw [falseCondition, h]
  rfl

theorem falseCondition_of_named {c : Tables} {status : Vector Word 16} {g : GateId} {dir : Direction} {k : CondId}
    (h : ((c.gates.get g).reference dir).toNat = k.val) : falseCondition c status g dir =
      if (c.conditions.get k).holds (status.get (c.conditions.get k).source) then none else some k := by
  have named : refCondition ((c.gates.get g).reference dir) = some k := by
    rw [refCondition, dif_pos (h ▸ k.isLt)]
    exact congrArg some (Fin.ext h)
  rw [falseCondition, named]

/-- Settles O41: the bounds by what fails each, in their order; the interlock tests bit by bit. -/
theorem admissionAndInterlockRules : Obligations.AdmissionAndInterlockRules :=
  ⟨fun _ _ _ _ => ⟨admissionCheck_none_iff, admissionCheck_eq_some⟩,
    fun _ _ _ _ => ⟨firstViolated_eq_none_iff, firstViolated_eq_some_iff⟩, Condition.holds_iff,
    fun _ _ _ _ => ⟨falseCondition_of_none, fun _ => falseCondition_of_named⟩⟩

end Sys2Proof.Machine
end

section
/-! What the admissions and the arbiter do to the release totals (R33, R35; O53). -/

namespace Sys2Proof.Machine

/-! ### The arbiter leaves the totals and the reaches alone -/

@[simp] theorem offerRun_rivers (p : Dyn) : (offerRun p).rivers = p.rivers := by
  unfold offerRun
  split <;> rfl

@[simp] theorem endExitPass_rivers (c : Tables) (p : Dyn) : (endExitPass c p).rivers = p.rivers := by
  simp only [endExitPass, offerRun_rivers, schedule_rivers, changeCauses_rivers, markSummary_rivers]
  rfl

@[simp] theorem refreshComplete_rivers (c : Tables) (d : DamId) (counts : Bool) (p : Dyn) :
    (refreshComplete c d counts p).rivers = p.rivers := by
  have advance : (advancePointer c d p).rivers = p.rivers := by
    unfold advancePointer
    split <;> rfl
  unfold refreshComplete
  dsimp only
  split
  case h_1 =>
    rw [offerRun_rivers]
    split
    · exact (markSummary_rivers _).trans advance
    · exact advance
  case h_2 =>
    split
    · split
      · exact (endExitPass_rivers c _).trans advance
      · exact advance
    · exact advance
  case h_3 => exact advance
  case h_4 => exact advance

@[simp] theorem grantJob_rivers (c : Tables) (w : Waiting) (p : Dyn) : (grantJob c w p).rivers = p.rivers := by
  cases w with
  | refresh d =>
    rw [grantJob, grantRefresh]
    split
    · exact refreshComplete_rivers _ _ _ _
    · rfl
  | _ => rfl

@[simp] theorem grantByClass_rivers (c : Tables) : (n : Nat) → (p : Dyn) → (grantByClass c n p).rivers = p.rivers
  | 0, _ => rfl
  | n + 1, p => by
    rw [grantByClass]
    split
    · rfl
    · split
      · rfl
      · rw [grantByClass_rivers c n, grantJob_rivers]

@[simp] theorem arbitrate_rivers (c : Tables) (wasFree : Bool) (p : Dyn) : (arbitrate c wasFree p).rivers = p.rivers := by
  unfold arbitrate
  split
  · rfl
  · split
    · dsimp only
      split
      · rfl
      · rw [grantByClass_rivers, grantJob_rivers]
    · exact grantByClass_rivers _ _ _

/-! ### The totals that a command leaves pass the check of an admission -/

section Totals

variable {c : Tables} {reaches : Vector Reach 6}

/-- Totals that stand move no bound. -/
theorem admissionCheck_self (t : Vector Word 6) : admissionCheck c reaches t t = none := by
  refine admissionCheck_eq_none.mpr fun b d => ?_
  cases b <;> simp [boundFails, Bound.movedToward]

/-- The totals of q, checked as an admission against those of p and p's limits, pass. -/
def AdmittedTotals (c : Tables) (p q : Dyn) : Prop := admissionCheck c p.reaches p.totals q.totals = none

theorem AdmittedTotals.refl (c : Tables) (p : Dyn) : AdmittedTotals c p p := admissionCheck_self _

theorem AdmittedTotals.of_rivers {p q r : Dyn} (h : AdmittedTotals c p q) (same : r.rivers = q.rivers) :
    AdmittedTotals c p r := by
  unfold AdmittedTotals
  rw [(rivers_fields same).1]
  exact h

theorem AdmittedTotals.from_rivers {p p' q : Dyn} (h : AdmittedTotals c p' q) (same : p'.rivers = p.rivers) :
    AdmittedTotals c p q := by
  obtain ⟨totals, reachesSame⟩ := rivers_fields same
  rw [AdmittedTotals, totals, reachesSame] at h
  exact h

theorem AdmittedTotals.links {p q r : Dyn} (h : AdmittedTotals c p q) (frame : LinkFrame q r) :
    AdmittedTotals c p r := by
  unfold AdmittedTotals
  rw [frame.totals]
  exact h

theorem admission_admitted {xs : List (DamId × Nat × Nat)} {p q : Dyn} (ok : admission c xs p = .ok q) :
    AdmittedTotals c p q := by
  obtain ⟨e, -, refused⟩ | ⟨passes, r, accepted, frame⟩ := admission_frame c xs p
  · exact absurd (refused.symm.trans ok) (by simp)
  · obtain rfl := Except.ok.inj (accepted.symm.trans ok)
    rw [AdmittedTotals, frame.totals]
    exact passes

/-- The state that a handler leaves, refused or taken. -/
def Handled.dyn : Handled → Dyn
  | .refused _ _ _ p => p
  | .taken _ p => p

theorem orderRefused_rivers (g : GateId) (code : Code) (detail : Nat) (p : Dyn) :
    (orderRefused g code detail p).dyn.rivers = p.rivers := putGate_rivers _ _ _

theorem handleOrder_admitted (g : GateId) (level : Nat) (data : Word) (c : Tables) (p : Dyn) :
    AdmittedTotals c p (handleOrder g level data c p).dyn := by
  have stands := AdmittedTotals.refl c p
  have refused (code : Code) (detail : Nat) := stands.of_rivers (orderRefused_rivers g code detail p)
  unfold handleOrder
  split
  · exact stands
  split
  · exact stands
  next target _ =>
  dsimp only
  split
  · exact refused _ _
  split
  · exact refused _ _
  split
  · exact stands
  split
  · exact refused _ _
  split
  · exact refused _ _
  next p1 ok =>
  exact (admission_admitted ok).of_rivers ((schedule_rivers _ _ _ _).trans (commitTarget_rivers _ _ _ _))

theorem refuseRequest_admitted (q : PortalId) (m : MasterId) (header : Word) (code : Code) (index : Nat) (p : Dyn) :
    AdmittedTotals c p (refuseRequest c q m header code index p) :=
  (AdmittedTotals.refl c p).of_rivers (raise_rivers _ _ _)

theorem processRequest_admitted (c : Tables) (q : PortalId) (m : MasterId) (header : Word) (p : Dyn) :
    AdmittedTotals c p (processRequest c q m header p) := by
  unfold processRequest
  dsimp only
  split
  · exact refuseRequest_admitted _ _ _ _ _ _
  split
  · exact refuseRequest_admitted _ _ _ _ _ _
  split
  · exact refuseRequest_admitted _ _ _ _ _ _
  next p1 ok =>
  exact (admission_admitted ok).of_rivers ((schedule_rivers _ _ _ _).trans (commitItems_rivers _ _ _))

theorem handlePortalHeader_admitted (q : PortalId) (m : MasterId) (data : Word) (c : Tables) (p : Dyn) :
    AdmittedTotals c p (handlePortalHeader q m data c p).dyn := by
  unfold handlePortalHeader
  dsimp only
  split
  · exact .refl c p
  · exact (processRequest_admitted c q m data _).from_rivers rfl

theorem refuseTransaction_rivers (t : Transaction) (code : Code) (detail : Nat) (p : Dyn) :
    (refuseTransaction t code detail p).rivers = p.rivers := formRecord_rivers _ _

theorem refuseAtCheck_rivers (t : Transaction) (code : Code) (p : Dyn) : (refuseAtCheck t code p).rivers = p.rivers := by
  unfold refuseAtCheck
  split
  · rfl
  · exact refuseTransaction_rivers _ _ _ _

theorem writeTaken_admitted {t : Transaction} {h : Handler} {p : Dyn} (handled : AdmittedTotals c p (h c p).dyn) :
    AdmittedTotals c p (writeTaken t h c p).2 := by
  unfold writeTaken
  split
  · exact (AdmittedTotals.refl c p).of_rivers (refuseAtCheck_rivers _ _ _)
  · cases found : h c p with
    | taken c1 q =>
      rw [found] at handled
      exact handled.of_rivers rfl
    | refused code detail g q =>
      rw [found] at handled
      refine (handled.of_rivers (refuseTransaction_rivers t code detail q)).of_rivers ?_
      cases g with
      | none => rfl
      | some g => exact offerLinks_rivers _ _ _ _

theorem presentWrite_admitted {t : Transaction} {h : Handler} {s : State}
    (handled : AdmittedTotals s.tables (presented s.dyn) (h s.tables (presented s.dyn)).dyn) :
    AdmittedTotals s.tables s.dyn (presentWrite t h s).dyn := by
  unfold presentWrite
  split
  · exact .refl _ _
  · exact ((writeTaken_admitted handled).of_rivers (arbitrate_rivers _ _ _)).from_rivers rfl

end Totals

theorem exec_admitted {i : Instr} {s t : State} (row : (∃ g w, i = .order g w) ∨ (∃ q w, i = .portalHeaderWrite q w))
    (next : exec i s = .next t) : AdmittedTotals s.tables s.dyn t.dyn := by
  obtain ⟨g, w, rfl⟩ | ⟨q, w, rfl⟩ := row
  · obtain rfl := Host.Outcome.next.inj ((exec_write (i := .order g w) rfl s).symm.trans next)
    exact presentWrite_admitted (handleOrder_admitted _ _ _ _ _)
  · obtain rfl := Host.Outcome.next.inj ((exec_write (i := .portalHeaderWrite q w) rfl s).symm.trans next)
    exact presentWrite_admitted (handlePortalHeader_admitted _ _ _ _ _)

/-- Settles O53: the totals that an order or a request leaves stand or have passed the check of an admission. -/
theorem admissionsRespectTheBounds : Obligations.AdmissionsRespectTheBounds := by
  intro i s t b d row next inForce moved
  have passes := admissionCheck_eq_none.mp (exec_admitted row next) b d
  rw [boundFails, inForce, moved] at passes
  simpa using passes

end Sys2Proof.Machine
end

section
/-! The course of an event: what its records and links leave of the controls and the log, beside the changes that it
makes of gates and dams itself (R144 to R149, R153). -/

namespace Sys2Proof.Machine

/-! ### Fields that gates, dams and the queue do not reach -/

/-- The log buffer and LOG_LOST, the job in progress and the hold flags. -/
def Dyn.logAndHolds (p : Dyn) : List LogRecord × Bool × Option Running × (DamId → Bool) :=
  (p.logBuffer, p.logLost, p.running, fun d => (p.dams.get d).hold)

/-- What an operation on gates, warnings, step histories and the queue leaves as it was, beside the rivers. -/
def Dyn.around (p : Dyn) : Still × (Mode × Option DamId × Nat × Vector Bool 4) ×
    List LogRecord × Bool × Option Running × (DamId → Bool) :=
  (p.still, p.controls, p.logAndHolds)

theorem around_fields {p q : Dyn} (h : q.around = p.around) :
    q.still = p.still ∧ q.controls = p.controls ∧ q.logBuffer = p.logBuffer ∧ q.logLost = p.logLost ∧
      q.running = p.running ∧ ∀ d, (q.dams.get d).hold = (p.dams.get d).hold := by
  simp only [Dyn.around, Dyn.logAndHolds, Prod.mk.injEq] at h
  obtain ⟨still, controls, buffer, lost, running, holds⟩ := h
  exact ⟨still, controls, buffer, lost, running, congrFun holds⟩

@[simp] theorem putGate_around (g : GateId) (x : Gate) (p : Dyn) : (putGate g x p).around = p.around := by
  simp [Dyn.around, Dyn.controls, Dyn.logAndHolds]

theorem putDam_around {d : DamId} {x : Dam} {p : Dyn} (hold : x.hold = (p.dams.get d).hold) :
    (putDam d x p).around = p.around := by
  have holds : (fun e => ((putDam d x p).dams.get e).hold) = fun e => (p.dams.get e).hold := by
    funext e
    rw [putDam_dams, Table.put_get]
    split
    case isTrue same => rw [hold, same]
    case isFalse => rfl
  have log : (putDam d x p).logAndHolds = p.logAndHolds := by
    unfold Dyn.logAndHolds
    rw [holds]
    rfl
  rw [Dyn.around, Dyn.around, log]
  rfl

@[simp] theorem markReach_around (r : ReachId) (p : Dyn) : (markReach r p).around = p.around := rfl
@[simp] theorem markGateMirror_around (g : GateId) (p : Dyn) : (markGateMirror g p).around = p.around := rfl
@[simp] theorem dequeue_around (g : GateId) (p : Dyn) : (dequeue g p).around = p.around := rfl

@[simp] theorem setCauses_around (g : GateId) (cs : Causes) (p : Dyn) : (setCauses g cs p).around = p.around :=
  putGate_around _ _ _

@[simp] theorem changeCauses_around (sel : GateId → Bool) (f : Causes → Causes) (p : Dyn) :
    (changeCauses sel f p).around = p.around := changeCauses_keeps Dyn.around putGate_around sel f p

@[simp] theorem setWarning_around (d : DamId) (w : Warning) (t : Timer) (p : Dyn) :
    (setWarning d w t p).around = p.around := by
  have put : (putDam d { p.dams.get d with warning := w, dwellTimer := t } p).around = p.around := putDam_around rfl
  unfold setWarning
  dsimp only
  split
  · exact put
  · exact put

@[simp] theorem silenceCheck_around (c : Tables) (d : DamId) (p : Dyn) : (silenceCheck c d p).around = p.around := by
  unfold silenceCheck
  split <;> simp

@[simp] theorem silenceCheckOf_around (c : Tables) (g : GateId) (p : Dyn) :
    (silenceCheckOf c g p).around = p.around := by
  unfold silenceCheckOf
  split <;> simp

@[simp] theorem releaseWarning_around (c : Tables) (d : DamId) (p : Dyn) : (releaseWarning c d p).around = p.around :=
  foldl_keeps Dyn.around _ (fun p g => by dsimp only; split <;> simp) _ _

@[simp] theorem dwellEnds_around (c : Tables) (d : DamId) (p : Dyn) : (dwellEnds c d p).around = p.around := by
  simp [dwellEnds]

@[simp] theorem soundAtEntry_around (c : Tables) (d : DamId) (p : Dyn) : (soundAtEntry c d p).around = p.around := by
  unfold soundAtEntry
  split <;> simp

@[simp] theorem soundForOrder_around (c : Tables) (g : GateId) (d : DamId) (p : Dyn) :
    (soundForOrder c g d p).around = p.around := by
  unfold soundForOrder
  dsimp only
  split
  · simp
  · simp
  · split <;> simp

@[simp] theorem recoveryEnds_around (c : Tables) (g : GateId) (p : Dyn) : (recoveryEnds c g p).around = p.around := by
  unfold recoveryEnds
  dsimp only
  split <;> simp

@[simp] theorem settle_around (c : Tables) (g : GateId) (p : Dyn) : (settle c g p).around = p.around := by
  unfold settle
  dsimp only
  split
  · split <;> simp
  · simp

@[simp] theorem recordStep_around (c : Tables) (g : GateId) (dir : Direction) (p : Dyn) :
    (recordStep c g dir p).around = p.around := by
  unfold recordStep
  split
  · refine putDam_around ?_
    cases dir <;> rfl
  · rfl

@[simp] theorem grant_around (c : Tables) (g : GateId) (p : Dyn) : (grant c g p).around = p.around := by
  unfold grant
  dsimp only
  split <;> simp

@[simp] theorem joinAll_around (c : Tables) (sel : GateId → Bool) (p : Dyn) : (joinAll c sel p).around = p.around := by
  obtain ⟨js, joins, -⟩ := joinAll_eq c sel p
  rw [joins]
  rfl

@[simp] theorem commitTarget_around (c : Tables) (g : GateId) (v : Nat) (p : Dyn) :
    (commitTarget c g v p).around = p.around := by
  unfold commitTarget
  dsimp only
  split
  case h_1 => simp
  case h_2 => split <;> simp
  case h_3 =>
    split
    · simp
    · split <;> simp
  case h_4 => split <;> simp
  case h_5 => split <;> simp
  case h_6 => split <;> simp
  case h_7 => rfl
  case h_8 => rfl

@[simp] theorem commitItems_around (c : Tables) (items : List Item) (p : Dyn) :
    (commitItems c items p).around = p.around :=
  foldl_keeps Dyn.around _ (fun p e => by split <;> simp) items p

/-! ### The course of an event -/

/-- On the way from p to q nothing has happened to the controls and the log but records and link actions: an entry into
HOLD by a link whose action it is (R148), alarms set by links that name them (R149), hold flags set. -/
structure Course (c : Tables) (p q : Dyn) : Prop where
  still : q.still = p.still
  holds : ∀ d, (p.dams.get d).hold = true → (q.dams.get d).hold = true
  control :
    (q.mode = p.mode ∧ q.offer = p.offer ∧ q.progress = p.progress) ∨
      (q.mode = .hold ∧ (p.mode = .run ∨ p.mode = .exiting) ∧ q.offer = none ∧
        q.progress = (if p.mode = .exiting then 0 else p.progress) ∧ ∃ l, (c.links.get l).action = .enterHold)
  alarms : ∀ k, q.alarms.get k = p.alarms.get k ∨
    (q.alarms.get k = true ∧ ∃ l, (c.links.get l).action = .alarm ∧ (c.links.get l).target.toNat = k.val)
  running : q.running = p.running ∨ q.running = (uncredit p).running
  buffer : ∃ l, q.logBuffer = p.logBuffer ++ l
  lost : p.logLost = true → q.logLost = true

theorem LinkGrowth.course {c : Tables} {p q : Dyn} (h : LinkGrowth c p q) : Course c p q :=
  ⟨h.frame.still, h.holds, h.control, h.alarms, h.frame.running, h.frame.buffer, h.frame.lost⟩

theorem Course.of_around {c : Tables} {p q : Dyn} (h : q.around = p.around) : Course c p q := by
  obtain ⟨still, controls, buffer, lost, running, holds⟩ := around_fields h
  obtain ⟨mode, offer, progress, alarms⟩ := controls_fields controls
  exact ⟨still, fun d held => (holds d).trans held, .inl ⟨mode, offer, progress⟩, fun k => .inl (by rw [alarms]),
    .inl running, ⟨[], by simp [buffer]⟩, fun set => lost.trans set⟩

theorem Course.refl (c : Tables) (p : Dyn) : Course c p p := .of_around rfl

section
variable {c : Tables} {p q r : Dyn}

theorem Course.trans (h1 : Course c p q) (h2 : Course c q r) : Course c p r where
  still := h2.still.trans h1.still
  holds := fun d held => h2.holds d (h1.holds d held)
  control := by
    obtain ⟨mode, offer, progress⟩ | ⟨mode, left, offer, progress, link⟩ := h2.control
    · rw [mode, offer, progress]
      exact h1.control
    · obtain ⟨mode1, -, progress1⟩ | ⟨mode1, -⟩ := h1.control
      · rw [mode1] at left progress
        rw [progress1] at progress
        exact .inr ⟨mode, left, offer, progress, link⟩
      · simp [mode1] at left
  alarms := fun k => by
    obtain same | set := h2.alarms k
    · rw [same]
      exact h1.alarms k
    · exact .inr set
  running := by
    obtain same | uncredited := h2.running
    · rw [same]
      exact h1.running
    · exact .inr (uncredited.trans (uncredit_running_congr h1.running))
  buffer := by
    obtain ⟨a, first⟩ := h1.buffer
    obtain ⟨b, second⟩ := h2.buffer
    exact ⟨a ++ b, by rw [second, first, List.append_assoc]⟩
  lost := fun set => h2.lost (h1.lost set)

theorem Course.foldl {α : Type} {f : Dyn → α → Dyn} (h : ∀ p x, Course c p (f p x)) :
    (l : List α) → (p : Dyn) → Course c p (l.foldl f p)
  | [], p => .refl c p
  | x :: l, p => (h p x).trans (Course.foldl h l (f p x))

theorem Course.mode_eq_or_hold (h : Course c p q) : q.mode = p.mode ∨ q.mode = .hold := h.control.imp And.left And.left

theorem Course.mode_config (h : Course c p q) (config : p.mode = .config) : q.mode = .config := by
  obtain ⟨mode, -⟩ | ⟨-, left, -⟩ := h.control
  · exact mode.trans config
  · simp [config] at left

/-- An event withdraws an offer at most, so no refresh waits after it that did not before. -/
theorem Course.noRefreshWaits (h : Course c p q) (before : NoRefreshWaits p) : NoRefreshWaits q := by
  obtain ⟨mode, offer, -⟩ | ⟨-, -, offer, -⟩ := h.control
  · exact noRefreshWaits_congr before offer mode (still_fields h.still).2.2.1
  · exact .inl offer

theorem Recorded.along {x : LogRecord} (h : Recorded x p) (course : Course c p q) : Recorded x q := by
  obtain buffered | ⟨w, k, a, writing⟩ | lost := h
  · obtain ⟨l, appended⟩ := course.buffer
    exact .inl (by simp [appended, buffered])
  · refine .inr (.inl ⟨w, k, a, ?_⟩)
    obtain same | uncredited := course.running
    · exact same.trans writing
    · exact uncredited.trans (uncredit_running_log writing)
  · exact .inr (.inr (course.lost lost))

/-- What a link has done stays done along an event. -/
theorem LinksActed.along {kind : EventKind} {sub : Subject} (h : LinksActed c kind sub p) (course : Course c p q) :
    LinksActed c kind sub q := by
  intro l source index
  have acted := h l source index
  unfold LinkActed at acted ⊢
  split
  case h_1 => trivial
  case h_2 action =>
    simp only [action] at acted
    exact fun d named => course.holds d (acted d named)
  case h_3 action =>
    simp only [action] at acted
    exact fun d named => course.holds d (acted d named)
  case h_4 action =>
    simp only [action] at acted
    obtain hold | config := acted
    · exact .inl (course.mode_eq_or_hold.elim (·.trans hold) id)
    · exact .inr (course.mode_config config)
  case h_5 action =>
    simp only [action] at acted
    intro k named
    obtain same | ⟨set, -⟩ := course.alarms k
    · exact same.trans (acted k named)
    · exact set

/-! ### The course of the scheduler's operations -/

theorem loseInterlock_course (g : GateId) (dir : Direction) (k : CondId) (p : Dyn) :
    Course c p (loseInterlock c g dir k p) :=
  (Course.of_around (by simp)).trans (formRecord_growth c _ _).course

theorem examine_course : (l : List GateId) → (p : Dyn) → Course c p (examine c l p).dyn
  | [], p => .refl c p
  | g :: rest, p => by
    rw [examine]
    dsimp only
    split
    · split
      · exact .of_around (grant_around c g p)
      · exact (loseInterlock_course g _ _ p).trans (examine_course rest _)
    · exact examine_course rest p

theorem scanLoop_course : (n : Nat) → (p : Dyn) → Course c p (scanLoop c n p).1
  | 0, p => .refl c p
  | n + 1, p => by
    rw [scanLoop]
    dsimp only
    split
    · exact (examine_course _ p).trans (scanLoop_course n _)
    · exact examine_course _ p

theorem scan_course (c : Tables) (p : Dyn) : Course c p (scan c p) :=
  (scanLoop_course _ p).trans (Course.foldl (fun q _ => (offerLinks_growth c _ _ q).course) _ _)

theorem joinAndScan_course (sel : GateId → Bool) (forced : Bool) (p : Dyn) : Course c p (joinAndScan c sel forced p) := by
  have joins : Course c p (joinAll c sel p) := .of_around (joinAll_around c sel p)
  unfold joinAndScan
  dsimp only
  split
  · exact joins.trans (scan_course c _)
  · exact joins

theorem schedule_course (before : Dyn) (forced : Bool) (p : Dyn) : Course c p (schedule c before forced p) :=
  joinAndScan_course _ _ p

end

/-! ### The course of changes of totals -/

theorem totals_course (c : Tables) (t : Vector Word 6) (p : Dyn) : Course c p { p with totals := t } := .of_around rfl

/-- A change of a total that is not an admission: the total, then the events of the EXCEEDED flags (R27). -/
theorem changeTotal_growth (c : Tables) (d : DamId) (old new : Nat) (p : Dyn) :
    LinkGrowth c { p with totals := Table.put p.totals d (adjustTotal (p.totals.get d) old new) }
      (changeTotal c d old new p) :=
  (reevaluateAll_growth c _ _).trans (markReach_growth c _ _)

theorem changeTotal_course (c : Tables) (d : DamId) (old new : Nat) (p : Dyn) :
    Course c p (changeTotal c d old new p) := by
  have moved := totals_course c (Table.put p.totals d (adjustTotal (p.totals.get d) old new)) p
  exact moved.trans (changeTotal_growth c d old new p).course

theorem changeGateTotal_growth (c : Tables) (g : GateId) (old new : Nat) (p : Dyn) :
    LinkGrowth c { p with totals := movedTotals c g old new p.totals } (changeGateTotal c g old new p) := by
  unfold changeGateTotal movedTotals
  cases (c.gates.get g).dam? with
  | some d => exact changeTotal_growth c d old new p
  | none => exact .refl c p

theorem changeGateTotal_course (c : Tables) (g : GateId) (old new : Nat) (p : Dyn) :
    Course c p (changeGateTotal c g old new p) := by
  have moved := totals_course c (movedTotals c g old new p.totals) p
  exact moved.trans (changeGateTotal_growth c g old new p).course

theorem enterFaulted_course (c : Tables) (g : GateId) (cause : FaultCause) (p : Dyn) :
    Course c p (enterFaulted c g cause p) := by
  have put : Course c p (putGate g ((p.gates.get g).faulted cause) p) := .of_around (putGate_around _ _ _)
  unfold enterFaulted
  dsimp only
  split
  · exact put
  · exact put.trans (changeGateTotal_course c g _ _ _)

theorem marksOfTouched_growth (c : Tables) (sel : DamId → Bool) (l : List DamId) (p : Dyn) :
    LinkGrowth c p (l.foldl (fun q d => if sel d then markReach d q else q) p) :=
  LinkGrowth.foldl _ (fun q d => by
    split
    · exact markReach_growth c d q
    · exact .refl c q) l p

/-- An admission that passes: the totals, then the events of the EXCEEDED flags (R35, R37). -/
theorem admission_growth {c : Tables} {changes : List (DamId × Nat × Nat)} {p q : Dyn}
    (passes : admission c changes p = .ok q) :
    LinkGrowth c { p with totals := finalTotals changes p.totals } q := by
  unfold admission at passes
  dsimp only at passes
  split at passes
  case h_1 => cases passes
  case h_2 =>
    obtain rfl := Except.ok.inj passes
    exact (reevaluateAll_growth c _ _).trans (marksOfTouched_growth c _ _ _)

theorem admission_course {c : Tables} {changes : List (DamId × Nat × Nat)} {p q : Dyn}
    (passes : admission c changes p = .ok q) : Course c p q := by
  have moved := totals_course c (finalTotals changes p.totals) p
  exact moved.trans (admission_growth passes).course

end Sys2Proof.Machine
end

section
/-! An event and the grant that follows it: what the state after a command has of the state that the event made (R136,
R138, R154). -/

namespace Sys2Proof.Machine

/-! ### The surroundings -/

/-- The fields that the claims call surroundings. -/
def Dyn.setting (p : Dyn) := (p.statusWords, p.portals, p.portalJobs, p.debt, p.pointer, p.pointerReset, p.refreshTimer,
  p.logWrite, p.logRead, p.passKind, p.passFailed, p.powerOnUnfinished, p.tick)

theorem setting_of_still {p q : Dyn} (h : q.still = p.still) : q.setting = p.setting := by
  obtain ⟨statusWords, portals, debt, pointer, pointerReset, refreshTimer, logWrite, logRead, jobs, -, -, passKind,
    passFailed, unfinished, tick, -⟩ := still_fields h
  simp only [Dyn.setting, statusWords, portals, debt, pointer, pointerReset, refreshTimer, logWrite, logRead, jobs,
    passKind, passFailed, unfinished, tick]

theorem sameSurroundings_of_setting {s t : State} (h : t.dyn.setting = s.dyn.setting) : SameSurroundings s t := by
  simp only [Dyn.setting, Prod.mk.injEq] at h
  obtain ⟨statusWords, portals, jobs, debt, pointer, pointerReset, refreshTimer, logWrite, logRead, passKind, passFailed,
    unfinished, tick⟩ := h
  exact ⟨statusWords, portals, jobs, debt, pointer, pointerReset, refreshTimer, logWrite, logRead, passKind, passFailed,
    unfinished, tick⟩

theorem sameControl_of_controls {s t : State} (h : t.dyn.controls = s.dyn.controls) : SameControl s t := by
  obtain ⟨mode, offer, progress, alarms⟩ := controls_fields h
  exact ⟨mode, offer, progress, alarms⟩

theorem Course.controlByLinks {c : Tables} {s t : State} (h : Course c s.dyn t.dyn) (links : c.links = s.tables.links) :
    ControlByLinks s t where
  mode := by
    rw [← links]
    exact h.control
  alarms := fun k => by
    rw [← links]
    exact h.alarms k

/-- A course begins at a state's controls alone, so far as the controls are asked. -/
theorem Course.controlByLinks_of_controls {c : Tables} {s t : State} {p : Dyn} (h : Course c p t.dyn)
    (start : p.controls = s.dyn.controls) (links : c.links = s.tables.links) : ControlByLinks s t := by
  obtain ⟨mode, offer, progress, alarms⟩ := controls_fields start
  constructor
  · rw [← links, ← mode, ← offer, ← progress]
    exact h.control
  · intro k
    rw [← links, ← alarms]
    exact h.alarms k

/-! ### The state after an event and its grant -/

/-- State t is what an event at s has made (q), beside which at most one job has been granted, which is no refresh. -/
structure Settled (s t : State) (q : Dyn) : Prop where
  idle : PortIdle s
  store : StoreKept s t
  granted : Granted t.tables q t.dyn
  free : q.running.isNone = s.dyn.running.isNone
  noRefresh : q.running = none → NoRefreshWaits q

theorem waitingRecord_of_mem {p : Dyn} {r : LogRecord} {rest : List LogRecord}
    (h : Waiting.log r rest ∈ waitingHeads p) : waitingRecord p = some (.log r rest) := by
  have noRefresh (k : Nat) : refreshAt k p ≠ some (.log r rest) := by
    unfold refreshAt
    split
    · split <;> simp
    · simp
  have noPortal : waitingPortal p ≠ some (.log r rest) := by
    unfold waitingPortal
    split <;> simp
  have noMirror : oldestMirror p ≠ some (.log r rest) := by
    intro oldest
    obtain ⟨⟨w, age⟩, oldest, made⟩ := Option.map_eq_some_iff.mp oldest
    obtain two | summary := olderMark_eq oldest
    · obtain gate | reach := olderMark_eq two
      · obtain ⟨_, -, same⟩ := Option.map_eq_some_iff.mp gate
        cases same
        cases made
      · obtain ⟨_, -, same⟩ := Option.map_eq_some_iff.mp reach
        cases same
        cases made
    · obtain ⟨_, -, same⟩ := Option.map_eq_some_iff.mp summary
      cases same
      cases made
  simp only [waitingHeads, List.reduceOption_mem_iff, List.mem_cons, List.not_mem_nil, or_false,
    eq_comm (a := some (Waiting.log r rest))] at h
  obtain refresh | hand | slot | portal | record | mirror | refresh | refresh := h
  · exact absurd refresh (noRefresh _)
  · obtain ⟨_, -, made⟩ := Option.map_eq_some_iff.mp hand
    cases made
  · obtain ⟨_, -, made⟩ := Option.map_eq_some_iff.mp slot
    cases made
  · exact absurd portal noPortal
  · exact record
  · exact absurd mirror noMirror
  · exact absurd refresh (noRefresh _)
  · exact absurd refresh (noRefresh _)

theorem waitingRecord_of_idle {p : Dyn} (h : noJobWaits p = true) : waitingRecord p = none := by
  cases waiting : waitingRecord p with
  | none => rfl
  | some w =>
    have waits : w ∈ waitingHeads p := by
      simp [waitingHeads, List.reduceOption_mem_iff, waiting]
    rw [List.isEmpty_iff.mp h] at waits
    cases waits

namespace Settled

variable {s t : State} {q : Dyn}

theorem of_arbitrate {c : Tables} (idle : PortIdle s) (free : q.running.isNone = s.dyn.running.isNone)
    (noRefresh : q.running = none → NoRefreshWaits q) :
    Settled s { s with tables := c, dyn := arbitrate c s.dyn.running.isNone q } q :=
  ⟨idle, ⟨rfl, rfl⟩, arbitrate_granted free.symm, free, noRefresh⟩

theorem idle_of_free (h : Settled s t q) (free : q.running = none) : noJobWaits s.dyn = true :=
  h.idle (Option.isNone_iff_eq_none.mp (h.free.symm.trans (congrArg Option.isNone free)))

theorem port (h : Settled s t q) : PortFrame q t.dyn := h.granted.portFrame h.noRefresh

theorem recorded (h : Settled s t q) {x : LogRecord} (made : Recorded x q) : Recorded x t.dyn :=
  h.granted.recorded h.noRefresh made

theorem portalJobs (h : Settled s t q) (jobs : q.portalJobs = s.dyn.portalJobs) : t.dyn.portalJobs = s.dyn.portalJobs :=
  (h.granted.portalJobs h.noRefresh fun free => jobs.trans (portalJobs_of_noJobWaits (h.idle_of_free free))).trans jobs

/-- Where the event has formed no record and moved no log index, the grant takes none. -/
theorem logBuffer (h : Settled s t q) (buffer : q.logBuffer = s.dyn.logBuffer) (write : q.logWrite = s.dyn.logWrite)
    (read : q.logRead = s.dyn.logRead) : t.dyn.logBuffer = s.dyn.logBuffer := by
  obtain same | ⟨free, w, waits, other, same⟩ := h.granted.eq_or_grantJob h.noRefresh
  · rw [same, buffer]
  · rw [same, ← buffer]
    cases w with
    | refresh d => cases other
    | log r rest =>
      have waiting := waitingRecord_of_mem waits
      have none : waitingRecord q = none := by
        unfold waitingRecord
        rw [buffer, write, read]
        exact waitingRecord_of_idle (h.idle_of_free free)
      exact absurd (waiting.symm.trans none) (by simp)
    | _ => rfl

theorem setting (h : Settled s t q) (jobs : q.portalJobs = s.dyn.portalJobs) : t.dyn.setting = q.setting := by
  have port := h.port
  have same : t.dyn.portalJobs = q.portalJobs := (h.portalJobs jobs).trans jobs.symm
  simp only [Dyn.setting, port.statusWords, port.portals, same, port.debt, port.pointer, port.pointerReset,
    port.refreshTimer, port.logWrite, port.logRead, port.passKind, port.passFailed, port.powerOnUnfinished, port.tick]

theorem surroundings (h : Settled s t q) (same : q.setting = s.dyn.setting) : SameSurroundings s t := by
  have jobs : q.portalJobs = s.dyn.portalJobs := congrArg (fun x => x.2.2.1) same
  exact sameSurroundings_of_setting ((h.setting jobs).trans same)

theorem controls (h : Settled s t q) : t.dyn.controls = q.controls := by
  have port := h.port
  simp only [Dyn.controls, port.mode, port.offer, port.progress, port.alarms]

theorem sameControl (h : Settled s t q) (same : q.controls = s.dyn.controls) : SameControl s t :=
  sameControl_of_controls (h.controls.trans same)

theorem controlByLinks (h : Settled s t q) {c : Tables} {p : Dyn} (course : Course c p q)
    (start : p.controls = s.dyn.controls) (links : c.links = s.tables.links) : ControlByLinks s t := by
  obtain ⟨mode, offer, progress, alarms⟩ := controls_fields h.controls
  obtain ⟨mode0, offer0, progress0, alarms0⟩ := controls_fields start
  constructor
  · rw [← links, ← mode0, ← offer0, ← progress0, mode, offer, progress]
    exact course.control
  · intro k
    rw [← links, ← alarms0, alarms]
    exact course.alarms k

theorem bus (h : Settled s t q) (hand : q.hand = s.dyn.hand) (answer : q.answer = s.dyn.answer) : BusKept s t :=
  ⟨h.port.hand.trans hand, h.port.answer.trans answer⟩

theorem logKept (h : Settled s t q) (buffer : q.logBuffer = s.dyn.logBuffer) (lost : q.logLost = s.dyn.logLost)
    (same : q.setting = s.dyn.setting) : LogKept s t := by
  simp only [Dyn.setting, Prod.mk.injEq] at same
  obtain ⟨-, -, -, -, -, -, -, write, read, -⟩ := same
  exact ⟨h.logBuffer buffer write read, h.port.logLost.trans lost⟩

theorem linksActed (h : Settled s t q) {c : Tables} {kind : EventKind} {sub : Subject}
    (acted : LinksActed c kind sub q) : LinksActed c kind sub t.dyn := by
  intro l source index
  have act := acted l source index
  unfold LinkActed at act ⊢
  rw [h.port.dams, h.port.alarms, h.port.mode]
  exact act

theorem gates (h : Settled s t q) : t.dyn.gates = q.gates := h.port.gates
theorem dams (h : Settled s t q) : t.dyn.dams = q.dams := h.port.dams
theorem queue (h : Settled s t q) : t.dyn.queue = q.queue := h.port.queue
theorem totals (h : Settled s t q) : t.dyn.totals = q.totals := h.port.totals
theorem reaches (h : Settled s t q) : t.dyn.reaches = q.reaches := h.port.reaches
theorem mode (h : Settled s t q) : t.dyn.mode = q.mode := h.port.mode
theorem tick (h : Settled s t q) : t.dyn.tick = q.tick := h.port.tick

end Settled

/-! ### Events that a command is -/

theorem noRefreshWaits_of_course {c : Tables} {s : State} {p q : Dyn} (idle : PortIdle s)
    (free : p.running.isNone = s.dyn.running.isNone) (start : p.controls = s.dyn.controls) (debt : p.debt = s.dyn.debt)
    (course : Course c p q) (running : q.running = none) : NoRefreshWaits q := by
  obtain ⟨mode, offer, -⟩ := controls_fields start
  obtain ⟨-, -, -, -, -, -, -, -, -, -, -, -, -, -, -, -, same⟩ := still_fields course.still
  have before : s.dyn.running = none :=
    Option.isNone_iff_eq_none.mp (free.symm.trans (same.symm.trans (congrArg Option.isNone running)))
  exact course.noRefreshWaits (noRefreshWaits_congr (noRefreshWaits_of_idle (idle before)) offer mode debt)

/-- A timed event that is due, where it leaves the controls to the links. -/
theorem settled_of_inEventIf {due : Tables → Dyn → Bool} {f : Tables → Dyn → Dyn} {i : Instr} {s : State}
    (idle : PortIdle s) (row : exec i s = .next (inEventIf due f s)) (isDue : due s.tables s.dyn = true)
    (course : Course s.tables (counted s) (f s.tables (counted s))) :
    ∃ t, exec i s = .next t ∧ t.tables = s.tables ∧ Settled s t (f s.tables (counted s)) := by
  obtain ⟨-, -, -, -, -, -, -, -, -, -, -, -, -, -, -, -, free⟩ := still_fields course.still
  refine ⟨_, row, ?_, ?_⟩
  · simp only [inEventIf, if_pos isDue, inEvent]
  · simp only [inEventIf, if_pos isDue, inEvent]
    exact .of_arbitrate idle free (noRefreshWaits_of_course (p := counted s) idle rfl rfl rfl course)

/-- A row's WRITE that its handler takes and after which no refresh waits. -/
theorem settled_of_taken {i : Instr} {x : WriteTarget} {w : BusWrite} {s : State} {tr : Transaction} {c : Tables}
    {q : Dyn} (idle : PortIdle s) (row : i.write? = some (x, w)) (accepted : Accepted i s tr)
    (handled : handlerOf w.master w.data x s.tables (presented s.dyn) = .taken c q)
    (free : q.running.isNone = s.dyn.running.isNone)
    (noRefresh : q.running = none → NoRefreshWaits q) :
    ∃ t, exec i s = .next t ∧ t.tables = c ∧ Settled s t (takeInHand tr q) := by
  have presents : exec i s = .next (presentWrite tr (handlerOf w.master w.data x) s) := by
    rw [accepted.transaction_eq row]
    exact exec_write row s
  have taken := presentWrite_taken accepted.noneInHand accepted.passes handled
  exact ⟨_, presents.trans (congrArg _ taken), rfl, .of_arbitrate idle free noRefresh⟩

/-- The same, where the handler leaves the controls to the links. -/
theorem settled_of_course {i : Instr} {x : WriteTarget} {w : BusWrite} {s : State} {tr : Transaction} {c c' : Tables}
    {q : Dyn} (idle : PortIdle s) (row : i.write? = some (x, w)) (accepted : Accepted i s tr)
    (handled : handlerOf w.master w.data x s.tables (presented s.dyn) = .taken c q)
    (course : Course c' (presented s.dyn) q) :
    ∃ t, exec i s = .next t ∧ t.tables = c ∧ Settled s t (takeInHand tr q) := by
  obtain ⟨-, -, -, -, -, -, -, -, -, -, -, -, -, -, -, -, free⟩ := still_fields course.still
  exact settled_of_taken idle row accepted handled free
    (noRefreshWaits_of_course (p := presented s.dyn) idle rfl rfl rfl course)

theorem Settled.taken {s t : State} {tr : Transaction} {q : Dyn} (h : Settled s t (takeInHand tr q))
    (answer : q.answer = none) : Taken tr t := ⟨h.port.hand, h.port.answer.trans answer⟩

theorem presented_setting (p : Dyn) : (presented p).setting = p.setting := rfl
theorem takeInHand_setting (tr : Transaction) (p : Dyn) : (takeInHand tr p).setting = p.setting := rfl
theorem takeInHand_around (tr : Transaction) (p : Dyn) :
    (takeInHand tr p).controls = p.controls ∧ (takeInHand tr p).logAndHolds = p.logAndHolds := ⟨rfl, rfl⟩

end Sys2Proof.Machine
end

section
/-! Mode writes (R105 to R111): each transition of the table, and the entry into HOLD from RUN gate by gate; O44. -/

namespace Sys2Proof.Machine

/-! ### Hold-cause sets (R7) -/

/-- A gate with its hold-cause set replaced, field by field. -/
theorem Gate.withCauses_eq (x : Gate) (cs : Causes) : x.withCauses cs =
    { x with
      causes := cs
      state := if x.state = .moving ∨ x.state = .held then (if cs.isEmpty then .moving else .held) else x.state } := by
  unfold Gate.withCauses
  cases x.state <;> rfl

/-- A gate that gains a cause is held where its move is outstanding. -/
theorem Gate.withCauses_of_not_empty (x : Gate) {cs : Causes} (some : cs.isEmpty = false) : x.withCauses cs =
    { x with causes := cs, state := if x.state = .moving ∨ x.state = .held then .held else x.state } := by
  rw [Gate.withCauses_eq, some]
  rfl

theorem Gate.withCauses_ne_moving (x : Gate) {cs : Causes} (some : cs.isEmpty = false) :
    (x.withCauses cs).state ≠ .moving := by
  rw [Gate.withCauses_of_not_empty x some]
  dsimp only
  split
  case isTrue => decide
  case isFalse still => exact fun moving => still (.inl moving)

/-! ### The handler's cases -/

theorem uncredit_eq (p : Dyn) : uncredit p = { p with running := p.running.map Running.uncredited } := by
  rw [← uncredit_running]
  unfold uncredit
  split <;> rfl

section Handler

variable {data : Word} {c : Tables} {p : Dyn}

theorem handleMode_of_value {m : Mode} (h : (data.extractLsb' 0 3).toNat = m.code) :
    handleMode data c p = requestMode m c p := by
  have named : modeOfWord data = some m := by
    rw [modeOfWord, h]
    cases m <;> rfl
  rw [handleMode, named]

theorem handleMode_unnamed (h : 3 < (data.extractLsb' 0 3).toNat) :
    handleMode data c p = .refused .badConfig 0 none p := by
  have unnamed : modeOfWord data = none := by
    unfold modeOfWord
    split
    case h_5 => rfl
    all_goals omega
  rw [handleMode, unnamed]
  rfl

theorem requestMode_exiting : requestMode .exiting c p = .refused .modeChange 0 none p := by
  unfold requestMode
  cases p.mode <;> rfl

theorem requestMode_same (h : p.mode ≠ .exiting) : requestMode p.mode c p = .taken c p := by
  unfold requestMode
  cases mode : p.mode with
  | exiting => exact absurd mode h
  | _ => rfl

theorem requestMode_config_hold (config : p.mode = .config) :
    requestMode .hold c p = .refused .modeChange 0 none p := by
  simp only [requestMode, config, Handled.refuse]

theorem requestMode_config_refused (h : p.mode = .hold ∨ p.mode = .exiting) :
    requestMode .config c p = .refused .modeChange 0 none p := by
  obtain h | h := h <;> simp only [requestMode, h, Handled.refuse]

theorem requestMode_exiting_run (exiting : p.mode = .exiting) : requestMode .run c p = .taken c p := by
  simp only [requestMode, exiting]

theorem requestMode_config_run (config : p.mode = .config) : requestMode .run c p = .taken c (enterRun p) := by
  simp only [requestMode, config]

theorem requestMode_run_config_refused (run : p.mode = .run) (inService : ∃ g, (p.gates.get g).inService = true) :
    requestMode .config c p = .refused .inService 0 none p := by
  simp only [requestMode, run, (anyInService_iff p).mpr inService, if_true, Handled.refuse]

theorem requestMode_run_config (run : p.mode = .run) (out : ∀ g, (p.gates.get g).inService = false) :
    requestMode .config c p = .taken c (enterConfig p) := by
  have none : anyInService p = false := by
    rw [Bool.eq_false_iff]
    intro some
    obtain ⟨g, inService⟩ := (anyInService_iff p).mp some
    exact absurd (inService.symm.trans (out g)) (by simp)
  simp only [requestMode, run, none, Bool.false_eq_true, if_false]

theorem requestMode_hold_run (hold : p.mode = .hold) : requestMode .run c p = .taken c (enterExiting p) := by
  simp only [requestMode, hold]

theorem requestMode_hold (h : p.mode = .run ∨ p.mode = .exiting) : requestMode .hold c p = .taken c (enterHold p) := by
  obtain h | h := h <;> simp only [requestMode, h]

end Handler

/-! ### The transitions (R107 to R111) -/

theorem enterRun_eq {p : Dyn} (noOffer : p.offer = none) : enterRun p =
    { p with
      mode := .run, debt := 0, pointer := 0, pointerReset := refreshRunning p
      offer := if refreshRunning p then none else some 0
      summaryMark := some (p.summaryMark.getD p.moment) } := by
  have running : refreshRunning
      (markSummary { p with mode := .run, debt := 0, pointer := 0, pointerReset := refreshRunning p }) =
      refreshRunning p := rfl
  rw [enterRun, offerRun, running]
  cases busy : refreshRunning p with
  | true => simp [markSummary, setMark_eq, noOffer]
  | false => simp [markSummary, setMark_eq, noOffer]

theorem enterConfig_eq (p : Dyn) : enterConfig p =
    { uncredit p with mode := .config, offer := none, summaryMark := some (p.summaryMark.getD p.moment) } := by
  simp [enterConfig, markSummary, setMark_eq]

theorem enterExiting_eq (p : Dyn) : enterExiting p =
    { p with
      mode := .exiting, progress := 0, offer := if refreshRunning p then none else some p.pointer
      summaryMark := some (p.summaryMark.getD p.moment) } := by
  simp [enterExiting, markSummary, setMark_eq]

theorem enterHold_of_exiting {p : Dyn} (exiting : p.mode = .exiting) : enterHold p =
    { uncredit p with
      mode := .hold, progress := 0, offer := none, summaryMark := some (p.summaryMark.getD p.moment) } := by
  simp [enterHold, exiting, markSummary, setMark_eq]

/-- The gates after an entry into HOLD from RUN (R109). -/
theorem enterHold_get {p : Dyn} (run : p.mode = .run) (g : GateId) : (enterHold p).gates.get g =
    if (p.gates.get g).inService then
      { p.gates.get g with
        causes := { (p.gates.get g).causes with mode := true }
        state :=
          if (p.gates.get g).state = .moving ∨ (p.gates.get g).state = .held then .held else (p.gates.get g).state }
    else p.gates.get g := by
  have gates : (markSummary { uncredit p with mode := .hold, offer := none }).gates = p.gates := uncredit_gates p
  rw [enterHold, run]
  dsimp only
  rw [changeCauses_get, gates, Bool.and_true, Gate.withCauses_of_not_empty _ (by rfl)]

theorem enterHold_queue {p : Dyn} (run : p.mode = .run) :
    (enterHold p).queue = p.queue.filter fun g => !(p.gates.get g).inService := by
  have gates : (markSummary { uncredit p with mode := .hold, offer := none }).gates = p.gates := uncredit_gates p
  have queue : (markSummary { uncredit p with mode := .hold, offer := none }).queue = p.queue := uncredit_queue p
  rw [enterHold, run]
  dsimp only
  rw [changeCauses_queue, gates, queue]
  refine List.filter_congr fun g _ => ?_
  have still := Gate.withCauses_ne_moving (p.gates.get g) (cs := { (p.gates.get g).causes with mode := true }) rfl
  simp [still]

theorem enterHold_log (p : Dyn) : (enterHold p).logBuffer = p.logBuffer ∧ (enterHold p).logLost = p.logLost := by
  have keeps (q : Dyn) : (changeCauses (fun _ => true) (fun cs => { cs with mode := true }) q).logBuffer = q.logBuffer ∧
      (changeCauses (fun _ => true) (fun cs => { cs with mode := true }) q).logLost = q.logLost :=
    ⟨changeCauses_keeps Dyn.logBuffer (by simp) _ _ _, changeCauses_keeps Dyn.logLost (by simp) _ _ _⟩
  unfold enterHold
  split
  · exact ⟨(keeps _).1.trans (uncredit_logBuffer p), (keeps _).2.trans (uncredit_logLost p)⟩
  · exact ⟨uncredit_logBuffer p, uncredit_logLost p⟩
  · exact ⟨rfl, rfl⟩
  · exact ⟨rfl, rfl⟩

/-- A mode write that its handler takes. -/
theorem gives_of_modeTaken {i : Instr} {s : State} {w : BusWrite} {tr : Transaction} {p : Dyn}
    (row : i.write? = some (.mode, w)) (accepted : Accepted i s tr)
    (handled : handlerOf w.master w.data .mode s.tables (presented s.dyn) = .taken s.tables p)
    (free : p.running.isNone = s.dyn.running.isNone) : Gives i s s.tables (takeInHand tr p) := by
  obtain rfl := accepted.transaction_eq row
  have taken := presentWrite_taken accepted.noneInHand accepted.passes handled
  exact gives_of_arbitrate ((exec_write row s).trans (congrArg _ taken)) free

/-- The entry into HOLD that a mode write makes from RUN (R109). -/
theorem exec_modeWrite_hold {i : Instr} {s : State} {w : BusWrite} {tr : Transaction} (idle : PortIdle s)
    (row : i.write? = some (.mode, w)) (accepted : Accepted i s tr) (value : (w.data.extractLsb' 0 3).toNat = 2)
    (run : s.dyn.mode = .run) :
    ∃ t, exec i s = .next t ∧ t.tables = s.tables ∧ Settled s t (takeInHand tr (enterHold (presented s.dyn))) := by
  have left : (presented s.dyn).mode = .run ∨ (presented s.dyn).mode = .exiting := .inl run
  have handled : handlerOf w.master w.data .mode s.tables (presented s.dyn) = .taken s.tables (enterHold (presented s.dyn)) :=
    (handleMode_of_value (m := .hold) value).trans (requestMode_hold left)
  have controls := enterHold_controls (presented s.dyn)
  rw [if_pos left] at controls
  have offer : (enterHold (presented s.dyn)).offer = none := congrArg (fun x => x.2.1) controls
  obtain ⟨-, -, -, -, -, -, -, -, -, -, -, -, -, -, -, -, free⟩ := still_fields (enterHold_still (presented s.dyn))
  exact settled_of_taken idle row accepted handled free fun _ => .inl offer

/-- Settles O44: the handler's cases by the mode that stands and the value written. -/
theorem modeWrites : Obligations.ModeWrites := by
  intro i s w tr v rows idle accepted value
  have row : i.write? = some (.mode, w) := by
    obtain rfl | rfl | rfl := rows <;> rfl
  have request {m : Mode} (h : v = m.code) :
      handlerOf w.master w.data .mode s.tables (presented s.dyn) = requestMode m s.tables (presented s.dyn) :=
    handleMode_of_value (value.symm.trans h)
  refine ⟨fun large => ?unnamed, fun exiting => ?exiting, fun same notExiting => ?same, fun config hold => ?configHold,
    fun mode config => ?noConfig, fun exiting run => ?passing, fun config run noOffer => ?enterRun,
    fun run config inService => ?inService, fun run config out => ?enterConfig, fun hold run => ?enterExiting,
    fun exiting hold => ?abandon, fun run hold => ?enterHold⟩
  case unnamed => exact gives_refusedWith_of_refused row accepted (handleMode_unnamed (value ▸ large))
  case exiting =>
    exact gives_refusedWith_of_refused row accepted ((request (m := .exiting) exiting).trans requestMode_exiting)
  case same =>
    refine gives_held_of_taken row accepted ((request same).trans (requestMode_same (p := presented s.dyn) ?_))
    intro exiting
    exact notExiting (same.trans (congrArg Mode.code exiting))
  case configHold =>
    exact gives_refusedWith_of_refused row accepted
      ((request (m := .hold) hold).trans (requestMode_config_hold (p := presented s.dyn) config))
  case noConfig =>
    exact gives_refusedWith_of_refused row accepted
      ((request (m := .config) config).trans (requestMode_config_refused (p := presented s.dyn) mode))
  case passing =>
    exact gives_held_of_taken row accepted
      ((request (m := .run) run).trans (requestMode_exiting_run (p := presented s.dyn) exiting))
  case enterRun =>
    have entered := requestMode_config_run (c := s.tables) (p := presented s.dyn) config
    rw [enterRun_eq (p := presented s.dyn) noOffer] at entered
    exact gives_takeInHand_of_taken row accepted ((request (m := .run) run).trans entered) rfl
  case inService =>
    exact gives_refusedWith_of_refused row accepted
      ((request (m := .config) config).trans (requestMode_run_config_refused (p := presented s.dyn) run inService))
  case enterConfig =>
    have entered := requestMode_run_config (c := s.tables) (p := presented s.dyn) run out
    rw [enterConfig_eq, uncredit_eq] at entered
    rw [uncredit_eq]
    exact gives_of_modeTaken row accepted ((request (m := .config) config).trans entered) Option.isNone_map
  case enterExiting =>
    have entered := requestMode_hold_run (c := s.tables) (p := presented s.dyn) hold
    rw [enterExiting_eq] at entered
    exact gives_takeInHand_of_taken row accepted ((request (m := .run) run).trans entered) rfl
  case abandon =>
    have entered := requestMode_hold (c := s.tables) (p := presented s.dyn) (.inr exiting)
    rw [enterHold_of_exiting (p := presented s.dyn) exiting, uncredit_eq] at entered
    rw [uncredit_eq]
    exact gives_of_modeTaken row accepted ((request (m := .hold) hold).trans entered) Option.isNone_map
  case enterHold =>
    obtain ⟨t, next, tables, settled⟩ := exec_modeWrite_hold idle row accepted (value ▸ hold) run
    have still : (enterHold (presented s.dyn)).still = (presented s.dyn).still := enterHold_still _
    have setting : (takeInHand tr (enterHold (presented s.dyn))).setting = s.dyn.setting :=
      setting_of_still (p := presented s.dyn) (q := enterHold (presented s.dyn)) still
    obtain ⟨-, -, -, -, -, -, -, -, -, -, answer, -⟩ := still_fields still
    obtain ⟨totals, reaches⟩ := rivers_fields (enterHold_rivers (presented s.dyn))
    obtain ⟨buffer, lost⟩ := enterHold_log (presented s.dyn)
    have left : (presented s.dyn).mode = .run ∨ (presented s.dyn).mode = .exiting := .inl run
    have notExiting : (presented s.dyn).mode ≠ .exiting := by simp [presented, Dyn.advance, run]
    have controls := settled.controls.trans (enterHold_controls (presented s.dyn))
    rw [if_pos left, if_neg notExiting] at controls
    simp only [Dyn.controls, Prod.mk.injEq] at controls
    obtain ⟨mode, offer, progress, alarms⟩ := controls
    exact ⟨t, next, tables, settled.store, settled.surroundings setting, settled.taken answer, mode, offer, progress,
      alarms, settled.logKept buffer lost setting, settled.totals.trans totals, settled.reaches.trans reaches,
      settled.dams.trans (enterHold_dams _), settled.queue.trans (enterHold_queue (p := presented s.dyn) run),
      fun g => (congrArg (Vector.get · g) settled.gates).trans (enterHold_get (p := presented s.dyn) run g)⟩

end Sys2Proof.Machine
end

section
/-! A TICK arrival (R8, R82): what it never touches, and what it does where nothing is due and the queue is empty; O6. -/

namespace Sys2Proof.Machine

/-! ### Fields that no timed event touches -/

/-- The station status words, the portals, the log indexes, the transaction in hand and its answer, the pass and the tick
count. -/
def Dyn.byTheClock (p : Dyn) := (p.statusWords, p.portals, p.logWrite, p.logRead, p.hand, p.answer, p.passKind,
  p.passFailed, p.powerOnUnfinished, p.tick)

theorem byTheClock_of_still {p q : Dyn} (h : q.still = p.still) : q.byTheClock = p.byTheClock := by
  obtain ⟨statusWords, portals, -, -, -, -, logWrite, logRead, -, hand, answer, passKind, passFailed, unfinished, tick,
    -⟩ := still_fields h
  simp only [Dyn.byTheClock, statusWords, portals, logWrite, logRead, hand, answer, passKind, passFailed, unfinished,
    tick]

@[simp] theorem offerRun_byTheClock (p : Dyn) : (offerRun p).byTheClock = p.byTheClock := by
  unfold offerRun
  split <;> rfl

theorem endExitPass_byTheClock (c : Tables) (p : Dyn) : (endExitPass c p).byTheClock = p.byTheClock := by
  rw [endExitPass, offerRun_byTheClock, byTheClock_of_still (schedule_course (c := c) p false _).still,
    byTheClock_of_still (changeCauses_still _ _ _)]
  rfl

theorem refreshComplete_byTheClock (c : Tables) (d : DamId) (counts : Bool) (p : Dyn) :
    (refreshComplete c d counts p).byTheClock = p.byTheClock := by
  have advance : (advancePointer c d p).byTheClock = p.byTheClock := rfl
  unfold refreshComplete
  dsimp only
  split
  case h_1 =>
    rw [offerRun_byTheClock]
    split <;> rfl
  case h_2 =>
    split
    · split
      · exact (endExitPass_byTheClock c _).trans advance
      · rfl
    · rfl
  case h_3 => rfl
  case h_4 => rfl

theorem grantJob_byTheClock (c : Tables) (w : Waiting) (p : Dyn) : (grantJob c w p).byTheClock = p.byTheClock := by
  cases w with
  | refresh d =>
    rw [grantJob, grantRefresh]
    split
    · exact refreshComplete_byTheClock _ _ _ _
    · rfl
  | _ => rfl

theorem grantByClass_byTheClock (c : Tables) : (n : Nat) → (p : Dyn) → (grantByClass c n p).byTheClock = p.byTheClock
  | 0, _ => rfl
  | n + 1, p => by
    rw [grantByClass]
    split
    · rfl
    · split
      · rfl
      · rw [grantByClass_byTheClock c n, grantJob_byTheClock]

theorem arbitrate_byTheClock (c : Tables) (wasFree : Bool) (p : Dyn) :
    (arbitrate c wasFree p).byTheClock = p.byTheClock := by
  unfold arbitrate
  split
  · rfl
  · split
    · dsimp only
      split
      · rfl
      · rw [grantByClass_byTheClock, grantJob_byTheClock]
    · exact grantByClass_byTheClock _ _ _

theorem refreshExpires_byTheClock (c : Tables) (p : Dyn) : (refreshExpires c p).byTheClock = p.byTheClock := by
  unfold refreshExpires
  dsimp only
  split
  case h_1 =>
    unfold runExpiry
    split
    · exact (byTheClock_of_still (raise_still _ _ _)).trans rfl
    · exact offerRun_byTheClock _
  case h_2 =>
    unfold holdExpiry
    split <;> rfl
  case h_3 => rfl
  case h_4 => rfl

/-! ### The events that an arrival takes first -/

/-- A timed event leaves configuration, store and commands alone, and of the dynamic state what the clock does not
drive. -/
structure ByTheClock (s t : State) : Prop where
  tables : t.tables = s.tables
  store : StoreKept s t
  fields : t.dyn.byTheClock = s.dyn.byTheClock

theorem ByTheClock.refl (s : State) : ByTheClock s s := ⟨rfl, ⟨rfl, rfl⟩, rfl⟩

theorem ByTheClock.trans {s t u : State} (h1 : ByTheClock s t) (h2 : ByTheClock t u) : ByTheClock s u :=
  ⟨h2.tables.trans h1.tables, ⟨h2.store.1.trans h1.store.1, h2.store.2.trans h1.store.2⟩, h2.fields.trans h1.fields⟩

theorem inEvent_byTheClock {f : Tables → Dyn → Dyn} (s : State)
    (body : (f s.tables s.dyn.advance).byTheClock = s.dyn.byTheClock) : ByTheClock s (inEvent f s) :=
  ⟨rfl, ⟨rfl, rfl⟩, (arbitrate_byTheClock _ _ _).trans body⟩

theorem inEventIf_byTheClock {due : Tables → Dyn → Bool} {f : Tables → Dyn → Dyn} (s : State)
    (body : due s.tables s.dyn = true → (f s.tables s.dyn.advance).byTheClock = s.dyn.byTheClock) :
    ByTheClock s (inEventIf due f s) := by
  unfold inEventIf
  split
  case isTrue isDue => exact inEvent_byTheClock s (body isDue)
  case isFalse => exact .refl s

theorem recoveryEvent_still (c : Tables) (g : GateId) (p : Dyn) :
    (schedule c p false (recoveryEnds c g p)).still = p.still := by
  rw [(schedule_course (c := c) p false _).still, recoveryEnds_still]

theorem dwellEvent_still (c : Tables) (d : DamId) (p : Dyn) :
    (schedule c p false (dwellEnds c d p)).still = p.still := by
  rw [(schedule_course (c := c) p false _).still, dwellEnds_still]

theorem Expiry.byTheClock {f : State → State} (h : Expiry f) (s : State) : ByTheClock s (f s) := by
  have advance {q : Dyn} (still : q.still = s.dyn.advance.still) : q.byTheClock = s.dyn.byTheClock :=
    byTheClock_of_still (p := s.dyn.advance) still
  cases h with
  | lag g =>
    exact inEventIf_byTheClock s fun _ => advance (lagExpires_still _ _ _)
  | recovery g =>
    exact inEventIf_byTheClock s fun _ =>
      advance (recoveryEvent_still _ _ _)
  | dwell d =>
    exact inEventIf_byTheClock s fun _ =>
      advance (dwellEvent_still _ _ _)
  | sample r k => exact inEventIf_byTheClock s fun _ => advance (sampleExpires_turns (N := False) _ r k _).still
  | refresh => exact inEventIf_byTheClock s fun _ => refreshExpires_byTheClock _ _
  | history d dir => exact inEventIf_byTheClock s fun _ => rfl
  | grantTick g => exact inEventIf_byTheClock s fun _ => rfl
  | join => exact inEventIf_byTheClock s fun _ => advance (joinAndScan_course (c := s.tables) _ false _).still

theorem takeDue_byTheClock (s : State) : ByTheClock s (takeDue s) :=
  takeDue_closed (Q := fun f => ∀ s, ByTheClock s (f s)) ByTheClock.refl (fun _ _ hf hg s => (hf s).trans (hg _))
    (fun _ h => h.byTheClock) s

theorem tickArrival_still (c : Tables) (p : Dyn) : (tickArrival c p).still = (countArrival p).still := by
  unfold tickArrival
  dsimp only
  split
  · rfl
  · exact (scan_course c _).still

theorem tickArrival_fields (s : State) : (inEvent tickArrival s).dyn.byTheClock =
    { s.dyn with tick := s.dyn.tick + 1 }.byTheClock := by
  rw [inEvent, arbitrate_byTheClock, byTheClock_of_still (tickArrival_still _ _)]
  rfl

/-- A TICK arrival advances the tick count by one, and touches nothing else that the clock does not drive. -/
theorem tickEvent_byTheClock (s : State) : (tickEvent s).tables = s.tables ∧ StoreKept s (tickEvent s) ∧
    (tickEvent s).dyn.byTheClock = { s.dyn with tick := s.dyn.tick + 1 }.byTheClock := by
  have due := takeDue_byTheClock s
  rw [tickEvent]
  generalize takeDue s = u at due
  refine ⟨due.tables, due.store, (tickArrival_fields u).trans ?_⟩
  have fields := due.fields
  simp only [Dyn.byTheClock, Prod.mk.injEq] at fields ⊢
  obtain ⟨statusWords, portals, logWrite, logRead, hand, answer, passKind, passFailed, unfinished, tick⟩ := fields
  exact ⟨statusWords, portals, logWrite, logRead, hand, answer, passKind, passFailed, unfinished,
    congrArg (· + 1) tick⟩

theorem exec_tick (s : State) : exec .tick s = .next (tickEvent s) := rfl

/-! ### With nothing due -/

theorem waitingJoin_idle {s : State} (idle : ∀ g, joinable s.tables s.dyn g = false) : waitingJoin s = s := by
  rw [waitingJoin_eq, if_neg]
  simp [idle]

theorem Expiry.idle {f : State → State} (h : Expiry f) {s : State} (nothing : NothingDue s) : f s = s := by
  cases h with
  | lag g => exact inEventIf_idle (nothing.lag g) _
  | recovery g => exact inEventIf_idle (nothing.recovery g) _
  | dwell d => exact inEventIf_idle (nothing.dwell d) _
  | sample r k => exact inEventIf_idle (nothing.sample r k) _
  | refresh => exact inEventIf_idle nothing.refresh _
  | history d dir => exact inEventIf_idle (nothing.history d dir) _
  | grantTick g => exact inEventIf_idle (nothing.grantTick g) _
  | join => exact waitingJoin_idle nothing.joins

theorem takeDue_idle {s : State} (nothing : NothingDue s) : takeDue s = s :=
  takeDue_closed (Q := fun f => ∀ s, NothingDue s → f s = s) (fun _ _ => rfl)
    (fun _ g hf hg s nothing => (congrArg g (hf s nothing)).trans (hg s nothing))
    (fun _ h _ => h.idle) s nothing

/-- A TICK arrival with nothing due is the count, and a scan of a queue that is not empty. -/
theorem exec_tick_idle {s : State} (nothing : NothingDue s) : exec .tick s = .next { s with
    dyn := arbitrate s.tables s.dyn.running.isNone (tickArrival s.tables (counted s)) } := by
  refine congrArg Host.Outcome.next ?_
  rw [tickEvent, takeDue_idle nothing]
  rfl

/-- Settles O6: the events taken first keep what the clock does not drive; with nothing due only the count is left. -/
theorem tickCountsTheArrival : Obligations.TickCountsTheArrival := by
  refine ⟨fun s => ⟨_, exec_tick s, ?_⟩, fun s idle nothing empty => ?_⟩
  · obtain ⟨tables, store, fields⟩ := tickEvent_byTheClock s
    generalize tickEvent s = t at tables store fields
    simp only [Dyn.byTheClock, Prod.mk.injEq] at fields
    obtain ⟨statusWords, portals, logWrite, logRead, hand, answer, passKind, passFailed, unfinished, tick⟩ := fields
    exact ⟨tick, tables, store, statusWords, portals, logWrite, logRead, hand, answer, passKind, passFailed, unfinished⟩
  · have arrival : tickArrival s.tables (counted s) = countArrival (counted s) := by
      have none : (countArrival (counted s)).queue.isEmpty = true := List.isEmpty_iff.mpr empty
      rw [tickArrival, if_pos none]
    have waits : (countArrival (counted s)).running = none → noJobWaits (countArrival (counted s)) = true := idle
    rw [exec_tick_idle nothing, arrival, arbitrate_of_noJobWaits waits]
    rfl

end Sys2Proof.Machine
end

section
/-! The scan of the pending step queue (R83): entry by entry as the claims state it, and in full where no entry, or one
alone, is eligible; which gates join (R75, R76). -/

namespace Sys2Proof.Machine

/-! ### The queue after the operations on a queued gate -/

theorem filter_ne_idem (l : List GateId) (g : GateId) :
    (l.filter (· != g)).filter (· != g) = l.filter (· != g) := by
  rw [List.filter_filter]
  simp

theorem recoveryEnds_queue_of_dequeued {c : Tables} {g : GateId} {p : Dyn} (out : p.queue.filter (· != g) = p.queue) :
    (recoveryEnds c g p).queue = p.queue := by
  unfold recoveryEnds
  dsimp only
  split
  · rw [silenceCheckOf_queue, putGate_queue]
    simp [out]
  · rw [putGate_queue]
    split
    · rfl
    · exact out

theorem settle_queue (c : Tables) (g : GateId) (p : Dyn) : (settle c g p).queue = p.queue.filter (· != g) := by
  have put (x : Gate) (rests : x.state ≠ .moving) : (putGate g x p).queue = p.queue.filter (· != g) := by
    rw [putGate_queue, if_neg (by simpa using rests)]
  unfold settle
  dsimp only
  split
  · split
    · rw [recoveryEnds_queue_of_dequeued] <;> rw [put _ (by simp)]
      exact filter_ne_idem _ _
    · exact put _ (by simp)
  · exact put _ (by simp)

/-- A gate leaves the queue at its grant (R86). -/
theorem grant_queue (c : Tables) (g : GateId) (p : Dyn) : (grant c g p).queue = p.queue.filter (· != g) := by
  have put (x : Gate) : (putGate g x (dequeue g p)).queue = p.queue.filter (· != g) := by
    rw [putGate_queue, dequeue_queue]
    split
    · rfl
    · exact filter_ne_idem _ _
  unfold grant
  dsimp only
  split
  · rw [settle_queue, recordStep_queue, put]
    exact filter_ne_idem _ _
  · rw [recordStep_queue, put]

theorem loseInterlock_queue_eq (c : Tables) (g : GateId) (dir : Direction) (k : CondId) (p : Dyn) :
    (loseInterlock c g dir k p).queue = p.queue.filter (· != g) := by
  unfold loseInterlock
  dsimp only
  rw [formRecord_queue, setCauses, putGate_queue, dequeue_queue]
  split
  · rfl
  · exact filter_ne_idem _ _

/-! ### Eligibility (R81) -/

theorem eligible_congr {c : Tables} {p q : Dyn} {g : GateId} (tick : q.tick = p.tick)
    (history : ∀ d, (q.dams.get d).lastStep = (p.dams.get d).lastStep)
    (command : (q.gates.get g).command = (p.gates.get g).command)
    (target : (q.gates.get g).target = (p.gates.get g).target) : eligible c q g = eligible c p g := by
  simp only [eligible, eligibleFor, staggerMet, tick, history, command, target]

theorem loseInterlock_dams (c : Tables) (g : GateId) (dir : Direction) (k : CondId) (p : Dyn) :
    (loseInterlock c g dir k p).dams = p.dams := by
  simp [loseInterlock, setCauses]

theorem loseInterlock_get (c : Tables) (g : GateId) (dir : Direction) (k : CondId) (p : Dyn) (h : GateId) :
    (loseInterlock c g dir k p).gates.get h =
      if h = g then (p.gates.get g).withCauses { (p.gates.get g).causes with interlock := true }
      else p.gates.get h := by
  simp [loseInterlock, setCauses, put_get_ite]

/-- A gate that loses its interlock leaves the others as eligible as they were. -/
theorem loseInterlock_eligible {c : Tables} {g h : GateId} (other : h ≠ g) (dir : Direction) (k : CondId) (p : Dyn) :
    eligible c (loseInterlock c g dir k p) h = eligible c p h := by
  have same : (loseInterlock c g dir k p).gates.get h = p.gates.get h := by
    rw [loseInterlock_get, if_neg other]
  obtain ⟨-, -, -, -, -, -, -, -, -, -, -, -, -, -, tick, -⟩ := still_fields (loseInterlock_still c g dir k p)
  exact eligible_congr tick (fun d => by rw [loseInterlock_dams]) (by rw [same]) (by rw [same])

/-! ### The scan, entry by entry -/

theorem filter_ne_middle {before after : List GateId} {g : GateId} (distinct : (before ++ g :: after).Nodup) :
    (before ++ g :: after).filter (· != g) = before ++ after := by
  obtain ⟨-, later, apart⟩ := List.nodup_append.mp distinct
  obtain ⟨absent, -⟩ := List.nodup_cons.mp later
  have first : before.filter (· != g) = before := by
    rw [List.filter_eq_self]
    intro h listed
    simpa using apart h listed g List.mem_cons_self
  have rest : after.filter (· != g) = after := by
    rw [List.filter_eq_self]
    intro h listed
    simpa using fun same : h = g => absent (same ▸ listed)
  rw [List.filter_append, List.filter_cons, first, rest]
  simp

/-- One examination from an entry on, those before it being not eligible: it is the scan's whole course where it grants
nothing, and the scan's course up to its grant where it grants. -/
theorem examine_scanned (c : Tables) : (l before : List GateId) → (p : Dyn) → p.queue = before ++ l → p.queue.Nodup →
    (∀ h ∈ before, eligible c p h = false) →
    ((examine c l p).granted = false → Scanned c p (examine c l p).lost (examine c l p).dyn) ∧
      ((examine c l p).granted = true → (examine c l p).dyn.queue.length < p.queue.length ∧
        ∀ lost q, Scanned c (examine c l p).dyn lost q → Scanned c p ((examine c l p).lost ++ lost) q)
  | [], before, p, queue, _, blocked => by
    refine ⟨fun _ => .done p fun g listed => blocked g ?_, fun granted => nomatch granted⟩
    rw [queue, List.append_nil] at listed
    exact listed
  | g :: rest, before, p, queue, distinct, blocked => by
    have mem : g ∈ p.queue := by simp [queue]
    have removed : p.queue.filter (· != g) = before ++ rest := by
      rw [queue, filter_ne_middle (queue ▸ distinct)]
    have shorter : (before ++ rest).length < p.queue.length := by simp [queue]
    rw [examine]
    dsimp only
    by_cases takes : eligible c p g = true
    · rw [if_pos (show eligibleFor c p g _ = true from takes)]
      split
      next passes =>
        refine ⟨fun none => (nomatch none), fun _ => ⟨?_, fun lost q later => ?_⟩⟩
        · rw [grant_queue, removed]
          exact shorter
        · exact .grants p q g before rest lost queue blocked takes passes later
      next k fails =>
        dsimp only
        have queue1 : (loseInterlock c g (directionTo (p.gates.get g).command (p.gates.get g).target) k p).queue =
            before ++ rest := (loseInterlock_queue_eq _ _ _ _ _).trans removed
        have distinct1 : (loseInterlock c g (directionTo (p.gates.get g).command (p.gates.get g).target) k
            p).queue.Nodup := by
          rw [loseInterlock_queue_eq]
          exact distinct.filter _
        have blocked1 : ∀ h ∈ before,
            eligible c (loseInterlock c g (directionTo (p.gates.get g).command (p.gates.get g).target) k p) h = false := by
          intro h listed
          have other : h ≠ g := by
            rintro rfl
            exact absurd takes (by simp [blocked _ listed])
          exact (loseInterlock_eligible other _ k p).trans (blocked h listed)
        obtain ⟨ends, goesOn⟩ := examine_scanned c rest before _ queue1 distinct1 blocked1
        refine ⟨fun none => ?_, fun granted => ⟨?_, fun lost q later => ?_⟩⟩
        · exact .holds p _ g k before rest _ queue blocked takes fails (ends none)
        · refine lt_of_lt_of_le (goesOn granted).1 ?_
          rw [queue1]
          exact shorter.le
        · exact .holds p q g k before rest _ queue blocked takes fails ((goesOn granted).2 lost q later)
    · have waits : eligible c p g = false := by simpa using takes
      rw [if_neg (show ¬ eligibleFor c p g _ = true from takes)]
      refine examine_scanned c rest (before ++ [g]) p (by simp [queue]) distinct fun h listed => ?_
      obtain listed | last := List.mem_append.mp listed
      · exact blocked h listed
      · exact List.mem_singleton.mp last ▸ waits

theorem scanLoop_scanned (c : Tables) : (n : Nat) → (p : Dyn) → p.queue.Nodup → p.queue.length < n →
    Scanned c p (scanLoop c n p).2 (scanLoop c n p).1
  | 0, _, _, bound => by omega
  | n + 1, p, distinct, bound => by
    obtain ⟨ends, goesOn⟩ := examine_scanned c p.queue [] p rfl distinct fun _ listed => nomatch listed
    have distinct1 : (examine c p.queue p).dyn.queue.Nodup :=
      distinct.sublist (examine_frame c p.queue p distinct fun _ listed => listed).queue
    rw [scanLoop]
    dsimp only
    split
    case isTrue granted =>
      obtain ⟨shorter, later⟩ := goesOn granted
      exact later _ _ (scanLoop_scanned c n _ distinct1 (by omega))
    case isFalse none => exact ends (by simpa using none)

/-- A scan of a queue that holds no gate twice is the scan of the claims, and then the links' turn (R83). -/
theorem scan_scanned (c : Tables) {p : Dyn} (distinct : p.queue.Nodup) :
    ∃ q lost, Scanned c p lost q ∧ scan c p = offerLost c lost q :=
  ⟨_, _, scanLoop_scanned c _ p distinct (Nat.lt_succ_self _), rfl⟩

/-! ### Scans of little -/

theorem examine_none {c : Tables} {p : Dyn} : {l : List GateId} → (∀ g ∈ l, eligible c p g = false) →
    examine c l p = ⟨p, [], false⟩
  | [], _ => rfl
  | g :: rest, waits => by
    have first : eligibleFor c p g (directionTo (p.gates.get g).command (p.gates.get g).target) = false :=
      waits g List.mem_cons_self
    rw [examine]
    dsimp only
    rw [first]
    exact examine_none fun h listed => waits h (List.mem_cons_of_mem g listed)

/-- A scan of a queue with no eligible entry changes nothing. -/
theorem scan_none {c : Tables} {p : Dyn} (waits : ∀ g ∈ p.queue, eligible c p g = false) : scan c p = p := by
  simp [scan, scanLoop, examine_none waits]

section One

variable {c : Tables} {p : Dyn} {g : GateId}

/-- The scan of a queue of one eligible gate whose interlock passes. -/
theorem scan_one_granted (alone : p.queue = [g]) (takes : eligible c p g = true)
    (passes : falseCondition c p.statusWords g (directionTo (p.gates.get g).command (p.gates.get g).target) = none) :
    scan c p = grant c g p := by
  have first : examine c p.queue p = ⟨grant c g p, [], true⟩ := by
    rw [alone, examine]
    dsimp only
    rw [if_pos (show eligibleFor c p g _ = true from takes), passes]
  have empty : (grant c g p).queue = [] := by simp [grant_queue, alone]
  have length : p.queue.length = 1 := by simp [alone]
  simp only [scan, length, scanLoop, first, empty, examine, if_true, Bool.false_eq_true, if_false, List.append_nil,
    List.foldl_nil]

/-- The scan of a queue of one eligible gate with its condition false. -/
theorem scan_one_lost {k : CondId} (alone : p.queue = [g]) (takes : eligible c p g = true)
    (fails : falseCondition c p.statusWords g (directionTo (p.gates.get g).command (p.gates.get g).target) = some k) :
    scan c p = offerLinks c .interlockLost (.gate g)
      (loseInterlock c g (directionTo (p.gates.get g).command (p.gates.get g).target) k p) := by
  have first : examine c p.queue p =
      ⟨loseInterlock c g (directionTo (p.gates.get g).command (p.gates.get g).target) k p, [g], false⟩ := by
    rw [alone, examine]
    dsimp only
    rw [if_pos (show eligibleFor c p g _ = true from takes), fails]
    rfl
  have length : p.queue.length = 1 := by simp [alone]
  simp only [scan, length, scanLoop, first, Bool.false_eq_true, if_false, List.foldl_cons, List.foldl_nil]

end One

/-! ### Joins (R75, R76) -/

theorem joinFold_filter (c : Tables) (sel : GateId → Bool) : (l : List GateId) → l.Nodup → (p : Dyn) →
    l.foldl (fun p g => if sel g then joinQueue c g p else p) p =
      { p with queue := p.queue ++ l.filter fun g => sel g && joinable c p g }
  | [], _, p => by simp
  | g :: l, distinct, p => by
    obtain ⟨absent, distinct⟩ := List.nodup_cons.mp distinct
    rw [List.foldl_cons, joinFold_filter c sel l distinct, List.filter_cons]
    by_cases joins : (sel g && joinable c p g) = true
    · obtain ⟨picked, may⟩ := Bool.and_eq_true_iff.mp joins
      have step : (if sel g then joinQueue c g p else p) = { p with queue := p.queue ++ [g] } := by
        simp [picked, joinQueue, may]
      have same : l.filter (fun h => sel h && joinable c { p with queue := p.queue ++ [g] } h) =
          l.filter (fun h => sel h && joinable c p h) := by
        refine List.filter_congr fun h listed => ?_
        have other : h ≠ g := fun same => absent (same ▸ listed)
        simp [joinable, stepIntervalElapsed, other]
      rw [step, if_pos joins, same]
      simp
    · have step : (if sel g then joinQueue c g p else p) = p := by
        by_cases picked : sel g = true
        · have may : joinable c p g = false := by simpa [picked] using joins
          simp [picked, joinQueue, may]
        · simp [picked]
      rw [step, if_neg joins]

/-- The gates that join, in ascending gate number at the tail. -/
theorem joinAll_filter (c : Tables) (sel : GateId → Bool) (p : Dyn) : joinAll c sel p =
    { p with queue := p.queue ++ (List.finRange 48).filter fun g => sel g && joinable c p g } :=
  joinFold_filter c sel _ (List.nodup_finRange 48) p

/-- The one gate that may join does so, and a scan follows. -/
theorem joinAndScan_one {c : Tables} {sel : GateId → Bool} {p : Dyn} {g : GateId}
    (only : (List.finRange 48).filter (fun h => sel h && joinable c p h) = [g]) (forced : Bool) :
    joinAndScan c sel forced p = scan c { p with queue := p.queue ++ [g] } := by
  simp [joinAndScan, joinAll_filter, only]

/-- Joins after which no queued gate is eligible leave the queue longer, and nothing else changed. -/
theorem joinAndScan_waits {c : Tables} {sel : GateId → Bool} {p : Dyn} (forced : Bool)
    (waits : ∀ g ∈ p.queue ++ (List.finRange 48).filter (fun g => sel g && joinable c p g), eligible c p g = false) :
    joinAndScan c sel forced p =
      { p with queue := p.queue ++ (List.finRange 48).filter fun g => sel g && joinable c p g } := by
  unfold joinAndScan
  dsimp only
  rw [joinAll_filter]
  split
  · exact scan_none waits
  · rfl

/-- A join of gates that each wait their turn, or none: the queue that the joins leave is scanned or stands. -/
theorem joinAndScan_scanned (c : Tables) (sel : GateId → Bool) (forced : Bool) {p : Dyn} (distinct : p.queue.Nodup) :
    (joinAndScan c sel forced p = { p with queue := p.queue ++ (List.finRange 48).filter fun g => sel g && joinable c p g }) ∨
      ∃ q lost, Scanned c { p with queue := p.queue ++ (List.finRange 48).filter fun g => sel g && joinable c p g } lost q ∧
        joinAndScan c sel forced p = offerLost c lost q := by
  obtain ⟨js, joins, -, nodup⟩ := joinAll_eq c sel p
  have distinct1 : (joinAll c sel p).queue.Nodup := by
    rw [joins]
    exact nodup distinct
  unfold joinAndScan
  dsimp only
  split
  · obtain ⟨q, lost, scanned, ends⟩ := scan_scanned c distinct1
    rw [← joinAll_filter c sel p]
    exact .inr ⟨q, lost, scanned, ends⟩
  · exact .inl (joinAll_filter c sel p)

end Sys2Proof.Machine
end

section
/-! What a granted step leaves, in the words of the claims, and the commands that scan the queue or let a gate join it:
a stagger matrix write, the elapse of a step interval and a TICK arrival; O36, O13, O14, O7. -/

namespace Sys2Proof.Machine

/-! ### A granted step (R85 to R87) -/

theorem Gate.stepped_command (x : Gate) (c : GateConfig) (dwell : Nat) (tick : BitVec 32) :
    (x.stepped c dwell tick).command = steppedCommand c.stepSize.toNat x.command x.target := by
  unfold Gate.stepped
  dsimp only
  split <;> rfl

theorem Gate.stepped_target (x : Gate) (c : GateConfig) (dwell : Nat) (tick : BitVec 32) :
    (x.stepped c dwell tick).target = x.target := by
  unfold Gate.stepped
  dsimp only
  split <;> rfl

/-- The record after a granted step is the one that the claims describe. -/
theorem Gate.stepped_spec (x : Gate) (c : GateConfig) (dwell : Nat) (tick : BitVec 32) :
    Gate.Stepped c dwell tick x (x.stepped c dwell tick) := by
  by_cases arrived : steppedCommand c.stepSize.toNat x.command x.target = x.target
  · have record : x.stepped c dwell tick = (x.granted c tick).ended c.kind dwell := if_pos arrived
    rw [record]
    exact
      { orders := Gate.sameOrder_refl _
        command := rfl
        lastGrant := rfl
        awaiting := by simp [Gate.ended, Gate.granted, GateConfig.tracked]
        lagTimer := by simp [Gate.ended, Gate.granted, GateConfig.tracked]
        causes := (if_pos arrived).symm
        state := by simp [Gate.ended, Gate.granted, arrived]
        recoveryTimer := by simp [Gate.ended, Gate.granted, arrived] }
  · have record : x.stepped c dwell tick = x.granted c tick := if_neg arrived
    rw [record]
    exact
      { orders := Gate.sameOrder_refl _
        command := rfl
        lastGrant := rfl
        awaiting := by simp [Gate.granted, GateConfig.tracked]
        lagTimer := by simp [Gate.granted, GateConfig.tracked]
        causes := (if_neg arrived).symm
        state := (if_pos arrived).symm
        recoveryTimer := (if_neg fun all => arrived all.1).symm }

theorem silenceCheckOf_dam_elsewhere {c : Tables} {g : GateId} {e : DamId} (elsewhere : (c.gates.get g).inDam e = false)
    (p : Dyn) : (silenceCheckOf c g p).dams.get e = p.dams.get e := by
  unfold silenceCheckOf silenceCheck
  split
  case h_1 d _ dam =>
    have other : d ≠ e := by
      rintro rfl
      exact absurd (inDam_of_dam? dam) (by simp [elsewhere])
    split
    · rw [setWarning_dams, Table.put_get_ne _ _ other]
    · rfl
  case h_2 => rfl
  case h_3 => rfl

/-- A dam record of which only the warning and its dwell timer have changed. -/
def Dam.RewarnedFrom (x y : Dam) : Prop := y = { x with warning := y.warning, dwellTimer := y.dwellTimer }

theorem Dam.RewarnedFrom.refl (x : Dam) : x.RewarnedFrom x := rfl

theorem Dam.RewarnedFrom.trans {x y z : Dam} (h1 : x.RewarnedFrom y) (h2 : y.RewarnedFrom z) : x.RewarnedFrom z := by
  unfold Dam.RewarnedFrom at h1 h2 ⊢
  rw [h2, h1]

theorem silenceCheckOf_rewarned (c : Tables) (g : GateId) (p : Dyn) (e : DamId) :
    (p.dams.get e).RewarnedFrom ((silenceCheckOf c g p).dams.get e) := by
  obtain same | ⟨-, silent⟩ := silenceCheckOf_dam c g p e
  · rw [same]
    exact .refl _
  · rw [silent]
    exact rfl

theorem recoveryEnds_dam (c : Tables) (g : GateId) (p : Dyn) (e : DamId) :
    (p.dams.get e).RewarnedFrom ((recoveryEnds c g p).dams.get e) ∧
      ((c.gates.get g).inDam e = false → (recoveryEnds c g p).dams.get e = p.dams.get e) := by
  have put (x : Gate) : (putGate g x p).dams = p.dams := by simp
  unfold recoveryEnds
  dsimp only
  split
  · have rewarned := silenceCheckOf_rewarned c g
      (putGate g { p.gates.get g with state := .closed, recoveryTimer := .stopped } p) e
    rw [put] at rewarned
    exact ⟨rewarned, fun elsewhere => (silenceCheckOf_dam_elsewhere elsewhere _).trans (by rw [put])⟩
  · rw [put]
    exact ⟨.refl _, fun _ => rfl⟩

theorem settle_dam (c : Tables) (g : GateId) (p : Dyn) (e : DamId) :
    (p.dams.get e).RewarnedFrom ((settle c g p).dams.get e) ∧
      ((c.gates.get g).inDam e = false → (settle c g p).dams.get e = p.dams.get e) := by
  have put (x : Gate) : (putGate g x p).dams = p.dams := by simp
  unfold settle
  dsimp only
  split
  · split
    · have ends := recoveryEnds_dam c g (putGate g { p.gates.get g with
        state := .recovering
        causes := { (p.gates.get g).causes with interlock := false }
        recoveryTimer := .running (recoveryDwellOf c g) } p) e
      rw [put] at ends
      exact ends
    · rw [put]
      exact ⟨.refl _, fun _ => rfl⟩
  · rw [put]
    exact ⟨.refl _, fun _ => rfl⟩

theorem Dam.withStep_lastStep (x : Dam) (dir : Direction) (tick : BitVec 32) :
    (x.withStep dir tick).lastStep dir = some tick := by
  cases dir <;> rfl

theorem Dam.withStep_hold (x : Dam) (dir : Direction) (tick : BitVec 32) : (x.withStep dir tick).hold = x.hold := by
  cases dir <;> rfl

theorem Dam.RewarnedFrom.lastStep {x y : Dam} (h : x.RewarnedFrom y) (dir : Direction) :
    y.lastStep dir = x.lastStep dir := by
  rw [Dam.RewarnedFrom] at h
  rw [h]
  cases dir <;> rfl

theorem Dam.RewarnedFrom.hold {x y : Dam} (h : x.RewarnedFrom y) : y.hold = x.hold := by
  rw [Dam.RewarnedFrom] at h
  rw [h]

/-- A granted step is recorded at the gate's own dam (R86), and the other dams stand. -/
theorem grant_dam (c : Tables) (g : GateId) (p : Dyn) (d : DamId) :
    if (c.gates.get g).inDam d then
      ((grant c g p).dams.get d).lastStep (directionTo (p.gates.get g).command (p.gates.get g).target) = some p.tick ∧
        ((grant c g p).dams.get d).hold = (p.dams.get d).hold
    else (grant c g p).dams.get d = p.dams.get d := by
  have record : ∃ q : Dyn, ((grant c g p) = q ∨ grant c g p = settle c g q) ∧ q.dams.get d =
      if (c.gates.get g).inDam d then
        (p.dams.get d).withStep (directionTo (p.gates.get g).command (p.gates.get g).target) p.tick
      else p.dams.get d := by
    refine ⟨recordStep c g (directionTo (p.gates.get g).command (p.gates.get g).target)
      (putGate g ((p.gates.get g).granted (c.gates.get g) p.tick) (dequeue g p)), ?_, ?_⟩
    · unfold grant
      dsimp only
      split
      · exact .inr rfl
      · exact .inl rfl
    · unfold recordStep
      split
      case h_1 e dam =>
        by_cases own : e = d
        · subst own
          simp [inDam_of_dam? dam]
        · have elsewhere : (c.gates.get g).inDam d = false := by
            rw [Bool.eq_false_iff]
            exact fun here => own (inDam_unique (inDam_of_dam? dam) here)
          simp [elsewhere, Table.put_get_ne _ _ own]
      case h_2 dam =>
        have nowhere : (c.gates.get g).inDam d = false := by
          rw [Bool.eq_false_iff]
          exact fun here => absurd (dam.symm.trans (dam?_of_inDam here)) (by simp)
        simp [nowhere]
  obtain ⟨q, granted, history⟩ := record
  have rewarned : (q.dams.get d).RewarnedFrom ((grant c g p).dams.get d) ∧
      ((c.gates.get g).inDam d = false → (grant c g p).dams.get d = q.dams.get d) := by
    obtain same | settled := granted
    · rw [same]
      exact ⟨.refl _, fun _ => rfl⟩
    · rw [settled]
      exact settle_dam c g q d
  obtain ⟨rewarned, elsewhere⟩ := rewarned
  split
  case isTrue here =>
    rw [if_pos here] at history
    rw [rewarned.lastStep, rewarned.hold, history]
    exact ⟨Dam.withStep_lastStep _ _ _, Dam.withStep_hold _ _ _⟩
  case isFalse other =>
    rw [if_neg other] at history
    exact (elsewhere (by simpa using other)).trans history

/-! ### The scan of one eligible gate -/

theorem GatesSound.queueOk {s : State} (sound : GatesSound s) : QueueOk s.dyn := (gatesSound_iff.mp sound).queue

section Alone

variable {c : Tables} {p : Dyn} {g : GateId}

/-- The scan of a queue of one gate whose interlock passes: a step, or nothing. -/
theorem scan_alone (alone : p.queue = [g])
    (passes : falseCondition c p.statusWords g (directionTo (p.gates.get g).command (p.gates.get g).target) = none) :
    scan c p = if eligible c p g then grant c g p else p := by
  split
  case isTrue takes => exact scan_one_granted alone takes passes
  case isFalse waits =>
    refine scan_none fun h listed => ?_
    rw [alone, List.mem_singleton] at listed
    rw [listed]
    simpa using waits

/-- What is left of a queue of one gate that the scan holds by INTERLOCK. -/
structure LostAlone (c : Tables) (p : Dyn) (g : GateId) (k : CondId) (q : Dyn) : Prop where
  course : Course c p q
  queue : q.queue = []
  rivers : q.rivers = p.rivers
  dams : ∀ d, ∃ h, q.dams.get d = { p.dams.get d with hold := h }
  others : ∀ h, h ≠ g → (p.gates.get h).OnlyHolds (q.gates.get h)
  own : Gate.OnlyHolds
    { p.gates.get g with state := .held, causes := { (p.gates.get g).causes with interlock := true } } (q.gates.get g)
  recorded : Recorded
    (Event.record
      { interlockLostEvent c g (directionTo (p.gates.get g).command (p.gates.get g).target) k p with
        context := .gate .held } p.tick) q
  acted : LinksActed c .interlockLost (.gate g) q

theorem scan_lostAlone {k : CondId} (alone : p.queue = [g]) (moving : (p.gates.get g).state = .moving)
    (takes : eligible c p g = true)
    (fails : falseCondition c p.statusWords g (directionTo (p.gates.get g).command (p.gates.get g).target) = some k) :
    LostAlone c p g k (scan c p) := by
  rw [scan_one_lost alone takes fails]
  have held : (p.gates.get g).withCauses { (p.gates.get g).causes with interlock := true } =
      { p.gates.get g with state := .held, causes := { (p.gates.get g).causes with interlock := true } } := by
    rw [Gate.withCauses_of_not_empty _ (by simp [Causes.isEmpty]), if_pos (.inl moving)]
  generalize same : directionTo (p.gates.get g).command (p.gates.get g).target = dir
  have frame := offerLinks_frame c .interlockLost (.gate g) (loseInterlock c g dir k p)
  have empty : (loseInterlock c g dir k p).queue = [] := by simp [loseInterlock_queue_eq, alone]
  have gates (h : GateId) := loseInterlock_get c g dir k p h
  have record : Recorded
      (Event.record { interlockLostEvent c g dir k p with context := .gate .held } p.tick)
      (loseInterlock c g dir k p) := by
    have state : ((p.gates.get g).withCauses { (p.gates.get g).causes with interlock := true }).state = .held := by
      rw [held]
    have formed : Event.record { interlockLostEvent c g dir k p with context := .gate .held } p.tick =
        (interlockLostEvent c g dir k
          (setCauses g { (p.gates.get g).causes with interlock := true } (dequeue g p))).record
            (setCauses g { (p.gates.get g).causes with interlock := true } (dequeue g p)).tick := by
      simp [Event.record, interlockLostEvent, setCauses, state]
    rw [formed]
    exact formRecord_recorded _ _
  exact
    { course := (loseInterlock_course g dir k p).trans (offerLinks_growth c _ _ _).course
      queue := List.eq_nil_of_subset_nil (empty ▸ frame.queue.subset)
      rivers := (offerLinks_rivers _ _ _ _).trans (loseInterlock_rivers _ _ _ _ _)
      dams := fun d => by
        obtain ⟨h, same⟩ := frame.dams d
        exact ⟨h, by rw [same, loseInterlock_dams]⟩
      others := fun h other => by
        have only := frame.gates h
        rw [gates h, if_neg other] at only
        exact only
      own := by
        have only := frame.gates g
        rw [gates g, if_pos rfl, held] at only
        exact only
      recorded := by
        rw [same]
        exact record.mono frame
      acted := offerLinks_acted c _ _ _ }

end Alone

/-! ### Commands with events, as the claims bound them -/

theorem boundsReported_of_exceeded {s t : State}
    (same : ∀ r, (t.dyn.reaches.get r).exceeded = (s.dyn.reaches.get r).exceeded) : BoundsReported s t := by
  intro r clear set
  exact absurd ((same r).symm.trans set) (by simp [clear])

theorem boundsReported_of_reaches {s t : State} (reaches : t.dyn.reaches = s.dyn.reaches) : BoundsReported s t :=
  boundsReported_of_exceeded fun r => by rw [reaches]

/-- A hold flag that links may have set. -/
theorem hold_or {x y : Dam} (only : ∃ h, y = { x with hold := h }) (kept : x.hold = true → y.hold = true) :
    ∃ h, y = { x with hold := x.hold || h } := by
  obtain ⟨h, rfl⟩ := only
  cases hold : x.hold with
  | false => exact ⟨h, rfl⟩
  | true =>
    have set : h = true := kept hold
    exact ⟨true, by rw [set]; rfl⟩

/-- A command of which only events are left beside its own effect. -/
theorem onlyEventsBeside_of_course {s t : State} {p q : Dyn} (settled : Settled s t q) (tables : t.tables = s.tables)
    (course : Course s.tables p q) (setting : q.setting = s.dyn.setting) (controls : p.controls = s.dyn.controls)
    (holds : ∀ d, (p.dams.get d).hold = (s.dyn.dams.get d).hold)
    (dams : ∀ d, ∃ h, q.dams.get d = { s.dyn.dams.get d with hold := h })
    (reaches : ∀ r, ∃ b, q.reaches.get r = { s.dyn.reaches.get r with exceeded := b })
    (bounds : BoundsReported s t) (queue : q.queue.Sublist s.dyn.queue) : OnlyEventsBeside s t where
  tables := tables
  store := settled.store
  surroundings := settled.surroundings setting
  control := settled.controlByLinks course controls rfl
  dams := fun d => by
    rw [settled.dams]
    exact hold_or (dams d) fun set => course.holds d ((holds d).trans set)
  reaches := fun r => by
    rw [settled.reaches]
    exact reaches r
  bounds := bounds
  queue := by
    rw [settled.queue]
    exact queue

/-! ### A stagger matrix write -/

theorem handleMatrix_eq (i : Fin 8) (data : Word) (c : Tables) (p : Dyn) : handleMatrix i data c p =
    .taken { c with matrix := Table.put c.matrix i data }
      (scan { c with matrix := Table.put c.matrix i data } p) := rfl

/-- A WRITE whose event is a scan: the state of the claims, with the WRITE taken. -/
theorem gives_offerLost {i : Instr} {x : WriteTarget} {w : BusWrite} {s : State} {tr : Transaction} {c : Tables}
    {q : Dyn} {lost : List GateId} (row : i.write? = some (x, w)) (accepted : Accepted i s tr)
    (handled : handlerOf w.master w.data x s.tables (presented s.dyn) = .taken c (offerLost c lost q))
    (free : (offerLost c lost q).running.isNone = s.dyn.running.isNone) :
    Gives i s c { offerLost c lost q with hand := some tr } := by
  obtain rfl := accepted.transaction_eq row
  have taken := presentWrite_taken accepted.noneInHand accepted.passes handled
  exact gives_of_arbitrate ((exec_write row s).trans (congrArg _ taken)) free

/-- What a scan that grants one queued gate a step leaves, beside the gate, its dam and the queue. -/
theorem grant_setting (c : Tables) (g : GateId) (p : Dyn) : (grant c g p).setting = p.setting :=
  setting_of_still (grant_still c g p)

/-- Settles O36: the handler scans, and a scan is what the claims say of one. -/
theorem staggerMatrixWrite : Obligations.StaggerMatrixWrite := by
  intro s i w tr c idle accepted tables
  have row : (Instr.staggerMatrixWrite i w).write? = some (.matrix i, w) := rfl
  have handled : handlerOf w.master w.data (.matrix i) s.tables (presented s.dyn) =
      .taken c (scan c (presented s.dyn)) := by
    rw [tables]
    exact handleMatrix_eq i w.data s.tables (presented s.dyn)
  refine ⟨fun waits => ?waits, fun sound => ?scanned, fun g alone moving takes passes => ?one⟩
  case waits =>
    rw [scan_none (p := presented s.dyn) waits] at handled
    exact gives_held_of_taken row accepted handled
  case scanned =>
    obtain ⟨q, lost, scanned, ends⟩ := scan_scanned c (p := presented s.dyn) sound.queueOk.distinct
    obtain ⟨-, -, -, -, -, -, -, -, -, -, -, -, -, -, -, -, free⟩ := still_fields (scan_still c (presented s.dyn))
    rw [ends] at handled free
    exact ⟨q, lost, scanned, gives_offerLost row accepted handled free⟩
  case one =>
    have granted : scan c (presented s.dyn) = grant c g (presented s.dyn) :=
      scan_one_granted (p := presented s.dyn) alone takes passes
    rw [granted] at handled
    obtain ⟨t, next, tables, settled⟩ := settled_of_course (c' := c) idle row accepted handled
      (.of_around (grant_around c g (presented s.dyn)))
    obtain ⟨still, controls, buffer, lost, -⟩ := around_fields (grant_around c g (presented s.dyn))
    obtain ⟨totals, reaches⟩ := rivers_fields (grant_rivers c g (presented s.dyn))
    obtain ⟨-, -, -, -, -, -, -, -, -, -, answer, -⟩ := still_fields still
    have gates (h : GateId) := (congrArg (Vector.get · h) settled.gates).trans (grant_get c g (presented s.dyn) h)
    have setting : (takeInHand tr (grant c g (presented s.dyn))).setting = s.dyn.setting := grant_setting c g (presented s.dyn)
    refine ⟨t, next, tables, settled.store, settled.surroundings setting, settled.taken answer,
      settled.sameControl controls, settled.logKept buffer lost setting, settled.totals.trans totals,
      settled.reaches.trans reaches, settled.queue.trans ?_, ?_, fun h other => ?_⟩
    · show (grant c g (presented s.dyn)).queue = []
      simp [grant_queue, alone]
    · rw [gates g, if_pos rfl]
      exact Gate.stepped_spec _ _ _ _
    · rw [gates h, if_neg other]
      rfl

end Sys2Proof.Machine
end

section
/-! Timed commands that let a gate join the queue or scan it: the elapse of a step interval and a TICK arrival; and the
expiry of the refresh interval; O13, O14, O7, O12. -/

namespace Sys2Proof.Machine

/-! ### The elapse of a step interval (R75, R76) -/

/-- The one index that a predicate picks, of all in order. -/
theorem filter_finRange_eq_singleton {n : Nat} {f : Fin n → Bool} {i : Fin n} (picked : f i = true)
    (others : ∀ j, j ≠ i → f j = false) : (List.finRange n).filter f = [i] := by
  have same : (List.finRange n).filter f = (List.finRange n).filter (· == i) := by
    refine List.filter_congr fun j _ => ?_
    by_cases is : j = i
    · simp [is, picked]
    · simp [is, others j is]
  rw [same, List.filter_beq, List.count_eq_one_of_mem (List.nodup_finRange n) (List.mem_finRange i)]
  rfl

theorem joinable_elapsed {c : Tables} {p : Dyn} {g : GateId} (h : joinable c p g = true) :
    stepIntervalElapsed c p g = true := by
  simp only [joinable, Bool.and_eq_true] at h
  exact h.1.1.2

theorem stepIntervalElapsed_body {s : State} {g : GateId} (empty : s.dyn.queue = [])
    (joins : joinable s.tables s.dyn g = true)
    (first : ∀ h : GateId, h.val < g.val → joinable s.tables s.dyn h = false) :
    joinAndScan s.tables (fun i => decide (i.val ≤ g.val)) false (counted s) =
      scan s.tables { counted s with queue := [g] } := by
  have only : (List.finRange 48).filter (fun h => decide (h.val ≤ g.val) && joinable s.tables (counted s) h) = [g] := by
    refine filter_finRange_eq_singleton ?_ fun h other => ?_
    · have may : joinable s.tables (counted s) g = true := joins
      simp [may]
    · obtain before | after := Nat.lt_or_gt_of_ne (fun same => other (Fin.ext same) : h.val ≠ g.val)
      · have may : joinable s.tables (counted s) h = false := first h before
        simp [may]
      · have late : ¬ h.val ≤ g.val := by omega
        simp [late]
  rw [joinAndScan_one only]
  simp [counted, empty]

theorem settled_of_stepIntervalElapsed {s : State} {g : GateId} (idle : PortIdle s) (empty : s.dyn.queue = [])
    (joins : joinable s.tables s.dyn g = true)
    (first : ∀ h : GateId, h.val < g.val → joinable s.tables s.dyn h = false) :
    ∃ t, exec (.stepIntervalElapsed g) s = .next t ∧ t.tables = s.tables ∧
      Settled s t (scan s.tables { counted s with queue := [g] }) := by
  have body := stepIntervalElapsed_body empty joins first
  have course : Course s.tables (counted s)
      (joinAndScan s.tables (fun i => decide (i.val ≤ g.val)) false (counted s)) := joinAndScan_course _ _ _
  obtain ⟨t, next, tables, settled⟩ := settled_of_inEventIf (i := .stepIntervalElapsed g)
    (due := fun c p => stepIntervalElapsed c p g)
    (f := fun c => joinAndScan c (fun i => decide (i.val ≤ g.val)) false) idle rfl (joinable_elapsed joins) course
  exact ⟨t, next, tables, body ▸ settled⟩

/-- Settles O13: the gate alone in the queue is granted its step, or waits there. -/
theorem stepIntervalElapsedStartsAStep : Obligations.StepIntervalElapsedStartsAStep := by
  intro s g idle empty joins first passes
  obtain ⟨t, next, tables, settled⟩ := settled_of_stepIntervalElapsed idle empty joins first
  rw [scan_alone (p := { counted s with queue := [g] }) rfl passes] at settled
  have eligibleSame : eligible s.tables { counted s with queue := [g] } g = eligible s.tables s.dyn g := rfl
  rw [eligibleSame] at settled
  by_cases takes : eligible s.tables s.dyn g = true
  · rw [if_pos takes] at settled
    obtain ⟨-, controls, buffer, lost, -⟩ := around_fields (grant_around s.tables g { counted s with queue := [g] })
    obtain ⟨totals, reaches⟩ := rivers_fields (grant_rivers s.tables g { counted s with queue := [g] })
    have setting : (grant s.tables g { counted s with queue := [g] }).setting = s.dyn.setting := grant_setting _ _ _
    obtain ⟨-, -, -, -, -, -, -, -, -, hand, answer, -⟩ :=
      still_fields (grant_still s.tables g { counted s with queue := [g] })
    have gates (h : GateId) := (congrArg (Vector.get · h) settled.gates).trans (grant_get s.tables g _ h)
    refine ⟨t, next, tables, settled.store, settled.surroundings setting, settled.sameControl controls,
      settled.bus hand answer, settled.logKept buffer lost setting, settled.totals.trans totals,
      settled.reaches.trans reaches, fun h other => (gates h).trans (if_neg other), ?_⟩
    rw [if_pos takes]
    refine ⟨settled.queue.trans (by simp [grant_queue]), ?_, fun d => ?_⟩
    · rw [gates g, if_pos rfl]
      exact Gate.stepped_spec _ _ _ _
    · rw [settled.dams]
      exact grant_dam s.tables g { counted s with queue := [g] } d
  · rw [if_neg takes] at settled
    have setting : Dyn.setting { counted s with queue := [g] } = s.dyn.setting := rfl
    refine ⟨t, next, tables, settled.store, settled.surroundings setting, settled.sameControl rfl,
      settled.bus rfl rfl, settled.logKept rfl rfl setting, settled.totals, settled.reaches,
      fun h _ => congrArg (Vector.get · h) settled.gates, ?_⟩
    rw [if_neg takes]
    exact ⟨settled.queue, congrArg (Vector.get · g) settled.gates, settled.dams⟩

/-! ### A gate held alone -/

/-- A command that holds the gate alone in the queue by INTERLOCK, from a state p that differs from s in that gate and the
queue alone. -/
theorem OnlyEventsBeside.of_lostAlone {s t : State} {p q : Dyn} {g : GateId} {k : CondId}
    (lost : LostAlone s.tables p g k q) {q' : Dyn} (settled : Settled s t q') (tables : t.tables = s.tables)
    (course : Course s.tables p q') (setting : q'.setting = s.dyn.setting) (same : q'.dams = q.dams ∧ q'.reaches = q.reaches ∧ q'.queue = q.queue)
    (controls : p.controls = s.dyn.controls) (dams : p.dams = s.dyn.dams) (rivers : p.rivers = s.dyn.rivers) :
    OnlyEventsBeside s t := by
  obtain ⟨sameDams, sameReaches, sameQueue⟩ := same
  have reaches : q.reaches = s.dyn.reaches := (rivers_fields (lost.rivers.trans rivers)).2
  refine onlyEventsBeside_of_course settled tables course setting controls (fun d => by rw [dams]) (fun d => ?_)
    (fun r => ⟨(s.dyn.reaches.get r).exceeded, by rw [sameReaches, reaches]⟩)
    (boundsReported_of_reaches ((settled.reaches.trans sameReaches).trans reaches)) ?_
  · rw [sameDams, ← dams]
    exact lost.dams d
  · rw [sameQueue, lost.queue]
    exact List.nil_sublist _

/-- Settles O14: the gate alone in the queue is held, and its event taken to the links. -/
theorem falseInterlockHoldsTheGate : Obligations.FalseInterlockHoldsTheGate := by
  intro s g k idle empty joins first takes fails
  obtain ⟨t, next, tables, settled⟩ := settled_of_stepIntervalElapsed idle empty joins first
  have lost : LostAlone s.tables { counted s with queue := [g] } g k (scan s.tables { counted s with queue := [g] }) :=
    scan_lostAlone rfl (joinable_run joins).2 takes fails
  obtain ⟨totals, -⟩ := rivers_fields lost.rivers
  obtain ⟨-, -, -, -, -, -, -, -, -, hand, answer, -⟩ := still_fields lost.course.still
  have gates (h : GateId) : t.dyn.gates.get h = _ := congrArg (Vector.get · h) settled.gates
  refine ⟨t, next, ?_, fun h other => ?_, settled.bus hand answer, ?_, settled.queue.trans lost.queue,
    settled.totals.trans totals, settled.recorded lost.recorded, ?_⟩
  · exact .of_lostAlone lost settled tables lost.course ((setting_of_still lost.course.still).trans rfl) ⟨rfl, rfl, rfl⟩ rfl rfl rfl
  · rw [gates h]
    exact lost.others h other
  · rw [gates g]
    exact lost.own
  · rw [tables]
    exact settled.linksActed lost.acted

/-! ### A TICK arrival with nothing due (R82) -/

theorem countArrival_eligible (s : State) (g : GateId) :
    eligible s.tables (countArrival (counted s)) g = eligible s.tables { s.dyn with tick := s.dyn.tick + 1 } g := by
  refine eligible_congr rfl (fun d => ?_) ?_ ?_
  · funext dir
    simp only [countArrival, Table.tab_get]
    cases dir <;> rfl
  · simp only [countArrival, Table.tab_get]
    rfl
  · simp only [countArrival, Table.tab_get]
    rfl

theorem countArrival_get (s : State) (g : GateId) :
    (countArrival (counted s)).gates.get g = (s.dyn.gates.get g).counted := Table.tab_get _ _

theorem tickArrival_scans {c : Tables} {p : Dyn} {g : GateId} (alone : p.queue = [g]) :
    tickArrival c p = scan c (countArrival p) := by
  have some : ¬ (countArrival p).queue.isEmpty = true := by
    show ¬ p.queue.isEmpty = true
    simp [alone]
  rw [tickArrival, if_neg some]

theorem settled_of_tick {s : State} {q : Dyn} (idle : PortIdle s) (nothing : NothingDue s)
    (arrival : tickArrival s.tables (counted s) = q) (course : Course s.tables (countArrival (counted s)) q) :
    ∃ t, exec .tick s = .next t ∧ t.tables = s.tables ∧ Settled s t q := by
  obtain ⟨-, -, -, -, -, -, -, -, -, -, -, -, -, -, -, -, free⟩ := still_fields course.still
  refine ⟨_, exec_tick_idle nothing, rfl, ?_⟩
  rw [arrival]
  exact .of_arbitrate idle free (noRefreshWaits_of_course (p := countArrival (counted s)) idle rfl rfl rfl course)

/-- A TICK arrival at a queue of distinct gates is a scan as the claims state it. -/
theorem tickArrival_scanned (c : Tables) {p : Dyn} (distinct : p.queue.Nodup) :
    ∃ q lost, Scanned c (countArrival p) lost q ∧ tickArrival c p = offerLost c lost q := by
  unfold tickArrival
  dsimp only
  split
  case isTrue empty =>
    refine ⟨_, [], .done _ fun g listed => ?_, rfl⟩
    rw [List.isEmpty_iff.mp empty] at listed
    cases listed
  case isFalse => exact scan_scanned c (p := countArrival p) distinct

/-- Settles O7: the arrival counts and then scans; with one gate in the queue the scan is a step, a hold or nothing. -/
theorem tickScansTheQueue : Obligations.TickScansTheQueue := by
  refine ⟨fun s _ nothing sound => ?scanned, fun s g idle nothing alone _ passes => ?granted,
    fun s g k idle nothing alone moving takes fails => ?lost⟩
  case scanned =>
    obtain ⟨q, lost, scanned, ends⟩ := tickArrival_scanned s.tables (p := counted s) sound.queueOk.distinct
    refine ⟨q, lost, scanned, ?_⟩
    rw [← ends]
    obtain ⟨-, -, -, -, -, -, -, -, -, -, -, -, -, -, -, -, free⟩ := still_fields (tickArrival_still s.tables (counted s))
    exact gives_of_arbitrate (exec_tick_idle nothing) free
  case granted =>
    have fields := countArrival_get s g
    have passes1 : falseCondition s.tables (countArrival (counted s)).statusWords g
        (directionTo ((countArrival (counted s)).gates.get g).command ((countArrival (counted s)).gates.get g).target) =
          none := by
      rw [fields]
      exact passes
    have arrival := (tickArrival_scans (c := s.tables) (p := counted s) alone).trans
      (scan_alone (p := countArrival (counted s)) alone passes1)
    rw [countArrival_eligible] at arrival
    by_cases takes : eligible s.tables { s.dyn with tick := s.dyn.tick + 1 } g = true
    · rw [if_pos takes] at arrival
      have around := grant_around s.tables g (countArrival (counted s))
      obtain ⟨t, next, tables, settled⟩ := settled_of_tick idle nothing arrival (.of_around around)
      obtain ⟨still, controls, buffer, lost, -⟩ := around_fields around
      obtain ⟨-, -, -, -, -, -, logWrite, logRead, -, hand, answer, -, -, -, tick, -⟩ := still_fields still
      obtain ⟨totals, -⟩ := rivers_fields (grant_rivers s.tables g (countArrival (counted s)))
      have gates (h : GateId) := (congrArg (Vector.get · h) settled.gates).trans (grant_get s.tables g _ h)
      refine ⟨t, next, tables, settled.store, settled.tick.trans tick, settled.totals.trans totals,
        settled.sameControl controls, settled.bus hand answer,
        ⟨settled.logBuffer buffer logWrite logRead, settled.port.logLost.trans lost⟩, fun h other => ?_, ?_⟩
      · rw [gates h, if_neg other]
        exact countArrival_get s h
      · rw [if_pos takes]
        refine ⟨settled.queue.trans ?_, ?_, fun d own => ?_⟩
        · rw [grant_queue]
          show s.dyn.queue.filter _ = []
          simp [alone]
        · rw [gates g, if_pos rfl, fields]
          exact Gate.stepped_spec _ _ _ _
        · have recorded := grant_dam s.tables g (countArrival (counted s)) d
          rw [if_pos own, fields] at recorded
          rw [settled.dams]
          exact recorded.1
    · rw [if_neg takes] at arrival
      obtain ⟨t, next, tables, settled⟩ := settled_of_tick idle nothing arrival (.refl _ _)
      refine ⟨t, next, tables, settled.store, settled.tick, settled.totals, settled.sameControl rfl, settled.bus rfl rfl,
        ⟨settled.logBuffer rfl rfl rfl, settled.port.logLost⟩, fun h _ => ?_, ?_⟩
      · rw [settled.gates]
        exact countArrival_get s h
      · rw [if_neg takes]
        refine ⟨settled.queue.trans alone, ?_⟩
        rw [settled.gates]
        exact countArrival_get s g
  case lost =>
    have fields := countArrival_get s g
    have lost : LostAlone s.tables (countArrival (counted s)) g k (scan s.tables (countArrival (counted s))) := by
      refine scan_lostAlone alone ?_ ?_ ?_
      · rw [fields]
        exact moving
      · rw [countArrival_eligible]
        exact takes
      · rw [fields]
        exact fails
    obtain ⟨t, next, tables, settled⟩ :=
      settled_of_tick idle nothing (tickArrival_scans (c := s.tables) (p := counted s) alone) lost.course
    obtain ⟨-, -, -, -, -, -, -, -, -, hand, answer, -, -, -, tick, -⟩ := still_fields lost.course.still
    obtain ⟨totals, -⟩ := rivers_fields lost.rivers
    have gates (h : GateId) : t.dyn.gates.get h = _ := congrArg (Vector.get · h) settled.gates
    refine ⟨t, next, tables, settled.store, settled.tick.trans tick, settled.totals.trans totals,
      settled.queue.trans lost.queue, settled.controlByLinks lost.course rfl rfl, settled.bus hand answer,
      fun h other => ?_, ?_, ?_, ?_⟩
    · rw [gates h, ← countArrival_get]
      exact lost.others h other
    · have own := lost.own
      rw [fields] at own
      rw [gates g]
      exact own
    · have recorded := lost.recorded
      rw [fields] at recorded
      exact settled.recorded recorded
    · rw [tables]
      exact settled.linksActed lost.acted

end Sys2Proof.Machine
end

section
/-! The expiry of the refresh interval timer, mode by mode (R113, R115, R117); O12. -/

namespace Sys2Proof.Machine

/-- The state with the refresh interval timer restarted. -/
def restarted (c : Tables) (p : Dyn) : Dyn := { p with refreshTimer := .running c.refreshInterval.toNat }

section Expiry

variable {c : Tables} {p : Dyn}

theorem refreshExpires_run (run : p.mode = .run) : refreshExpires c p = runExpiry c (restarted c p) := by
  unfold refreshExpires
  dsimp only
  split
  case h_1 => rfl
  case h_2 mode => exact absurd (run.symm.trans mode) (by simp)
  case h_3 mode => exact absurd (run.symm.trans mode) (by simp)
  case h_4 mode => exact absurd (run.symm.trans mode) (by simp)

theorem refreshExpires_idle (h : p.mode = .config ∨ p.mode = .exiting) : refreshExpires c p = restarted c p := by
  obtain h | h := h <;> simp only [refreshExpires, restarted, h]

theorem refreshExpires_hold (hold : p.mode = .hold) : refreshExpires c p =
    if p.offer.isSome || holdRefreshRunning p then restarted c p
    else { restarted c p with offer := keptDam c p } := by
  unfold refreshExpires
  dsimp only
  split
  case h_2 => rfl
  case h_1 mode => exact absurd (hold.symm.trans mode) (by simp)
  case h_3 mode => exact absurd (hold.symm.trans mode) (by simp)
  case h_4 mode => exact absurd (hold.symm.trans mode) (by simp)

theorem refreshExpires_owed (run : p.mode = .run) (owed : p.debt < 7) : refreshExpires c p =
    { restarted c p with
      debt := p.debt + 1
      summaryMark := some (p.summaryMark.getD p.moment)
      offer :=
        if p.offer = none ∧ refreshRunning p = false ∧ -3 ≤ p.debt + 1 then some p.pointer else p.offer } := by
  have below : ¬ 7 ≤ p.debt := Int.not_le.mpr owed
  have running : refreshRunning (markSummary { restarted c p with debt := p.debt + 1 }) = refreshRunning p := rfl
  rw [refreshExpires_run run, runExpiry, if_neg (show ¬ 7 ≤ (restarted c p).debt from below)]
  change offerRun (markSummary { restarted c p with debt := p.debt + 1 }) = _
  rw [offerRun, running]
  by_cases offers : p.offer = none ∧ refreshRunning p = false ∧ -3 ≤ p.debt + 1
  · obtain ⟨none, free, due⟩ := offers
    simp [markSummary, restarted, setMark_eq, run, none, free, due]
  · rw [if_neg offers, if_neg]
    · simp [markSummary, restarted, setMark_eq, run]
    · intro made
      simp only [Bool.and_eq_true, beq_iff_eq, Option.isNone_iff_eq_none, Bool.not_eq_true', decide_eq_true_eq] at made
      obtain ⟨⟨⟨-, none⟩, free⟩, due⟩ := made
      exact offers ⟨none, free, due⟩

theorem refreshExpires_overrun (run : p.mode = .run) (full : p.debt = 7) :
    refreshExpires c p = raise c (overrunEvent (restarted c p)) (restarted c p) := by
  rw [refreshExpires_run run]
  exact if_pos full.ge

end Expiry

theorem exec_refreshIntervalExpiry {s : State} (due : s.dyn.refreshTimer = .running 0) :
    exec .refreshIntervalExpiry s = .next { s with
      dyn := arbitrate s.tables s.dyn.running.isNone (refreshExpires s.tables (counted s)) } := by
  have isDue : refreshDue s.tables s.dyn = true := by simp [refreshDue, Timer.due, due]
  have row : exec .refreshIntervalExpiry s = .next (inEventIf refreshDue refreshExpires s) := rfl
  rw [row, inEventIf, if_pos isDue]
  rfl

/-- An expiry at debt 7: the timer restarted, and REFRESH_OVERRUN raised (R115). -/
theorem settled_of_overrun {s : State} (idle : PortIdle s) (due : s.dyn.refreshTimer = .running 0)
    (run : s.dyn.mode = .run) (full : s.dyn.debt = 7) :
    ∃ t, exec .refreshIntervalExpiry s = .next t ∧ t.tables = s.tables ∧
      Settled s t (raise s.tables (overrunEvent (restarted s.tables (counted s))) (restarted s.tables (counted s))) := by
  have course := (raise_growth s.tables (overrunEvent (restarted s.tables (counted s)))
    (restarted s.tables (counted s))).course
  obtain ⟨-, -, -, -, -, -, -, -, -, -, -, -, -, -, -, -, free⟩ := still_fields course.still
  refine ⟨_, exec_refreshIntervalExpiry due, rfl, ?_⟩
  rw [refreshExpires_overrun (p := counted s) run full]
  exact .of_arbitrate idle free
    (noRefreshWaits_of_course (p := restarted s.tables (counted s)) idle rfl rfl rfl course)

end Sys2Proof.Machine

namespace Sys2Proof

open Machine

/-- Settles O12: the timer is restarted in every mode, and the mode says the rest. -/
theorem refreshIntervalExpiry : Obligations.RefreshIntervalExpiry := by
  have quiet {s : State} (idle : PortIdle s) (due : s.dyn.refreshTimer = .running 0)
      (effect : refreshExpires s.tables (counted s) = restarted s.tables (counted s)) :
      exec .refreshIntervalExpiry s = .next { s with dyn := restarted s.tables (counted s) } := by
    have waits : (restarted s.tables (counted s)).running = none → noJobWaits (restarted s.tables (counted s)) = true :=
      idle
    rw [exec_refreshIntervalExpiry due, effect, arbitrate_of_noJobWaits waits]
  refine ⟨fun s idle due => ⟨fun mode => ?idle, fun hold busy => ?busy, fun hold noOffer free => ?kept⟩,
    fun s idle due run => ⟨fun owed => ?owed, fun full => ?overrun⟩⟩
  case idle => exact quiet idle due (refreshExpires_idle (p := counted s) mode)
  case busy =>
    refine quiet idle due ((refreshExpires_hold (p := counted s) hold).trans (if_pos ?_))
    exact Bool.or_eq_true_iff.mpr busy
  case kept =>
    have effect := refreshExpires_hold (c := s.tables) (p := counted s) hold
    have none : ¬ ((counted s).offer.isSome || holdRefreshRunning (counted s)) = true := by
      have same : holdRefreshRunning (counted s) = false := free
      have offer : (counted s).offer = none := noOffer
      simp [same, offer]
    rw [if_neg none] at effect
    exact gives_of_arbitrate ((exec_refreshIntervalExpiry due).trans (by rw [effect]; rfl)) rfl
  case owed =>
    have effect := refreshExpires_owed (c := s.tables) (p := counted s) run owed
    have gives : Gives .refreshIntervalExpiry s s.tables
        { restarted s.tables (counted s) with
          debt := s.dyn.debt + 1
          summaryMark := some (s.dyn.summaryMark.getD (s.dyn.moment + 1))
          offer :=
            if s.dyn.offer = none ∧ refreshRunning s.dyn = false ∧ -3 ≤ s.dyn.debt + 1 then some s.dyn.pointer
            else s.dyn.offer } :=
      gives_of_arbitrate ((exec_refreshIntervalExpiry due).trans (by rw [effect]; rfl)) rfl
    cases mark : s.dyn.summaryMark with
    | none =>
      rw [mark] at gives
      exact gives
    | some m =>
      rw [mark] at gives
      exact gives
  case overrun =>
    obtain ⟨t, next, tables, settled⟩ := settled_of_overrun idle due run full
    have growth := raise_growth s.tables (overrunEvent (restarted s.tables (counted s))) (restarted s.tables (counted s))
    have frame := growth.frame
    have course := growth.course
    obtain ⟨-, -, -, -, -, -, -, -, -, hand, answer, -⟩ := still_fields course.still
    obtain ⟨totals, reaches⟩ := rivers_fields (raise_rivers s.tables (overrunEvent (restarted s.tables (counted s)))
      (restarted s.tables (counted s)))
    have gates (h : GateId) : t.dyn.gates.get h = _ := congrArg (Vector.get · h) settled.gates
    have later : Settled
        { s with dyn := { s.dyn with refreshTimer := .running s.tables.refreshInterval.toNat } } t _ :=
      ⟨idle, settled.store, settled.granted, settled.free, settled.noRefresh⟩
    refine ⟨t, next, ?_, settled.bus hand answer, settled.recorded ?_, ?_, settled.totals.trans totals,
      settled.reaches.trans reaches, fun h => ?_⟩
    · exact onlyEventsBeside_of_course later tables course ((setting_of_still course.still).trans rfl) rfl
        (fun _ => rfl) frame.dams frame.reaches (boundsReported_of_reaches (settled.reaches.trans reaches)) frame.queue
    · exact (formRecord_recorded _ _).mono (offerLinks_frame s.tables _ _ _)
    · exact settled.linksActed (offerLinks_acted s.tables _ _ _)
    · rw [gates h]
      exact frame.gates h

end Sys2Proof
end

section
/-! The arbiter's choice among the jobs that wait, and what the grant of each does (Table 8-1, R114, R136 to R138, R154);
O47. -/

namespace Sys2Proof.Machine

/-! ### The first of several classes -/

theorem head?_reduceOption_cons {α : Type} (x : Option α) (l : List (Option α)) :
    (x :: l).reduceOption.head? = x.or l.reduceOption.head? := by
  cases x with
  | none => rw [List.reduceOption_cons_of_none, Option.none_or]
  | some a => rw [List.reduceOption_cons_of_some, List.head?_cons, Option.some_or]

theorem waitingHeads_head? (p : Dyn) : (waitingHeads p).head? =
    (refreshAt 1 p).or ((waitingTransaction p).or (((oldestMark p.slotMarks).map fun x => Waiting.slot x.1).or
      ((waitingPortal p).or ((waitingRecord p).or ((oldestMirror p).or ((refreshAt 7 p).or (refreshAt 8 p))))))) := by
  simp only [waitingHeads, head?_reduceOption_cons]
  simp

/-! ### The oldest mark (R137) -/

section Marks

variable {α : Type}

theorem olderMark_none (x : Option (α × Nat)) : olderMark x none = x := by
  cases x <;> rfl

theorem none_olderMark (x : Option (α × Nat)) : olderMark none x = x := rfl

theorem olderMark_of_le {a : α × Nat} {y : Option (α × Nat)} (le : ∀ b, y = some b → a.2 ≤ b.2) :
    olderMark (some a) y = some a := by
  cases y with
  | none => rfl
  | some b => exact if_neg (Nat.not_lt.mpr (le b rfl))

theorem olderMark_of_lt {x : Option (α × Nat)} {b : α × Nat} (lt : ∀ a, x = some a → b.2 < a.2) :
    olderMark x (some b) = some b := by
  cases x with
  | none => rfl
  | some a => exact if_pos (lt a rfl)

end Marks

section Oldest

variable {n : Nat} {marks : Vector (Option Nat) n}

/-- The fold of the oldest mark over some of the indexes. -/
def oldestAmong (marks : Vector (Option Nat) n) (l : List (Fin n)) (best : Option (Fin n × Nat)) : Option (Fin n × Nat) :=
  l.foldl (fun best i => olderMark best ((marks.get i).map fun t => (i, t))) best

theorem oldestAmong_mark (l : List (Fin n)) {best : Option (Fin n × Nat)} {i : Fin n} {t : Nat}
    (known : ∀ j u, best = some (j, u) → marks.get j = some u) (h : oldestAmong marks l best = some (i, t)) :
    marks.get i = some t := by
  induction l generalizing best with
  | nil => exact known i t h
  | cons j l ih =>
    refine ih (fun k u found => ?_) h
    obtain same | same := olderMark_eq found
    · exact known k u same
    · obtain ⟨v, mark, made⟩ := Option.map_eq_some_iff.mp same
      cases made
      exact mark

/-- A mark that the arbiter holds oldest stands. -/
theorem oldestMark_mark {i : Fin n} {t : Nat} (h : oldestMark marks = some (i, t)) : marks.get i = some t :=
  oldestAmong_mark (List.finRange n) (best := none) (fun _ _ found => nomatch found) h

theorem oldestAmong_later (l : List (Fin n)) {best : Option (Fin n × Nat)} {m : Nat}
    (start : ∀ a, best = some a → m < a.2) (later : ∀ i ∈ l, ∀ t, marks.get i = some t → m < t) :
    ∀ a, oldestAmong marks l best = some a → m < a.2 := by
  induction l generalizing best with
  | nil => exact start
  | cons j l ih =>
    refine ih (fun a found => ?_) fun i listed => later i (List.mem_cons_of_mem j listed)
    obtain same | same := olderMark_eq found
    · exact start a same
    · obtain ⟨t, mark, rfl⟩ := Option.map_eq_some_iff.mp same
      exact later j List.mem_cons_self t mark

theorem oldestAmong_kept (l : List (Fin n)) {i : Fin n} {m : Nat} (notOlder : ∀ j ∈ l, ∀ t, marks.get j = some t → m ≤ t) :
    oldestAmong marks l (some (i, m)) = some (i, m) := by
  induction l with
  | nil => rfl
  | cons j l ih =>
    have kept : olderMark (some (i, m)) ((marks.get j).map fun t => (j, t)) = some (i, m) := by
      refine olderMark_of_le fun b found => ?_
      obtain ⟨t, mark, rfl⟩ := Option.map_eq_some_iff.mp found
      exact notOlder j List.mem_cons_self t mark
    rw [oldestAmong, List.foldl_cons, kept]
    exact ih fun j listed => notOlder j (List.mem_cons_of_mem _ listed)

/-- The mark set longest ago, the lowest index among marks of one moment, is the one that the arbiter takes. -/
theorem oldestMark_eq {i : Fin n} {m : Nat} (mark : marks.get i = some m)
    (oldest : ∀ j t, marks.get j = some t → m < t ∨ (m = t ∧ i.val ≤ j.val)) : oldestMark marks = some (i, m) := by
  obtain ⟨before, after, split⟩ := List.append_of_mem (List.mem_finRange i)
  have sorted : (before ++ i :: after).Pairwise (· < ·) := split ▸ List.pairwise_lt_finRange n
  obtain ⟨-, -, apart⟩ := List.pairwise_append.mp sorted
  have first : ∀ a, oldestAmong marks before none = some a → m < a.2 := by
    refine oldestAmong_later before (fun _ found => nomatch found) fun j listed t found => ?_
    have below : j < i := apart j listed i List.mem_cons_self
    obtain later | ⟨-, above⟩ := oldest j t found
    · exact later
    · exact absurd below (Nat.not_lt.mpr above)
  have folded : oldestMark marks = oldestAmong marks (before ++ i :: after) none := by
    rw [← split]
    rfl
  have own : olderMark (oldestAmong marks before none) ((marks.get i).map fun t => (i, t)) = some (i, m) := by
    rw [mark]
    exact olderMark_of_lt first
  rw [folded, oldestAmong, List.foldl_append, List.foldl_cons]
  refine (congrArg (oldestAmong marks after) own).trans (oldestAmong_kept after fun j _ t found => ?_)
  obtain later | ⟨same, -⟩ := oldest j t found
  · exact later.le
  · exact same.le

theorem oldestMark_none (clear : ∀ i, marks.get i = none) : oldestMark marks = none := by
  cases found : oldestMark marks with
  | none => rfl
  | some x =>
    obtain ⟨i, t⟩ := x
    exact absurd ((clear i).symm.trans (oldestMark_mark found)) (by simp)

end Oldest

/-! ### The oldest mirror -/

section Mirror

variable {p : Dyn}

theorem gateWaiting_mark {a : Waiting × Nat}
    (h : (oldestMark p.gateMirrorMarks).map (fun x => (Waiting.gateMirror x.1, x.2)) = some a) :
    ∃ g, p.gateMirrorMarks.get g = some a.2 := by
  obtain ⟨⟨g, t⟩, oldest, rfl⟩ := Option.map_eq_some_iff.mp h
  exact ⟨g, oldestMark_mark oldest⟩

theorem reachWaiting_mark {a : Waiting × Nat}
    (h : (oldestMark p.reachMirrorMarks).map (fun x => (Waiting.reachMirror x.1, x.2)) = some a) :
    ∃ r, p.reachMirrorMarks.get r = some a.2 := by
  obtain ⟨⟨r, t⟩, oldest, rfl⟩ := Option.map_eq_some_iff.mp h
  exact ⟨r, oldestMark_mark oldest⟩

theorem summaryWaiting_mark {a : Waiting × Nat} (h : p.summaryMark.map (fun t => (Waiting.summary, t)) = some a) :
    p.summaryMark = some a.2 := by
  obtain ⟨t, mark, rfl⟩ := Option.map_eq_some_iff.mp h
  exact mark

theorem oldestMirror_gate {g : GateId} {m : Nat} (mark : p.gateMirrorMarks.get g = some m)
    (oldest : ∀ h n, p.gateMirrorMarks.get h = some n → m < n ∨ (m = n ∧ g.val ≤ h.val))
    (reach : ∀ r n, p.reachMirrorMarks.get r = some n → m ≤ n) (summary : ∀ n, p.summaryMark = some n → m ≤ n) :
    oldestMirror p = some (.gateMirror g) := by
  unfold oldestMirror
  dsimp only
  rw [oldestMark_eq mark oldest, Option.map_some, olderMark_of_le fun b found => ?_, olderMark_of_le fun b found => ?_,
    Option.map_some]
  · exact summary _ (summaryWaiting_mark found)
  · obtain ⟨r, mark⟩ := reachWaiting_mark found
    exact reach r _ mark

theorem oldestMirror_reach {r : ReachId} {m : Nat} (mark : p.reachMirrorMarks.get r = some m)
    (gate : ∀ h n, p.gateMirrorMarks.get h = some n → m < n)
    (oldest : ∀ x n, p.reachMirrorMarks.get x = some n → m < n ∨ (m = n ∧ r.val ≤ x.val))
    (summary : ∀ n, p.summaryMark = some n → m ≤ n) : oldestMirror p = some (.reachMirror r) := by
  unfold oldestMirror
  dsimp only
  rw [oldestMark_eq mark oldest, Option.map_some, olderMark_of_lt fun b found => ?_, olderMark_of_le fun b found => ?_,
    Option.map_some]
  · exact summary _ (summaryWaiting_mark found)
  · obtain ⟨g, mark⟩ := gateWaiting_mark found
    exact gate g _ mark

theorem oldestMirror_summary {m : Nat} (mark : p.summaryMark = some m)
    (gate : ∀ h n, p.gateMirrorMarks.get h = some n → m < n)
    (reach : ∀ x n, p.reachMirrorMarks.get x = some n → m < n) : oldestMirror p = some .summary := by
  unfold oldestMirror
  dsimp only
  rw [mark, Option.map_some, olderMark_of_lt fun b found => ?_, Option.map_some]
  obtain found | found := olderMark_eq found
  · obtain ⟨g, mark⟩ := gateWaiting_mark found
    exact gate g _ mark
  · obtain ⟨r, mark⟩ := reachWaiting_mark found
    exact reach r _ mark

theorem oldestMirror_none (gate : ∀ g, p.gateMirrorMarks.get g = none) (reach : ∀ r, p.reachMirrorMarks.get r = none)
    (summary : p.summaryMark = none) : oldestMirror p = none := by
  unfold oldestMirror
  rw [oldestMark_none gate, oldestMark_none reach, summary]
  rfl

end Mirror

/-! ### The highest class -/

section Classes

variable {p : Dyn} {w : Waiting}

theorem refreshAt_one_offered {d : DamId} (offer : p.offer = some d)
    (forced : p.mode = .hold ∨ p.mode = .exiting ∨ (p.mode = .run ∧ 5 ≤ p.debt)) : refreshAt 1 p = some (.refresh d) := by
  have standing : refreshClass p = some 1 := by
    obtain hold | exiting | ⟨run, debt⟩ := forced
    · simp only [refreshClass, hold]
    · simp only [refreshClass, exiting]
    · simp only [refreshClass, run, if_pos debt]
  simp only [refreshAt, offer, standing, if_true]

theorem refreshAt_one_none (h : p.offer = none ∨ p.mode = .config ∨ (p.mode = .run ∧ p.debt < 5)) :
    refreshAt 1 p = none := by
  have notForced : p.offer = none ∨ refreshClass p ≠ some 1 := by
    obtain none | config | ⟨run, debt⟩ := h
    · exact .inl none
    · exact .inr (by simp [refreshClass, config])
    · refine .inr ?_
      simp only [refreshClass, run, if_neg (Int.not_le.mpr debt)]
      split
      · simp
      · split <;> simp
  unfold refreshAt
  split
  case h_1 offer =>
    obtain none | other := notForced
    · exact absurd (none.symm.trans offer) (by simp)
    · exact if_neg other
  case h_2 => rfl

/-- A refresh that waits in a class of its own is the one offered. -/
theorem refreshAt_offered {k : Nat} {d : DamId} (offer : p.offer = some d) (h : refreshAt k p = some w) :
    w = .refresh d := by
  simp only [refreshAt, offer] at h
  split at h
  · exact (Option.some.inj h).symm
  · cases h

theorem head?_of_forced {d : DamId} (offer : p.offer = some d)
    (forced : p.mode = .hold ∨ p.mode = .exiting ∨ (p.mode = .run ∧ 5 ≤ p.debt)) :
    (waitingHeads p).head? = some (.refresh d) := by
  rw [waitingHeads_head?, refreshAt_one_offered offer forced, Option.some_or]

section NotForced

variable (notForced : p.offer = none ∨ p.mode = .config ∨ (p.mode = .run ∧ p.debt < 5))
include notForced

theorem head?_of_hand {t : Transaction} (hand : p.hand = some t) : (waitingHeads p).head? = some (.forwarded t) := by
  rw [waitingHeads_head?, refreshAt_one_none notForced, waitingTransaction, hand]
  rfl

variable (hand : p.hand = none)
include hand

theorem head?_of_slot {g : GateId} {m : Nat} (mark : p.slotMarks.get g = some m)
    (oldest : ∀ h n, p.slotMarks.get h = some n → m < n ∨ (m = n ∧ g.val ≤ h.val)) :
    (waitingHeads p).head? = some (.slot g) := by
  rw [waitingHeads_head?, refreshAt_one_none notForced, waitingTransaction, hand, oldestMark_eq mark oldest]
  rfl

variable (slots : ∀ g, p.slotMarks.get g = none)
include slots

theorem head?_of_portal {j : PortalJob} {js : List PortalJob} (jobs : p.portalJobs = j :: js) :
    (waitingHeads p).head? = some (.portal j js) := by
  rw [waitingHeads_head?, refreshAt_one_none notForced, waitingTransaction, hand, oldestMark_none slots, waitingPortal, jobs]
  rfl

variable (jobs : p.portalJobs = [])
include jobs

theorem head?_of_record {r : LogRecord} {rs : List LogRecord} (buffer : p.logBuffer = r :: rs)
    (room : p.logWrite + 1 ≠ p.logRead) : (waitingHeads p).head? = some (.log r rs) := by
  rw [waitingHeads_head?, refreshAt_one_none notForced, waitingTransaction, hand, oldestMark_none slots, waitingPortal, jobs,
    waitingRecord, buffer]
  simp only [if_neg room]
  rfl

omit notForced hand slots jobs in
theorem waitingRecord_none (noRecord : p.logBuffer = [] ∨ p.logWrite + 1 = p.logRead) : waitingRecord p = none := by
  unfold waitingRecord
  obtain none | full := noRecord
  · rw [none]
  · split
    · rfl
    · exact if_pos full

variable (noRecord : p.logBuffer = [] ∨ p.logWrite + 1 = p.logRead)
include noRecord

/-- With nothing in the classes above, the mirrors' oldest mark and then the refreshes of class 7 and 8 are left. -/
theorem head?_of_low : (waitingHeads p).head? = (oldestMirror p).or ((refreshAt 7 p).or (refreshAt 8 p)) := by
  rw [waitingHeads_head?, refreshAt_one_none notForced, waitingTransaction, hand, oldestMark_none slots, waitingPortal, jobs,
    waitingRecord_none noRecord]
  rfl

theorem head?_of_mirror (mirror : oldestMirror p = some w) : (waitingHeads p).head? = some w := by
  rw [head?_of_low notForced hand slots jobs noRecord, mirror, Option.some_or]

/-- With no mirror marked, a job that waits is the refresh offered. -/
theorem head?_of_noMirror (mirror : oldestMirror p = none) (heads : (waitingHeads p).head? = some w) {d : DamId}
    (offer : p.offer = some d) : w = .refresh d := by
  rw [head?_of_low notForced hand slots jobs noRecord, mirror, Option.none_or] at heads
  obtain seven | ⟨-, eight⟩ := Option.or_eq_some_iff.mp heads
  · exact refreshAt_offered offer seven
  · exact refreshAt_offered offer eight

end NotForced

end Classes

/-! ### The grant of each -/

section Grants

variable (c : Tables) {p : Dyn} {d : DamId}

theorem refreshOrigin_eq (m : Mode) :
    refreshOrigin m = match m with | .hold => .hold | .exiting => .pass | _ => .run := by
  cases m <;> rfl

theorem counts_refreshOrigin (m : Mode) : (refreshOrigin m).counts = (m != .hold) := by
  cases m <;> decide

/-- What the grant of a refresh of dam d leaves (R114): the dam's sequence counted and reach d's mirror marked. -/
def stamped (d : DamId) (p : Dyn) : Dyn :=
  { p with
    dams := Table.put p.dams d { p.dams.get d with sequence := (p.dams.get d).sequence + 1 }
    reachMirrorMarks := Table.put p.reachMirrorMarks d (some ((p.reachMirrorMarks.get d).getD p.moment)) }

theorem markReach_putDam :
    markReach d (putDam d { p.dams.get d with sequence := (p.dams.get d).sequence + 1 } { p with offer := none }) =
      { stamped d p with offer := none } := by
  simp [markReach, putDam, stamped, setMark_eq]

theorem grantJob_refresh_gates {h : GateId} {hs : List GateId} (gates : gatesOfDam c p d = h :: hs) :
    grantJob c (.refresh d) p =
      { stamped d p with
        offer := none
        running := some ⟨.refresh d (refreshOrigin p.mode) (refreshOrigin p.mode).counts h hs,
          ownWrite (slotPage h) (slotWord h 2) (stampWord ((p.dams.get d).sequence + 1) (p.gates.get h))⟩ } := by
  simp only [grantJob, grantRefresh, gates, markReach_putDam, begin, accessOf, stamped, Table.put_get_self]
  rfl

theorem grantJob_refresh_noGate (gates : gatesOfDam c p d = []) :
    grantJob c (.refresh d) p =
      refreshComplete c d (refreshOrigin p.mode).counts { stamped d p with offer := none } := by
  simp only [grantJob, grantRefresh, gates, markReach_putDam]

/-- The completion, at its grant, of a refresh of a dam with no gate in service: the pointer is past the dam. -/
def passedOver (d : DamId) (p : Dyn) : Dyn :=
  { stamped d p with pointer := if p.pointerReset then 0 else nextDam c.lastDam d, pointerReset := false }

variable {c} (gates : gatesOfDam c p d = [])
include gates

theorem grantJob_refresh_run (free : p.running = none) (run : p.mode = .run) :
    grantJob c (.refresh d) p =
      { passedOver c d p with
        debt := p.debt - 1
        summaryMark := some (p.summaryMark.getD p.moment)
        offer := if -3 ≤ p.debt - 1 then some (passedOver c d p).pointer else none } := by
  simp only [grantJob_refresh_noGate c gates, refreshComplete, advancePointer, stamped, passedOver, run, refreshOrigin,
    RefreshOrigin.counts, if_true, markSummary, setMark_eq, offerRun, refreshRunning, free]
  by_cases debt : -3 ≤ p.debt - 1 <;> simp [debt]

theorem grantJob_refresh_hold (hold : p.mode = .hold) :
    grantJob c (.refresh d) p = { passedOver c d p with offer := none } := by
  simp only [grantJob_refresh_noGate c gates, refreshComplete, advancePointer, stamped, passedOver, hold]

theorem grantJob_refresh_pass (exiting : p.mode = .exiting) (more : p.progress + 1 < c.lastDam.val + 1) :
    grantJob c (.refresh d) p =
      { passedOver c d p with progress := p.progress + 1, offer := some (passedOver c d p).pointer } := by
  simp only [grantJob_refresh_noGate c gates, refreshComplete, advancePointer, stamped, passedOver, exiting, refreshOrigin,
    RefreshOrigin.counts, if_true, if_neg (Nat.not_le.mpr more)]

theorem grantJob_refresh_last (exiting : p.mode = .exiting) (last : c.lastDam.val + 1 ≤ p.progress + 1) :
    grantJob c (.refresh d) p = endExitPass c { passedOver c d p with offer := none } := by
  simp only [grantJob_refresh_noGate c gates, refreshComplete, advancePointer, stamped, passedOver, exiting, refreshOrigin,
    RefreshOrigin.counts, if_true, if_pos last]

end Grants

section Portal

variable (c : Tables) (p : Dyn) {j : PortalJob} (rest : List PortalJob)

theorem grantJob_portal_echoes {x : GateId × Nat} {xs : List (GateId × Nat)} (echoes : j.echoes = x :: xs) :
    grantJob c (.portal j rest) p =
      { p with
        portalJobs := rest
        running := some ⟨.portal j 0, ownWrite (slotPage x.1) (slotWord x.1 0)
          (if (c.descriptors.get (slotPage x.1)).decimal then bcdWord x.2 else BitVec.ofNat 16 x.2)⟩ } := by
  simp only [grantJob, begin, accessOf, portalAccess, echoes, List.getElem?_cons_zero]
  rfl

theorem grantJob_portal_noEcho (echoes : j.echoes = []) :
    grantJob c (.portal j rest) p =
      { p with
        portalJobs := rest, running := some ⟨.portal j 0, ownWrite (portalPage j.portal) 126 (resultWord0 j)⟩ } := by
  simp only [grantJob, begin, accessOf, portalAccess, echoes, List.getElem?_nil, List.length_nil, if_true]
  rfl

end Portal

/-- Settles O47: the heads of the classes in order, and the grant of a job by its kind. -/
theorem theHighestClassIsGranted : Obligations.TheHighestClassIsGranted := by
  unfold Obligations.TheHighestClassIsGranted
  refine ⟨fun p w heads => ⟨fun d offer forced => ?_, fun notForced => ⟨fun t hand => ?_, fun hand =>
    ⟨fun g m mark oldest => ?_, fun slots => ⟨fun j js jobs => ?_, fun jobs => ⟨fun r rs buffer room => ?_, fun noRecord =>
      ⟨fun g m mark oldest reach summary => ?_, fun r m mark gate oldest summary => ?_, fun m mark gate reach => ?_,
        fun gate reach summary d offer => ?_⟩⟩⟩⟩⟩⟩, fun c p w free => ?_⟩
  · exact Option.some.inj (heads.symm.trans (head?_of_forced offer forced))
  · exact Option.some.inj (heads.symm.trans (head?_of_hand notForced hand))
  · exact Option.some.inj (heads.symm.trans (head?_of_slot notForced hand mark oldest))
  · exact Option.some.inj (heads.symm.trans (head?_of_portal notForced hand slots jobs))
  · exact Option.some.inj (heads.symm.trans (head?_of_record notForced hand slots jobs buffer room))
  · exact Option.some.inj (heads.symm.trans
      (head?_of_mirror notForced hand slots jobs noRecord (oldestMirror_gate mark oldest reach summary)))
  · exact Option.some.inj (heads.symm.trans
      (head?_of_mirror notForced hand slots jobs noRecord (oldestMirror_reach mark gate oldest summary)))
  · exact Option.some.inj (heads.symm.trans
      (head?_of_mirror notForced hand slots jobs noRecord (oldestMirror_summary mark gate reach)))
  · exact head?_of_noMirror notForced hand slots jobs noRecord (oldestMirror_none gate reach summary) heads offer
  · cases w with
    | refresh d =>
      refine ⟨fun h hs gates => ?_, fun gates p1 made => ?_⟩
      · rw [grantJob_refresh_gates c gates, counts_refreshOrigin, refreshOrigin_eq]
        rfl
      · subst made
        exact ⟨grantJob_refresh_run gates free, grantJob_refresh_hold gates, grantJob_refresh_pass gates,
          grantJob_refresh_last gates⟩
    | portal j rest => exact ⟨fun _ _ => grantJob_portal_echoes c p rest, grantJob_portal_noEcho c p rest⟩
    | forwarded t => rfl
    | slot g => rfl
    | log r rest => rfl
    | gateMirror g => rfl
    | reachMirror r => rfl
    | summary => rfl

end Sys2Proof.Machine
end

section
/-! The answers of the store: the job's next access or its end, and the report of an ERROR, after which it acts as an OK
(R118, R135, R140, Table 8-3). -/

namespace Sys2Proof.Machine

/-! ### An entry into HOLD takes the credit of the refresh in progress (R111) -/

/-- The job in progress stands while the mode does, and counts no more once a link has put the mode into HOLD. -/
structure Credited (p q : Dyn) : Prop where
  mode : q.mode = p.mode ∨ q.mode = .hold
  running : q.running = if q.mode = p.mode then p.running else (uncredit p).running

theorem Credited.of_work {p q : Dyn} (h : q.work = p.work) : Credited p q := by
  obtain ⟨mode, running⟩ := Prod.mk.inj h
  exact ⟨.inl mode, running.trans (if_pos mode).symm⟩

theorem Credited.refl (p : Dyn) : Credited p p := .of_work rfl

theorem Credited.trans {p q r : Dyn} (h1 : Credited p q) (h2 : Credited q r) : Credited p r := by
  obtain ⟨mode1, running1⟩ := h1
  obtain ⟨mode2, running2⟩ := h2
  by_cases same : q.mode = p.mode
  · rw [if_pos same] at running1
    rw [uncredit_running_congr (.inl running1), running1, same] at running2
    rw [same] at mode2
    exact ⟨mode2, running2⟩
  · have hold : q.mode = .hold := mode1.resolve_left same
    have still : r.mode = q.mode := mode2.elim id (·.trans hold.symm)
    rw [if_neg same] at running1
    rw [if_pos still] at running2
    exact ⟨.inr (still.trans hold), by rw [still, if_neg same, running2, running1]⟩

theorem enterHold_credited (p : Dyn) : Credited p (enterHold p) := by
  cases mode : p.mode with
  | run =>
    simp only [enterHold, mode]
    refine ⟨.inr ?_, ?_⟩
    · exact changeCauses_keeps Dyn.mode (fun _ _ _ => by simp) _ _ _
    · rw [if_neg (by rw [changeCauses_keeps Dyn.mode (fun _ _ _ => by simp) _ _ _]; simp [mode, markSummary])]
      exact changeCauses_keeps Dyn.running (fun _ _ _ => by simp) _ _ _
  | exiting =>
    rw [enterHold_of_exiting mode]
    exact ⟨.inr rfl, by simp [mode]⟩
  | hold =>
    simp only [enterHold, mode]
    exact .refl p
  | config =>
    simp only [enterHold, mode]
    exact .refl p

theorem LinkStep.credited {c : Tables} {p q : Dyn} (h : LinkStep c p q) : Credited p q := by
  cases h with
  | record r => exact .of_work (by simp [Dyn.work])
  | hold d =>
    apply Credited.of_work
    unfold setHold
    dsimp only
    split <;> simp
  | enterHold => exact enterHold_credited p
  | alarm k => exact .of_work rfl
  | exceeded d b => exact .of_work rfl
  | markReach r => exact .of_work rfl

theorem Linked.credited {c : Tables} {p q : Dyn} (h : Linked c p q) : Credited p q :=
  of_chain Credited.refl Credited.trans LinkStep.credited h

/-! ### The grants by class leave the fields that the clock leaves -/

theorem GrantedByClass.byTheClock {c : Tables} {p q : Dyn} (h : GrantedByClass c p q) : q.byTheClock = p.byTheClock := by
  induction h with
  | busy => rfl
  | idle => rfl
  | grants p q w _ _ _ ih => exact ih.trans (grantJob_byTheClock c w p)

theorem alertLine_of_byTheClock {p q : Dyn} (h : q.byTheClock = p.byTheClock) : alertLine q = alertLine p := by
  simp only [Dyn.byTheClock, Prod.mk.injEq] at h
  obtain ⟨-, -, write, read, -, -, pass, -⟩ := h
  rw [alertLine, alertLine, write, read, pass]

/-! ### An access is answered -/

/-- What the answer to an access does at once, before the job goes on. -/
def answerEffect (c : Tables) (j : Job) (a : Access) : StoreAnswer → Dyn → Dyn
  | .ok, p => p
  | .error, p => accessFailed c j a p

theorem takeAnswer_eq (c : Tables) (j : Job) (a : Access) (ans : StoreAnswer) (data : Word) (p : Dyn) :
    takeAnswer c ⟨j, a⟩ ans data p =
      arbitrate c false (jobGoesOn c ((jobNow (answerEffect c j a ans p) j).answered a ans) a ans data
        (answerEffect c j a ans p)) := by
  cases ans <;> rfl

theorem takeAnswer_goesOn {c : Tables} {j k : Job} {a : Access} {ans : StoreAnswer} (data : Word) {p q : Dyn}
    (effect : answerEffect c j a ans p = q) (next : ((jobNow q j).answered a ans).next = some k) :
    takeAnswer c ⟨j, a⟩ ans data p = { q with running := some ⟨k, accessOf c q k⟩ } := by
  rw [takeAnswer_eq, effect, jobGoesOn, next]
  exact arbitrate_busy rfl

theorem takeAnswer_last {c : Tables} {j k : Job} {a : Access} {ans : StoreAnswer} {data : Word} {p q r : Dyn}
    (effect : answerEffect c j a ans p = q) (now : (jobNow q j).answered a ans = k) (last : k.next = none)
    (completes : jobComplete c k a ans data { q with running := none } = r) (free : r.running = none) :
    GrantedByClass c r (takeAnswer c ⟨j, a⟩ ans data p) := by
  subst completes
  rw [takeAnswer_eq, effect, now, jobGoesOn, last]
  exact arbitrate_byClass free

section Answered

variable {kind : Job → Bool} {instr : StoreAnswer → Instr} {s : State} {j k : Job} {a : Access} {ans : StoreAnswer}
  {q r : Dyn}

/-- The job has another access to make, and what the answer leaves is the state with that access begun. -/
theorem exec_goesOn (row : ∀ ans s, exec (instr ans) s = .next (accessDone kind ans s)) (canonical : StoreCanonical s)
    (running : s.dyn.running = some ⟨j, a⟩) (is : kind j = true)
    (effect : answerEffect s.tables j a ans (counted s) = q) (next : ((jobNow q j).answered a ans).next = some k) :
    ∃ t, exec (instr ans) s = .next t ∧ StoreAnswered s t a ans ∧
      t.dyn = { q with running := some ⟨k, accessOf s.tables q k⟩ } := by
  obtain ⟨t, done, stored, dyn⟩ := exec_accessDone (row ans) canonical running is
  exact ⟨t, done, stored, dyn.trans (takeAnswer_goesOn _ effect next)⟩

/-- The job is over, and the port is granted by class. -/
theorem exec_completes (row : ∀ ans s, exec (instr ans) s = .next (accessDone kind ans s)) (canonical : StoreCanonical s)
    (running : s.dyn.running = some ⟨j, a⟩) (is : kind j = true)
    (effect : answerEffect s.tables j a ans (counted s) = q) (now : (jobNow q j).answered a ans = k)
    (last : k.next = none) (completes : ∀ data, jobComplete s.tables k a ans data { q with running := none } = r)
    (free : r.running = none) :
    ∃ t, exec (instr ans) s = .next t ∧ StoreAnswered s t a ans ∧ GrantedByClass s.tables r t.dyn := by
  obtain ⟨t, done, stored, dyn⟩ := exec_accessDone (row ans) canonical running is
  exact ⟨t, done, stored, dyn ▸ takeAnswer_last effect now last (completes _) free⟩

/-- The state with its report made, at the moment of before. -/
def withReport (s : State) (q : Dyn) : State := { s with dyn := { q with moment := s.dyn.moment } }

/-- An ERROR is its report and then an OK, where the job that goes on is the job of the report (R118, R140). -/
theorem errorReportedThenOk {report : State → Prop}
    (row : ∀ ans s, exec (instr ans) s = .next (accessDone kind ans s)) (canonical : StoreCanonical s)
    (running : s.dyn.running = some ⟨j, a⟩) (is : kind j = true) (failed : accessFailed s.tables j a (counted s) = q)
    (moment : q.moment = s.dyn.moment + 1) (now : q.running = some ⟨k, a⟩) (isStill : kind k = true)
    (same : jobGoesOn s.tables (k.answered a .error) a .error (j.readWord s.store (s.dyn.moment + 1)) q =
      jobGoesOn s.tables (k.answered a .ok) a .ok (k.readWord s.store (s.dyn.moment + 1)) q)
    (reported : report (withReport s q)) : ErrorReportedThenOk instr s a report := by
  obtain ⟨t, error, stored, dyn⟩ := exec_accessDone (row .error) canonical running is
  have recounted : counted (withReport s q) = q := by
    rw [counted, withReport, ← moment]
  refine ⟨_, t, _, reported, error, stored, row .ok _, ?_⟩
  have nowRunning : (withReport s q).dyn.running = some ⟨k, a⟩ := now
  have okGives : takeAnswer s.tables ⟨k, a⟩ .ok (k.readWord s.store (s.dyn.moment + 1)) q =
      arbitrate s.tables false
        (jobGoesOn s.tables (k.answered a .ok) a .ok (k.readWord s.store (s.dyn.moment + 1)) q) := by
    rw [takeAnswer_eq, answerEffect, jobNow_of_running now]
  rw [accessDone_eq nowRunning isStill, recounted, dyn, takeAnswer_eq s.tables j, answerEffect, failed, jobNow_of_running now, same]
  exact okGives

end Answered

/-! ### The report of an ERROR -/

theorem Recorded.of_running {x : LogRecord} {p : Dyn} (h : Recorded x p) {r : Option Running}
    (notLog : ∀ y w k a, p.running ≠ some ⟨.log y w k, a⟩) : Recorded x { p with running := r } := by
  obtain buffered | ⟨w, k, a, writing⟩ | lost := h
  · exact .inl buffered
  · exact absurd writing (notLog x w k a)
  · exact .inr (.inr lost)

theorem Course.atMoment {c : Tables} {p q : Dyn} (h : Course c p q) (m : Nat) :
    Course c { p with moment := m } { q with moment := m } where
  still := by
    obtain ⟨statusWords, portals, debt, pointer, pointerReset, refreshTimer, logWrite, logRead, jobs, hand, answer,
      passKind, passFailed, unfinished, tick, -, free⟩ := still_fields h.still
    simp only [Dyn.still, statusWords, portals, debt, pointer, pointerReset, refreshTimer, logWrite, logRead, jobs, hand,
      answer, passKind, passFailed, unfinished, tick, free]
  holds := h.holds
  control := h.control
  alarms := h.alarms
  running := by
    have uncredited : (uncredit { p with moment := m }).running = (uncredit p).running := by
      rw [uncredit_running, uncredit_running]
    rw [uncredited]
    exact h.running
  buffer := h.buffer
  lost := h.lost

/-- An event raised, as every report of an ERROR raises it. -/
theorem raise_acted (c : Tables) (e : Event) (p : Dyn) : LinksActed c e.kind e.subject (raise c e p) :=
  offerLinks_acted c _ _ _

theorem raise_recorded (c : Tables) (e : Event) (p : Dyn) : Recorded (e.record p.tick) (raise c e p) :=
  (formRecord_recorded _ p).mono (offerLinks_frame c _ _ _)

theorem raise_totals (c : Tables) (e : Event) (p : Dyn) : (raise c e p).totals = p.totals :=
  (rivers_fields (raise_rivers c e p)).1

theorem raise_reaches (c : Tables) (e : Event) (p : Dyn) : (raise c e p).reaches = p.reaches :=
  (rivers_fields (raise_rivers c e p)).2

section Reported

variable {s : State} {e : Event} {q : Dyn}

/-- A course of a report, from the state with its event counted. -/
theorem faultReported_of_course (course : Course s.tables (counted s) q) (recorded : Recorded (e.record s.dyn.tick) q)
    (acted : LinksActed s.tables e.kind e.subject q)
    (dams : ∀ d, ∃ h, q.dams.get d = { s.dyn.dams.get d with hold := h })
    (reaches : ∀ r, ∃ b, q.reaches.get r = { s.dyn.reaches.get r with exceeded := b })
    (bounds : BoundsReported s (withReport s q)) (queue : q.queue.Sublist s.dyn.queue)
    (running : q.running = if q.mode = s.dyn.mode then s.dyn.running else (uncredit s.dyn).running) :
    FaultReported e s (withReport s q) := by
  have here : Course s.tables s.dyn (withReport s q).dyn := course.atMoment s.dyn.moment
  have still := here.still
  obtain ⟨-, -, -, -, -, -, -, -, -, hand, answer, -⟩ := still_fields still
  exact
    { beside :=
        { tables := rfl
          store := ⟨rfl, rfl⟩
          surroundings := sameSurroundings_of_setting (setting_of_still still)
          control := here.controlByLinks rfl
          dams := fun d => hold_or (dams d) (here.holds d)
          reaches := reaches
          bounds := bounds
          queue := queue }
      bus := ⟨hand, answer⟩
      raised := ⟨recorded, acted⟩
      running := running
      moment := rfl }

theorem faultReported_of_raise (s : State) (e : Event) : FaultReported e s (withReport s (raise s.tables e (counted s))) := by
  have growth : LinkGrowth s.tables (counted s) (raise s.tables e (counted s)) := raise_growth _ _ _
  have credited : Credited (counted s) (raise s.tables e (counted s)) := (raise_linked _ _ _).credited
  have uncredited : (uncredit (counted s)).running = (uncredit s.dyn).running := by
    rw [uncredit_running, uncredit_running, counted]
  refine faultReported_of_course growth.course (raise_recorded _ _ _) (raise_acted _ _ _) growth.frame.dams growth.frame.reaches
    (boundsReported_of_reaches (raise_reaches _ _ _)) growth.frame.queue ?_
  rw [← uncredited]
  exact credited.running

/-- A report made at a job's end, within the command that has counted its event. -/
theorem faultReported_at_end (s : State) (e : Event) : FaultReported e s { s with dyn := raise s.tables e s.dyn } := by
  have growth : LinkGrowth s.tables s.dyn (raise s.tables e s.dyn) := raise_growth _ _ _
  have still := growth.frame.still
  obtain ⟨-, -, -, -, -, -, -, -, -, hand, answer, -, -, -, -, moment, -⟩ := still_fields still
  exact
    { beside :=
        { tables := rfl
          store := ⟨rfl, rfl⟩
          surroundings := sameSurroundings_of_setting (setting_of_still still)
          control := growth.course.controlByLinks rfl
          dams := fun d => hold_or (growth.frame.dams d) (growth.holds d)
          reaches := growth.frame.reaches
          bounds := boundsReported_of_reaches (raise_reaches _ _ _)
          queue := growth.frame.queue }
      bus := ⟨hand, answer⟩
      raised := ⟨raise_recorded _ _ _, raise_acted _ _ _⟩
      running := (raise_linked _ _ _).credited.running
      moment := moment }

/-- Of a report, what stands once the job has begun its next access. -/
theorem reported_goesOn {t : State} (course : Course s.tables (counted s) q) (recorded : Recorded (e.record s.dyn.tick) q)
    (acted : LinksActed s.tables e.kind e.subject q) (notLog : ∀ y w k a, q.running ≠ some ⟨.log y w k, a⟩)
    (tables : t.tables = s.tables) {r : Option Running} (dyn : t.dyn = { q with running := r }) :
    SameSurroundings s t ∧ ControlByLinks s t ∧ BusKept s t ∧ Raised e s t := by
  have here : Course s.tables s.dyn { q with moment := s.dyn.moment } := course.atMoment s.dyn.moment
  obtain ⟨-, -, -, -, -, -, -, -, -, hand, answer, -⟩ := still_fields here.still
  have setting : t.dyn.setting = s.dyn.setting := by
    rw [dyn]
    exact (setting_of_still here.still :)
  refine ⟨sameSurroundings_of_setting setting, ⟨?_, ?_⟩, ⟨?_, ?_⟩, ?_, ?_⟩
  · rw [dyn]
    exact here.control
  · rw [dyn]
    exact here.alarms
  · rw [dyn]
    exact hand
  · rw [dyn]
    exact answer
  · rw [dyn]
    exact recorded.of_running notLog
  · rw [dyn, tables]
    exact acted

end Reported

end Sys2Proof.Machine
end

section
/-! The answers to the writes of a portal job and of a log record job (R102, R118, R154); O50. -/

namespace Sys2Proof.Machine

section Portal

variable {s : State} {j : PortalJob} {k : Nat} {a : Access} (canonical : StoreCanonical s)
  (running : s.dyn.running = some ⟨.portal j k, a⟩)

theorem Job.next_portal (j : PortalJob) (k : Nat) :
    (Job.portal j k).next = if k ≤ j.echoes.length then some (.portal j (k + 1)) else none := rfl

theorem portalAccess_echo (c : Tables) {x : GateId × Nat} (echo : j.echoes[k]? = some x) :
    portalAccess c j k = ownWrite (slotPage x.1) (slotWord x.1 0)
      (if (c.descriptors.get (slotPage x.1)).decimal then bcdWord x.2 else BitVec.ofNat 16 x.2) := by
  rw [portalAccess, echo]
  rfl

theorem portalAccess_result0 (c : Tables) (k : Nat) (h : k = j.echoes.length) :
    portalAccess c j k = ownWrite (portalPage j.portal) 126 (resultWord0 j) := by
  rw [portalAccess, List.getElem?_eq_none h.ge]
  exact if_pos h

theorem portalAccess_result1 (c : Tables) (k : Nat) (h : j.echoes.length < k) :
    portalAccess c j k = ownWrite (portalPage j.portal) 127 (resultWord1 j) := by
  rw [portalAccess, List.getElem?_eq_none h.le]
  exact if_neg h.ne'

theorem echoGate_eq (j : PortalJob) (k : Nat) :
    j.echoGate k = match j.echoes[k]? with | some x => some x.1 | none => none := by
  rw [PortalJob.echoGate]
  cases j.echoes[k]? <;> rfl

/-- The access begun after write k of a portal job, whatever the answer. -/
theorem portal_next {ans : StoreAnswer} {q : Dyn} (now : q.running = some ⟨.portal j k, a⟩) (more : k ≤ j.echoes.length) :
    ((jobNow q (.portal j k)).answered a ans).next = some (.portal j (k + 1)) := by
  rw [jobNow_of_running now]
  cases ans <;> exact if_pos more

/-- A link that enters HOLD leaves a portal job as it stands: only a refresh has credit to lose. -/
theorem portal_stands {c : Tables} {p q : Dyn} (course : Course c p q) (now : p.running = some ⟨.portal j k, a⟩) :
    q.running = some ⟨.portal j k, a⟩ := by
  obtain same | uncredited := course.running
  · exact same.trans now
  · rw [uncredited, uncredit_running, now]
    rfl

include canonical running

theorem portal_goesOn (more : k ≤ j.echoes.length) :
    ∃ t, exec (.portalJobAccessDone .ok) s = .next t ∧ StoreAnswered s t a .ok ∧
      GoesOn s t (.portal j (k + 1)) (portalAccess s.tables j (k + 1)) :=
  exec_goesOn (kind := Job.isPortal) (instr := .portalJobAccessDone) (q := counted s) (fun _ _ => rfl) canonical running rfl
    rfl (portal_next running more)

theorem portal_completes (last : j.echoes.length < k) :
    ∃ t, exec (.portalJobAccessDone .ok) s = .next t ∧ StoreAnswered s t a .ok ∧
      GrantedByClass s.tables
        { counted s with
          running := none
          portals := Table.put s.dyn.portals j.portal { s.dyn.portals.get j.portal with busy := false } }
        t.dyn := by
  have now : (jobNow (counted s) (.portal j k)).answered a .ok = .portal j k :=
    congrArg (Job.answered · a .ok) (jobNow_of_running (p := counted s) running _)
  exact exec_completes (kind := Job.isPortal) (instr := .portalJobAccessDone) (q := counted s) (fun _ _ => rfl) canonical
    running rfl rfl now (if_neg (Nat.not_le.mpr last)) (fun _ => rfl) rfl

variable {e : Event} (event : e = storeFaultEvent a (j.echoGate k) s.dyn)
include event

theorem portal_reports :
    ErrorReportedThenOk .portalJobAccessDone s a fun r => FaultReported e s r ∧ r.dyn.totals = s.dyn.totals ∧
      ∀ h, Gate.OnlyHolds (s.dyn.gates.get h) (r.dyn.gates.get h) := by
  have growth : LinkGrowth s.tables (counted s) (raise s.tables e (counted s)) := raise_growth _ _ _
  obtain ⟨-, -, -, -, -, -, -, -, -, -, -, -, -, -, -, moment, -⟩ := still_fields growth.frame.still
  have failed : accessFailed s.tables (.portal j k) a (counted s) = raise s.tables e (counted s) := by
    rw [event]
    rfl
  exact errorReportedThenOk (kind := Job.isPortal) (k := .portal j k) (fun _ _ => rfl) canonical running rfl failed moment
    (portal_stands growth.course running) rfl rfl
    ⟨faultReported_of_raise s e, raise_totals _ _ _, growth.frame.gates⟩

theorem portal_error_goesOn (more : k ≤ j.echoes.length) :
    ∃ t, exec (.portalJobAccessDone .error) s = .next t ∧ StoreAnswered s t a .error ∧ SameSurroundings s t ∧
      t.dyn.totals = s.dyn.totals ∧ ControlByLinks s t ∧ BusKept s t ∧
      (∀ h, Gate.OnlyHolds (s.dyn.gates.get h) (t.dyn.gates.get h)) ∧ Raised e s t ∧
      ∃ u, exec (.portalJobAccessDone .ok) s = .next u ∧ t.dyn.running = u.dyn.running := by
  have growth : LinkGrowth s.tables (counted s) (raise s.tables e (counted s)) := raise_growth _ _ _
  have stands := portal_stands growth.course running
  have failed : answerEffect s.tables (.portal j k) a .error (counted s) = raise s.tables e (counted s) := by
    rw [event]
    rfl
  obtain ⟨t, done, stored, dyn⟩ := exec_goesOn (kind := Job.isPortal) (instr := .portalJobAccessDone) (fun _ _ => rfl)
    canonical running rfl failed (portal_next stands more)
  obtain ⟨u, okDone, -, okDyn⟩ := portal_goesOn canonical running more
  obtain ⟨surroundings, control, bus, raised⟩ := reported_goesOn growth.course (raise_recorded _ _ _) (raise_acted _ _ _)
    (fun _ _ _ _ writing => by simp [stands] at writing) stored.2.2.2.2 dyn
  refine ⟨t, done, stored, surroundings, ?_, control, bus, ?_, raised, u, okDone, ?_⟩
  · rw [dyn]
    exact raise_totals _ _ _
  · rw [dyn]
    exact growth.frame.gates
  · rw [dyn, okDyn]
    rfl

end Portal

section Log

variable {s : State} {r : LogRecord} {n : BitVec 6} {k : Nat} {a : Access} {ans : StoreAnswer} {p : Dyn}

/-- LOG_LOST set once, with the mark of the status summary (R153, R154). -/
theorem setLogLost_eq (q : Dyn) : setLogLost q =
    { q with
      logLost := true
      summaryMark := if q.logLost = false then some (q.summaryMark.getD q.moment) else q.summaryMark } := by
  unfold setLogLost
  cases lost : q.logLost with
  | true =>
    simp only [if_true]
    rw [if_neg (by simp), ← lost]
  | false => simp [markSummary, setMark_eq]

theorem log_answerEffect (c : Tables) (q : Dyn) : answerEffect c (.log r n k) a ans q =
    { q with
      logLost := q.logLost || ans == .error
      summaryMark :=
        if ans = .error ∧ q.logLost = false then some (q.summaryMark.getD q.moment) else q.summaryMark } := by
  cases ans with
  | ok =>
    have notError : (StoreAnswer.ok == .error) = false := by decide
    simp [answerEffect, notError]
  | error =>
    simp [answerEffect, accessFailed, setLogLost_eq]

theorem logAccess_word (m : Fin 8) : logAccess r n m.val = ownWrite (logPage n) (logWord n m) (r.word m) :=
  dif_pos m.isLt

variable (running : s.dyn.running = some ⟨.log r n k, a⟩)
  (answered : answerEffect s.tables (.log r n k) a ans (counted s) = p)
include running answered

theorem log_running : p.running = some ⟨.log r n k, a⟩ := by
  rw [← answered, log_answerEffect]
  exact running

theorem log_answered (x : StoreAnswer) : (jobNow p (.log r n k)).answered a x = .log r n k := by
  rw [jobNow_of_running (log_running running answered)]
  cases x <;> rfl

variable (canonical : StoreCanonical s)
include canonical

theorem log_goesOn (more : k < 8) :
    ∃ t, exec (.logRecordAccessDone ans) s = .next t ∧ StoreAnswered s t a ans ∧
      t.dyn = { p with running := some ⟨.log r n (k + 1), logAccess r n (k + 1)⟩ } := by
  refine exec_goesOn (kind := Job.isLog) (instr := .logRecordAccessDone) (fun _ _ => rfl) canonical running rfl answered ?_
  rw [log_answered running answered]
  exact if_pos more

theorem log_completes (last : 8 ≤ k) :
    ∃ t, exec (.logRecordAccessDone ans) s = .next t ∧ StoreAnswered s t a ans ∧
      GrantedByClass s.tables { p with running := none, logWrite := n + 1 } t.dyn :=
  exec_completes (kind := Job.isLog) (instr := .logRecordAccessDone) (fun _ _ => rfl) canonical running rfl answered
    (log_answered running answered ans) (if_neg (Nat.not_lt.mpr last)) (fun _ => rfl) rfl

end Log

/-- Settles O50: the writes of a portal job and of a log record job. -/
theorem portalAndLogAccessDone : Obligations.PortalAndLogAccessDone := by
  constructor
  · intro s j k a canonical running
    refine ⟨fun x echo => ?_, fun before => ?_, fun result => ?_, portal_completes canonical running, fun e event => ?_⟩
    · rw [← portalAccess_echo s.tables echo]
      have inside : k + 1 < j.echoes.length := (List.getElem?_eq_some_iff.mp echo).1
      exact portal_goesOn canonical running (by omega)
    · rw [← portalAccess_result0 s.tables (k + 1) before]
      exact portal_goesOn canonical running (by omega)
    · rw [← portalAccess_result1 s.tables (k + 1) (by omega)]
      exact portal_goesOn canonical running result.le
    · have named : e = storeFaultEvent a (j.echoGate k) s.dyn :=
        event.trans (congrArg (storeFaultEvent a · s.dyn) (echoGate_eq j k).symm)
      exact ⟨portal_reports canonical running named, portal_error_goesOn canonical running named⟩
  · intro s r n k a ans p canonical running made
    have answered : answerEffect s.tables (.log r n k) a ans (counted s) = p := (log_answerEffect _ _).trans made.symm
    refine ⟨fun m follows => ?_, fun seven => ?_, fun last => ?_⟩
    · rw [← logAccess_word, ← follows]
      exact log_goesOn running answered canonical (by have := m.isLt; omega)
    · subst seven
      exact log_goesOn running answered canonical (by decide)
    · obtain ⟨t, done, stored, granted⟩ := log_completes running answered canonical last
      refine ⟨t, done, stored, granted, fun pass => ?_⟩
      rw [alertLine_of_byTheClock granted.byTheClock, alertLine, made]
      simp [counted, pass, bne, beq_eq_decide]

end Sys2Proof.Machine
end

section
/-! The answers to the writes of a mirror job (R87 to R89, R140, Table 8-3); O51. -/

namespace Sys2Proof.Machine

section Mirror

variable {s : State} {a b : Access} {ans : StoreAnswer}

/-- The state with the mirror job over, before its report. -/
def jobOver (s : State) : State := { s with dyn := { counted s with running := none } }

theorem answered_gateMirror (g : GateId) (k : Fin 4) (f : Option Access) :
    (Job.gateMirror g k f).answered a ans = .gateMirror g k (if ans = .error ∧ f = none then some a else f) := by
  cases ans <;> cases f <;> simp [Job.answered]

theorem answered_reachMirror (r : ReachId) (k : Fin 8) (f : Option Access) :
    (Job.reachMirror r k f).answered a ans = .reachMirror r k (if ans = .error ∧ f = none then some a else f) := by
  cases ans <;> cases f <;> simp [Job.answered]

/-- The mirror job that has been answered, where the store's answer does nothing else. -/
theorem mirror_answered {j k : Job} (running : s.dyn.running = some ⟨j, a⟩) (answered : j.answered a ans = k) :
    (jobNow (counted s) j).answered a ans = k :=
  (congrArg (Job.answered · a ans) (jobNow_of_running (p := counted s) running j)).trans answered

theorem mirror_effect {j : Job} (mirror : j.isMirror = true) (c : Tables) (p : Dyn) : answerEffect c j a ans p = p := by
  cases ans with
  | ok => rfl
  | error =>
    cases j with
    | gateMirror g k f => rfl
    | reachMirror r k f => rfl
    | summary => rfl
    | _ => cases mirror

variable {j k l : Job} (canonical : StoreCanonical s) (running : s.dyn.running = some ⟨j, a⟩) (mirror : j.isMirror = true)
  (answered : j.answered a ans = k)
include canonical running mirror answered

theorem mirror_goesOn (next : k.next = some l) :
    ∃ t, exec (.mirrorWriteAccessDone ans) s = .next t ∧ StoreAnswered s t a ans ∧
      GoesOn s t l (accessOf s.tables (counted s) l) :=
  exec_goesOn (kind := Job.isMirror) (instr := .mirrorWriteAccessDone) (fun _ _ => rfl) canonical running mirror
    (mirror_effect mirror _ _) ((congrArg Job.next (mirror_answered running answered)).trans next)

theorem mirror_completes {r : Dyn} (last : k.next = none)
    (completes : ∀ data, jobComplete s.tables k a ans data (jobOver s).dyn = r) (free : r.running = none) :
    ∃ t, exec (.mirrorWriteAccessDone ans) s = .next t ∧ StoreAnswered s t a ans ∧ GrantedByClass s.tables r t.dyn :=
  exec_completes (kind := Job.isMirror) (instr := .mirrorWriteAccessDone) (fun _ _ => rfl) canonical running mirror
    (mirror_effect mirror _ _) (mirror_answered running answered) last completes free

/-- The completion of a mirror job that reports a failed write. -/
theorem mirror_reports {e : Event} (last : k.next = none)
    (completes : ∀ data, jobComplete s.tables k a ans data (jobOver s).dyn = raise s.tables e (jobOver s).dyn) :
    ∃ t q, exec (.mirrorWriteAccessDone ans) s = .next t ∧ StoreAnswered s t a ans ∧
      FaultReported e (jobOver s) { s with dyn := q } ∧ GrantedByClass s.tables q t.dyn ∧ q.totals = s.dyn.totals ∧
      ∀ h, Gate.OnlyHolds (s.dyn.gates.get h) (q.gates.get h) := by
  have growth : LinkGrowth s.tables (jobOver s).dyn (raise s.tables e (jobOver s).dyn) := raise_growth _ _ _
  obtain ⟨-, -, -, -, -, -, -, -, -, -, -, -, -, -, -, -, free⟩ := still_fields growth.frame.still
  obtain ⟨t, done, stored, granted⟩ := mirror_completes canonical running mirror answered last completes
    (Option.isNone_iff_eq_none.mp free)
  exact ⟨t, _, done, stored, faultReported_at_end (jobOver s) e, granted, raise_totals _ _ _, growth.frame.gates⟩

end Mirror

/-- Settles O51: the words of a mirror in turn, and the one report at its end. -/
theorem mirrorWriteAccessDone : Obligations.MirrorWriteAccessDone := by
  intro s j a ans canonical running
  cases j with
  | gateMirror g k f =>
    dsimp only
    refine ⟨fun n follows => ?_, fun third => ?_⟩
    · have next (x : Option Access) : (Job.gateMirror g k x).next = some (.gateMirror g n x) := by
        have inside : k.val + 1 < 4 := by omega
        simp only [Job.next, dif_pos inside, Option.some.injEq, Job.gateMirror.injEq, true_and, and_true]
        exact Fin.ext follows
      exact mirror_goesOn canonical running rfl (answered_gateMirror g k f) (next _)
    · subst third
      have answered := answered_gateMirror (a := a) (ans := ans) g 3 f
      generalize (if ans = .error ∧ f = none then some a else f) = failed at answered
      cases failed with
      | none => exact mirror_completes canonical running rfl answered rfl (fun _ => rfl) rfl
      | some b => exact mirror_reports canonical running rfl answered rfl fun _ => rfl
  | reachMirror r k f =>
    dsimp only
    refine ⟨fun n follows => ?_, fun seventh => ?_⟩
    · have next (x : Option Access) : (Job.reachMirror r k x).next = some (.reachMirror r n x) := by
        have inside : k.val + 1 < 8 := by omega
        simp only [Job.next, dif_pos inside, Option.some.injEq, Job.reachMirror.injEq, true_and, and_true]
        exact Fin.ext follows
      exact mirror_goesOn canonical running rfl (answered_reachMirror r k f) (next _)
    · subst seventh
      have answered := answered_reachMirror (a := a) (ans := ans) r 7 f
      generalize (if ans = .error ∧ f = none then some a else f) = failed at answered
      cases failed with
      | none => exact mirror_completes canonical running rfl answered rfl (fun _ => rfl) rfl
      | some b => exact mirror_reports canonical running rfl answered rfl fun _ => rfl
  | summary =>
    refine ⟨fun ok => ?_, fun error => ?_⟩
    · subst ok
      exact mirror_completes canonical running rfl rfl rfl (fun _ => rfl) rfl
    · subst error
      exact mirror_reports canonical running rfl rfl rfl fun _ => rfl
  | _ => trivial

end Sys2Proof.Machine
end

section
/-! The answers to the writes of a refresh job (R107, R111, R114 to R118, R140); O45. -/

namespace Sys2Proof.Machine

section Refresh

variable {s : State} {d : DamId} {o : RefreshOrigin} {counts : Bool} {g : GateId} {rest : List GateId} {a : Access}

/-- The refresh job over and the pointer advanced (R107, R114). -/
def advanced (s : State) (d : DamId) : Dyn :=
  { counted s with
    running := none, pointerReset := false
    pointer := if s.dyn.pointerReset then 0 else nextDam s.tables.lastDam d }

theorem advancePointer_jobOver (s : State) (d : DamId) :
    advancePointer s.tables d { counted s with running := none } = advanced s d := rfl

/-- In HOLD and CONFIG the completion advances the pointer only. -/
theorem refreshComplete_resting (resting : s.dyn.mode = .hold ∨ s.dyn.mode = .config) :
    refreshComplete s.tables d counts { counted s with running := none } = advanced s d := by
  obtain hold | config := resting
  · have mode : (advanced s d).mode = .hold := hold
    simp only [refreshComplete, advancePointer_jobOver, mode]
  · have mode : (advanced s d).mode = .config := config
    simp only [refreshComplete, advancePointer_jobOver, mode]

/-- The RUN offer at a free port (R116). -/
theorem offerRun_of_free {p : Dyn} (free : p.running = none) (run : p.mode = .run) : offerRun p =
    { p with offer := if p.offer = none ∧ -3 ≤ p.debt then some p.pointer else p.offer } := by
  have noRefresh : refreshRunning p = false := by
    rw [refreshRunning, free]
  by_cases offers : p.offer = none ∧ -3 ≤ p.debt
  · rw [offerRun, if_pos offers, if_pos (by simp [run, noRefresh, offers])]
  · rw [offerRun, if_neg offers, if_neg (by simpa [run, noRefresh] using offers)]

theorem refreshComplete_run (run : s.dyn.mode = .run) :
    refreshComplete s.tables d counts { counted s with running := none } =
      { advanced s d with
        debt := if counts then s.dyn.debt - 1 else s.dyn.debt
        offer :=
          if s.dyn.offer = none ∧ -3 ≤ (if counts then s.dyn.debt - 1 else s.dyn.debt) then some (advanced s d).pointer
          else s.dyn.offer
        summaryMark := if counts then some (s.dyn.summaryMark.getD (s.dyn.moment + 1)) else s.dyn.summaryMark } := by
  have completes : refreshComplete s.tables d counts { counted s with running := none } =
      offerRun (if counts then markSummary { advanced s d with debt := (advanced s d).debt - 1 } else advanced s d) := by
    unfold refreshComplete
    rw [advancePointer_jobOver]
    dsimp only
    split
    case h_1 => rfl
    all_goals exact absurd run (by simp_all [advanced, counted])
  rw [completes]
  cases counts with
  | false => exact offerRun_of_free (p := advanced s d) rfl run
  | true =>
    refine (offerRun_of_free (p := markSummary { advanced s d with debt := (advanced s d).debt - 1 }) rfl run).trans ?_
    simp only [markSummary, setMark_eq]
    rfl

/-- In the exit pass the next refresh is offered, until the last has counted (R110, R119). -/
theorem refreshComplete_exiting (exiting : s.dyn.mode = .exiting)
    (more : counts = true → s.dyn.progress + 1 < s.tables.lastDam.val + 1) :
    refreshComplete s.tables d counts { counted s with running := none } =
      { advanced s d with
        progress := if counts then s.dyn.progress + 1 else s.dyn.progress
        offer := some (advanced s d).pointer } := by
  have mode : (advanced s d).mode = .exiting := exiting
  simp only [refreshComplete, advancePointer_jobOver, mode]
  cases counts with
  | false => rfl
  | true => exact if_neg (Nat.not_le.mpr (more rfl))

section Standing

variable (running : s.dyn.running = some ⟨.refresh d o counts g rest, a⟩)
include running

theorem refresh_answered (ans : StoreAnswer) :
    (jobNow (counted s) (.refresh d o counts g rest)).answered a ans = .refresh d o counts g rest := by
  refine (congrArg (Job.answered · a ans) (jobNow_of_running (p := counted s) running _)).trans ?_
  cases ans <;> rfl

/-- A refresh job along a report: it counts no more once a link has entered HOLD (R111). -/
theorem refresh_stands {q : Dyn} (credited : Credited (counted s) q) :
    q.running = some ⟨.refresh d o (counts && q.mode == s.dyn.mode) g rest, a⟩ := by
  have now : (counted s).running = some ⟨.refresh d o counts g rest, a⟩ := running
  have uncredited : (uncredit (counted s)).running = some ⟨.refresh d o false g rest, a⟩ := by
    rw [uncredit_running, now]
    rfl
  rw [credited.running, uncredited, now]
  by_cases mode : q.mode = s.dyn.mode
  · exact (if_pos mode).trans (by simp [mode])
  · exact (if_neg mode).trans (by simp [mode])

variable (canonical : StoreCanonical s)
include canonical

theorem refresh_goesOn {h : GateId} {hs : List GateId} (more : rest = h :: hs) :
    ∃ t, exec (.refreshAccessDone .ok) s = .next t ∧ StoreAnswered s t a .ok ∧
      GoesOn s t (.refresh d o counts h hs)
        (ownWrite (slotPage h) (slotWord h 2) (stampWord (s.dyn.dams.get d).sequence (s.dyn.gates.get h))) := by
  have next : ((jobNow (counted s) (.refresh d o counts g rest)).answered a .ok).next =
      some (.refresh d o counts h hs) := by
    rw [refresh_answered running, more]
    rfl
  exact exec_goesOn (kind := Job.isRefresh) (instr := .refreshAccessDone) (fun _ _ => rfl) canonical running rfl rfl next

theorem refresh_completes {r : Dyn} (last : rest = [])
    (completes : refreshComplete s.tables d counts { counted s with running := none } = r) (free : r.running = none) :
    ∃ t, exec (.refreshAccessDone .ok) s = .next t ∧ StoreAnswered s t a .ok ∧ GrantedByClass s.tables r t.dyn := by
  have lastNext : (Job.refresh d o counts g rest).next = none := by
    rw [last]
    rfl
  exact exec_completes (kind := Job.isRefresh) (instr := .refreshAccessDone) (q := counted s) (fun _ _ => rfl) canonical
    running rfl rfl (refresh_answered running .ok) lastNext (fun _ => completes) free

/-- An ERROR for a FAULTED gate acts as an OK (R118). -/
theorem refresh_error_of_faulted (faulted : (s.dyn.gates.get g).state = .faulted) :
    ∃ t, exec (.refreshAccessDone .ok) s = .next t ∧ ∃ u, exec (.refreshAccessDone .error) s = .next u ∧ u.dyn = t.dyn := by
  have now := refresh_answered running
  have failed : accessFailed s.tables (.refresh d o counts g rest) a (counted s) = counted s := by
    have is : ((counted s).gates.get g).state = .faulted := faulted
    simp [accessFailed, refreshWriteFailed, is]
  obtain ⟨t, ok, -, okDyn⟩ := exec_accessDone (kind := Job.isRefresh) (instr := .refreshAccessDone) (ans := .ok)
    (fun _ => rfl) canonical running rfl
  obtain ⟨u, error, -, errorDyn⟩ := exec_accessDone (kind := Job.isRefresh) (instr := .refreshAccessDone) (ans := .error)
    (fun _ => rfl) canonical running rfl
  refine ⟨t, ok, u, error, ?_⟩
  rw [okDyn, errorDyn, takeAnswer_eq, takeAnswer_eq, answerEffect, answerEffect, failed, now, now]
  rfl

variable (reports : (s.dyn.gates.get g).state ≠ .faulted)
include reports

omit running canonical in
theorem refresh_failed : accessFailed s.tables (.refresh d o counts g rest) a (counted s) =
    raise s.tables (storeFaultEvent a (some g) s.dyn) (counted s) := by
  have not : ((counted s).gates.get g).state ≠ .faulted := reports
  simp only [accessFailed, refreshWriteFailed, beq_iff_eq, if_neg not]
  rfl

theorem refresh_reports :
    ErrorReportedThenOk .refreshAccessDone s a fun r => FaultReported (storeFaultEvent a (some g) s.dyn) s r ∧
      r.dyn.totals = s.dyn.totals ∧ ∀ h, Gate.OnlyHolds (s.dyn.gates.get h) (r.dyn.gates.get h) := by
  have growth : LinkGrowth s.tables (counted s) (raise s.tables (storeFaultEvent a (some g) s.dyn) (counted s)) :=
    raise_growth _ _ _
  obtain ⟨-, -, -, -, -, -, -, -, -, -, -, -, -, -, -, moment, -⟩ := still_fields growth.frame.still
  exact errorReportedThenOk (kind := Job.isRefresh) (fun _ _ => rfl) canonical running rfl (refresh_failed reports) moment
    (refresh_stands running (raise_linked _ _ _).credited) rfl rfl
    ⟨faultReported_of_raise s _, raise_totals _ _ _, growth.frame.gates⟩

theorem refresh_error_goesOn {h : GateId} {hs : List GateId} (more : rest = h :: hs) :
    ∃ t, exec (.refreshAccessDone .error) s = .next t ∧ StoreAnswered s t a .error ∧ SameSurroundings s t ∧
      t.dyn.totals = s.dyn.totals ∧ Raised (storeFaultEvent a (some g) s.dyn) s t ∧ ControlByLinks s t ∧ BusKept s t ∧
      t.dyn.running =
        some ⟨.refresh d o (counts && t.dyn.mode == s.dyn.mode) h hs,
          ownWrite (slotPage h) (slotWord h 2) (stampWord (s.dyn.dams.get d).sequence (t.dyn.gates.get h))⟩ ∧
      ∀ x, Gate.OnlyHolds (s.dyn.gates.get x) (t.dyn.gates.get x) := by
  have growth : LinkGrowth s.tables (counted s) (raise s.tables (storeFaultEvent a (some g) s.dyn) (counted s)) :=
    raise_growth _ _ _
  have recorded : Recorded _ (raise s.tables (storeFaultEvent a (some g) s.dyn) (counted s)) := raise_recorded _ _ _
  have acted := raise_acted s.tables (storeFaultEvent a (some g) s.dyn) (counted s)
  have totals : (raise s.tables (storeFaultEvent a (some g) s.dyn) (counted s)).totals = s.dyn.totals := raise_totals _ _ _
  have stands := refresh_stands running (raise_linked s.tables (storeFaultEvent a (some g) s.dyn) (counted s)).credited
  have failed : answerEffect s.tables (.refresh d o counts g rest) a .error (counted s) =
      raise s.tables (storeFaultEvent a (some g) s.dyn) (counted s) := by
    rw [answerEffect, refresh_failed reports]
  generalize raise s.tables (storeFaultEvent a (some g) s.dyn) (counted s) = q at growth recorded acted totals stands failed
  have next : ((jobNow q (.refresh d o counts g rest)).answered a .error).next =
      some (.refresh d o (counts && q.mode == s.dyn.mode) h hs) := by
    rw [jobNow_of_running stands, more]
    rfl
  obtain ⟨t, done, stored, dyn⟩ := exec_goesOn (kind := Job.isRefresh) (instr := .refreshAccessDone) (fun _ _ => rfl)
    canonical running rfl failed next
  obtain ⟨surroundings, control, bus, raised⟩ := reported_goesOn growth.course recorded acted
    (fun _ _ _ _ writing => by simp [stands] at writing) stored.2.2.2.2 dyn
  have sequence : (q.dams.get d).sequence = (s.dyn.dams.get d).sequence := by
    obtain ⟨hold, same⟩ := growth.frame.dams d
    rw [same]
    rfl
  refine ⟨t, done, stored, surroundings, ?_, raised, control, bus, ?_, ?_⟩
  · rw [dyn]
    exact totals
  · rw [dyn, ← sequence]
    rfl
  · rw [dyn]
    exact growth.frame.gates

end Standing

end Refresh

/-- Settles O45: the next write, the completion by mode, and an ERROR as its report and then an OK. -/
theorem refreshAccessDone : Obligations.RefreshAccessDone := by
  intro s d o counts g rest a p canonical running made
  have isAdvanced : p = advanced s d := made
  subst isAdvanced
  refine ⟨fun h hs more => refresh_goesOn running canonical more, fun last resting => ?_, fun p1 made last run => ?_,
    fun p1 made last exiting more => ?_, refresh_error_of_faulted running canonical, refresh_reports running canonical,
    fun h hs more reports => refresh_error_goesOn running canonical reports more⟩
  · exact refresh_completes running canonical last (refreshComplete_resting resting) rfl
  · subst made
    exact refresh_completes running canonical last (refreshComplete_run run) rfl
  · subst made
    exact refresh_completes running canonical last (refreshComplete_exiting exiting more) rfl

end Sys2Proof.Machine
end

section
/-! The EXCEEDED flags and their events along an event (R37), the change of a gate's share in its dam's total (R26, R27) and
the entry into FAULTED (R16). -/

namespace Sys2Proof.Machine

/-! ### BOUND_EXCEEDED along an event -/

/-- BOUND_EXCEEDED(r) has been raised on the way from p to q, at a state m of that way with the totals and the limits of
q. -/
structure BoundNoted (c : Tables) (r : ReachId) (b : Bound) (p q : Dyn) : Prop where
  links : LinksActed c .boundExceeded (.reach r) q
  recorded : ∃ m, Course c p m ∧ Course c m q ∧ m.totals = q.totals ∧
    (∃ x, q.reaches.get r = { m.reaches.get r with exceeded := x }) ∧ Recorded ((boundEvent c r b m).record m.tick) q

/-- Every EXCEEDED flag that rose from p to q has raised its event, of the first bound that does not hold. -/
def BoundsNoted (c : Tables) (p q : Dyn) : Prop :=
  ∀ r, (p.reaches.get r).exceeded = false → (q.reaches.get r).exceeded = true →
    ∃ b, firstViolated c q.totals q.reaches r = some b ∧ BoundNoted c r b p q

section Noted

variable {c : Tables} {p q : Dyn}

theorem BoundsNoted.of_exceeded (same : ∀ r, (q.reaches.get r).exceeded = (p.reaches.get r).exceeded) :
    BoundsNoted c p q := by
  intro r clear set
  exact absurd ((same r).symm.trans set) (by simp [clear])

theorem BoundRaised.noted {r : ReachId} {b : Bound} (h : BoundRaised c r b p q) : BoundNoted c r b p q := by
  obtain ⟨m, before, after, recorded⟩ := h.recorded
  exact ⟨h.links, m, before.course, after.course, after.frame.totals.symm, after.frame.reaches r, recorded⟩

theorem BoundsNoted.later {q' : Dyn} (h : BoundsNoted c p q) (course : Course c q q') (rivers : q'.rivers = q.rivers) :
    BoundsNoted c p q' := by
  obtain ⟨totals, reaches⟩ := rivers_fields rivers
  intro r clear set
  rw [reaches] at set
  obtain ⟨b, violated, noted⟩ := h r clear set
  obtain ⟨m, before, after, sameTotals, reach, recorded⟩ := noted.recorded
  refine ⟨b, ?_, noted.links.along course, m, before, after.trans course, sameTotals.trans totals.symm, ?_,
    recorded.along course⟩
  · rw [totals, reaches]
    exact violated
  · rw [reaches]
    exact reach

theorem BoundsNoted.earlier {p' : Dyn} (h : BoundsNoted c p q) (course : Course c p' p)
    (same : ∀ r, (p.reaches.get r).exceeded = (p'.reaches.get r).exceeded) : BoundsNoted c p' q := by
  intro r clear set
  obtain ⟨b, violated, noted⟩ := h r ((same r).trans clear) set
  obtain ⟨m, before, after, rest⟩ := noted.recorded
  exact ⟨b, violated, noted.links, m, course.trans before, after, rest⟩

theorem reevaluateAll_noted (c : Tables) (ds : List ReachId) (p : Dyn) : BoundsNoted c p (reevaluateAll c ds p) := by
  intro r clear set
  have growth : LinkGrowth c p (reevaluateAll c ds p) := reevaluateAll_growth c ds p
  have flag := reevaluateAll_reaches c ds p r
  rw [flag] at set
  by_cases listed : r ∈ ds
  · simp only [if_pos listed] at set
    obtain ⟨b, violated⟩ := Option.isSome_iff_exists.mp set
    exact ⟨b, (firstViolated_frame c growth.frame r).trans violated, (reevaluateAll_raises listed clear violated).noted⟩
  · simp [listed, clear] at set

/-- The events are reported as the claims say (Tables 10-1 and 11-9). -/
theorem BoundsNoted.reported {s t : State} (noted : BoundsNoted t.tables p q) (mode : p.mode = s.dyn.mode)
    (tick : p.tick = s.dyn.tick) (exceeded : ∀ r, (p.reaches.get r).exceeded = (s.dyn.reaches.get r).exceeded)
    (totals : t.dyn.totals = q.totals) (reaches : t.dyn.reaches = q.reaches) (modeEnd : t.dyn.mode = q.mode)
    (recorded : ∀ x, Recorded x q → Recorded x t.dyn)
    (acted : ∀ kind sub, LinksActed t.tables kind sub q → LinksActed t.tables kind sub t.dyn) : BoundsReported s t := by
  intro r clear set
  rw [reaches] at set
  obtain ⟨b, violated, links, m, before, after, sameTotals, reach, formed⟩ := noted r ((exceeded r).trans clear) set
  obtain ⟨-, -, -, -, -, -, -, -, -, -, -, -, -, -, tickThere, -⟩ := still_fields before.still
  have totalsThere : m.totals = t.dyn.totals := sameTotals.trans totals.symm
  refine ⟨acted _ _ links, b, ?violated, _, recorded _ formed, rfl, rfl, rfl, rfl, rfl, rfl, tickThere.trans tick, ?detail,
    ?context, ?value⟩
  case violated =>
    rw [totals, reaches]
    exact violated
  case detail =>
    obtain ⟨x, same⟩ := reach
    rw [reaches, same]
    cases b <;> rfl
  case context =>
    obtain same | hold := before.mode_eq_or_hold
    · exact .inl (congrArg Context.mode (same.trans mode))
    · have ends : q.mode = m.mode := after.mode_eq_or_hold.elim id (·.trans hold.symm)
      exact .inr (congrArg Context.mode (modeEnd.trans ends).symm)
  case value =>
    intro low high
    rw [← totalsThere] at low high ⊢
    exact if_pos ⟨low, high⟩

theorem Settled.boundsReported {s t : State} (settled : Settled s t q) (noted : BoundsNoted t.tables p q)
    (mode : p.mode = s.dyn.mode) (tick : p.tick = s.dyn.tick)
    (exceeded : ∀ r, (p.reaches.get r).exceeded = (s.dyn.reaches.get r).exceeded) : BoundsReported s t :=
  noted.reported mode tick exceeded settled.totals settled.reaches settled.mode (fun _ => settled.recorded)
    fun _ _ => settled.linksActed

end Noted

/-! ### A gate's share in its dam's total -/

theorem mem_reachesOfDam {d : DamId} {r : ReachId} : r ∈ reachesOfDam d ↔ d.val = r.val ∨ d.val = r.val + 1 := by
  unfold reachesOfDam
  split
  case isTrue above =>
    simp only [List.mem_cons, List.not_mem_nil, or_false, Fin.ext_iff]
    omega
  case isFalse bottom =>
    simp only [List.mem_cons, List.not_mem_nil, or_false, Fin.ext_iff]
    omega

theorem inDam_iff {x : GateConfig} {d : DamId} : x.inDam d = true ↔ x.dam.toNat = d.val := by
  simp [GateConfig.inDam]

/-- A change of a gate's share touches the reaches with a bound in its dam's total. -/
theorem reachOfGate_iff {x : GateConfig} {r : ReachId} :
    reachOfGate x r = true ↔ ∃ d, x.dam? = some d ∧ r ∈ reachesOfDam d := by
  constructor
  · intro touched
    simp only [reachOfGate, Bool.and_eq_true, decide_eq_true_eq, Bool.or_eq_true, beq_iff_eq] at touched
    obtain ⟨inside, near⟩ := touched
    exact ⟨⟨x.dam.toNat, inside⟩, dif_pos inside, mem_reachesOfDam.mpr near⟩
  · rintro ⟨d, dam, near⟩
    have own : x.dam.toNat = d.val := inDam_iff.mp (inDam_of_dam? dam)
    have near := mem_reachesOfDam.mp near
    simpa [reachOfGate, own, d.isLt] using near

section Share

variable (c : Tables) (g : GateId) (old new : Nat) (p : Dyn)

theorem changeGateTotal_totals : (changeGateTotal c g old new p).totals = movedTotals c g old new p.totals :=
  (changeGateTotal_growth c g old new p).frame.totals

theorem changeTotal_reaches (d : DamId) (r : ReachId) : (changeTotal c d old new p).reaches.get r =
    { p.reaches.get r with
      exceeded :=
        if r ∈ reachesOfDam d then
          (firstViolated c (Table.put p.totals d (adjustTotal (p.totals.get d) old new)) p.reaches r).isSome
        else (p.reaches.get r).exceeded } :=
  reevaluateAll_reaches c (reachesOfDam d)
    { p with totals := Table.put p.totals d (adjustTotal (p.totals.get d) old new) } r

theorem changeGateTotal_reaches (r : ReachId) : (changeGateTotal c g old new p).reaches.get r =
    { p.reaches.get r with
      exceeded :=
        if reachOfGate (c.gates.get g) r then
          (firstViolated c (changeGateTotal c g old new p).totals (changeGateTotal c g old new p).reaches r).isSome
        else (p.reaches.get r).exceeded } := by
  rw [firstViolated_frame c (changeGateTotal_growth c g old new p).frame r]
  unfold changeGateTotal movedTotals
  cases dam : (c.gates.get g).dam? with
  | some d =>
    have touched : reachOfGate (c.gates.get g) r = true ↔ r ∈ reachesOfDam d := by
      simp [reachOfGate_iff, dam]
    rw [if_congr touched rfl rfl]
    exact changeTotal_reaches c old new p d r
  | none =>
    have untouched : ¬reachOfGate (c.gates.get g) r = true := by
      simp [reachOfGate_iff, dam]
    rw [if_neg untouched]

theorem changeGateTotal_noted : BoundsNoted c p (changeGateTotal c g old new p) := by
  unfold changeGateTotal
  split
  case h_1 d dam =>
    have noted := reevaluateAll_noted c (reachesOfDam d)
      { p with totals := Table.put p.totals d (adjustTotal (p.totals.get d) old new) }
    exact (noted.later (markReach_growth c d _).course rfl).earlier (totals_course c _ p) fun _ => rfl
  case h_2 => exact .of_exceeded fun _ => rfl

end Share

end Sys2Proof.Machine
end

section
/-! The entry of a gate into FAULTED with its report (R16 to R18), at the expiry of its lag timer and at a failed slot
write; O8, O49. -/

namespace Sys2Proof.Machine

/-! ### The entry into FAULTED -/

/-- What an entry of gate g into FAULTED makes, with its events and the actions of the links on them. -/
structure FaultedWith (c : Tables) (g : GateId) (cause : FaultCause) (p q : Dyn) : Prop where
  course : Course c p q
  gate : ((p.gates.get g).faulted cause).OnlyHolds (q.gates.get g)
  others : ∀ h, h ≠ g → (p.gates.get h).OnlyHolds (q.gates.get h)
  queue : q.queue.Sublist p.queue
  gone : g ∉ q.queue
  dams : ∀ d, ∃ h, q.dams.get d = { p.dams.get d with hold := h }
  totals : q.totals =
    movedTotals c g (releaseOf c g (p.gates.get g).target) (releaseOf c g (p.gates.get g).command) p.totals
  reaches : ∀ r, q.reaches.get r =
    { p.reaches.get r with
      exceeded :=
        if releaseOf c g (p.gates.get g).target ≠ releaseOf c g (p.gates.get g).command ∧
            reachOfGate (c.gates.get g) r = true then
          (firstViolated c q.totals q.reaches r).isSome
        else (p.reaches.get r).exceeded }
  noted : BoundsNoted c p q

section Fault

variable {c : Tables} {g : GateId} {cause : FaultCause} {p q : Dyn}

theorem putGate_faulted_gates (h : GateId) : (putGate g ((p.gates.get g).faulted cause) p).gates.get h =
    if h = g then (p.gates.get g).faulted cause else p.gates.get h := putGate_get _ _ _ _

theorem faulted_dequeued : g ∉ (putGate g ((p.gates.get g).faulted cause) p).queue := by
  rw [putGate_queue]
  simp [Gate.faulted]

/-- With nothing more done than the record put, but link actions: the case without a change of release. -/
theorem faultedWith_of_growth {x : Dyn} (growth : LinkGrowth c x q)
    (gates : x.gates = (putGate g ((p.gates.get g).faulted cause) p).gates)
    (queue : x.queue = (putGate g ((p.gates.get g).faulted cause) p).queue) (dams : x.dams = p.dams) :
    ((p.gates.get g).faulted cause).OnlyHolds (q.gates.get g) ∧
      (∀ h, h ≠ g → (p.gates.get h).OnlyHolds (q.gates.get h)) ∧ q.queue.Sublist p.queue ∧ g ∉ q.queue ∧
      ∀ d, ∃ h, q.dams.get d = { p.dams.get d with hold := h } := by
  refine ⟨?_, fun h other => ?_, ?_, fun queued => ?_, fun d => ?_⟩
  · have held := growth.frame.gates g
    rw [gates, putGate_faulted_gates, if_pos rfl] at held
    exact held
  · have held := growth.frame.gates h
    rw [gates, putGate_faulted_gates, if_neg other] at held
    exact held
  · refine growth.frame.queue.trans ?_
    rw [queue, putGate_queue]
    split
    · exact .refl _
    · exact List.filter_sublist
  · have stillQueued := growth.frame.queue.subset queued
    rw [queue] at stillQueued
    exact faulted_dequeued stillQueued
  · rw [← dams]
    exact growth.frame.dams d

theorem enterFaulted_faultedWith (c : Tables) (g : GateId) (cause : FaultCause) (p : Dyn) :
    FaultedWith c g cause p (enterFaulted c g cause p) := by
  have course := enterFaulted_course c g cause p
  by_cases same : releaseOf c g (p.gates.get g).target = releaseOf c g (p.gates.get g).command
  · have put : enterFaulted c g cause p = putGate g ((p.gates.get g).faulted cause) p := by
      simp only [enterFaulted, if_pos same]
    obtain ⟨totals, reaches⟩ := rivers_fields (putGate_rivers g ((p.gates.get g).faulted cause) p)
    rw [put] at course ⊢
    obtain ⟨gate, others, queue, gone, dams⟩ := faultedWith_of_growth (p := p) (q := putGate g ((p.gates.get g).faulted cause) p)
      (.refl c _) rfl rfl (putGate_dams _ _ _)
    exact
      { course, gate, others, queue, gone, dams
        totals := by
          rw [totals, same, movedTotals_self]
        reaches := fun r => by
          rw [if_neg (fun moved => moved.1 same), reaches]
        noted := .of_exceeded fun r => by rw [reaches] }
  · have put : enterFaulted c g cause p =
        changeGateTotal c g (releaseOf c g (p.gates.get g).target) (releaseOf c g (p.gates.get g).command)
          (putGate g ((p.gates.get g).faulted cause) p) := by
      simp only [enterFaulted, if_neg same]
    obtain ⟨totals, reaches⟩ := rivers_fields (putGate_rivers g ((p.gates.get g).faulted cause) p)
    rw [put] at course ⊢
    obtain ⟨gate, others, queue, gone, dams⟩ := faultedWith_of_growth (p := p) (changeGateTotal_growth c g
      (releaseOf c g (p.gates.get g).target) (releaseOf c g (p.gates.get g).command)
      (putGate g ((p.gates.get g).faulted cause) p)) rfl rfl (putGate_dams _ _ _)
    exact
      { course, gate, others, queue, gone, dams
        totals := by
          rw [changeGateTotal_totals, totals]
        reaches := fun r => by
          have moved := changeGateTotal_reaches c g (releaseOf c g (p.gates.get g).target)
            (releaseOf c g (p.gates.get g).command) (putGate g ((p.gates.get g).faulted cause) p) r
          rw [reaches] at moved
          refine moved.trans ?_
          simp only [ne_eq, same, not_false_eq_true, true_and]
        noted := (changeGateTotal_noted c g _ _ _).earlier (.of_around (putGate_around _ _ _)) fun r => by rw [reaches] }

/-- The event of the fault follows it. -/
theorem FaultedWith.raised (h : FaultedWith c g cause p q) (e : Event) : FaultedWith c g cause p (raise c e q) := by
  have growth : LinkGrowth c q (raise c e q) := raise_growth c e q
  have rivers := raise_rivers c e q
  obtain ⟨totals, reaches⟩ := rivers_fields rivers
  exact
    { course := h.course.trans growth.course
      gate := h.gate.trans (growth.frame.gates g)
      others := fun x other => (h.others x other).trans (growth.frame.gates x)
      queue := growth.frame.queue.trans h.queue
      gone := fun queued => h.gone (growth.frame.queue.subset queued)
      dams := fun d => by
        obtain ⟨x, first⟩ := h.dams d
        obtain ⟨y, second⟩ := growth.frame.dams d
        exact ⟨y, by rw [second, first]⟩
      totals := totals.trans h.totals
      reaches := fun r => by
        rw [totals, reaches]
        exact h.reaches r
      noted := h.noted.later growth.course rivers }

/-- A gate that only gains holds keeps what an event's record shows of it. -/
theorem Gate.OnlyHolds.shown {x y : Gate} (h : x.OnlyHolds y) :
    y.feedback = x.feedback ∧ y.command = x.command ∧ y.target = x.target ∧ y.faultCause = x.faultCause ∧
      (x.state = .faulted → y.state = .faulted) := by
  obtain rfl | ⟨-, cs, -, -, -, rfl⟩ := h
  · exact ⟨rfl, rfl, rfl, rfl, id⟩
  · refine ⟨rfl, rfl, rfl, rfl, fun faulted => ?_⟩
    simp [Gate.withCauses, faulted]

end Fault

/-! ### In the words of the claims -/

section Claims

variable {s t : State} {g : GateId} {cause : FaultCause} {p q : Dyn}

theorem totalsMoved_of_moved {old new : Nat} (totals : t.dyn.totals = movedTotals s.tables g old new s.dyn.totals) :
    TotalsMoved s t (s.tables.gates.get g).dam old new := by
  intro d
  rw [totals, movedTotals_get]
  by_cases own : (s.tables.gates.get g).dam.toNat = d.val
  · rw [if_pos (inDam_iff.mpr own), if_pos own, add_sub_assoc]
  · rw [if_neg (fun inDam => own (inDam_iff.mp inDam)), if_neg own, add_zero]

theorem FaultedWith.exceededAgrees (h : FaultedWith s.tables g cause p q) (gates : p.gates = s.dyn.gates)
    (reachesStart : p.reaches = s.dyn.reaches) (totals : t.dyn.totals = q.totals) (reaches : t.dyn.reaches = q.reaches) :
    ExceededAgrees s.tables s t (reachOfFault s g) := by
  intro r
  have agrees := h.reaches r
  rw [gates, reachesStart] at agrees
  rw [totals, reaches]
  refine agrees.trans ?_
  simp [reachOfFault]

end Claims

end Sys2Proof.Machine
end

section
/-! The expiry of a lag timer (R17), and a failed slot write (R18); O8, O49. -/

namespace Sys2Proof.Machine

section Lag

variable {s t : State} {g : GateId}

/-- What the claims say of a fault, of the state after the command. -/
theorem Settled.faulted {cause : FaultCause} {q : Dyn} (settled : Settled s t q) (tables : t.tables = s.tables)
    (faulted : FaultedWith s.tables g cause (counted s) q) :
    OnlyEventsBeside s t ∧ OthersOnlyHeld s t g ∧ BusKept s t ∧
      ((s.dyn.gates.get g).faulted cause).OnlyHolds (t.dyn.gates.get g) ∧ g ∉ t.dyn.queue ∧
      TotalsMoved s t (s.tables.gates.get g).dam (releaseOf s.tables g (s.dyn.gates.get g).target)
        (releaseOf s.tables g (s.dyn.gates.get g).command) ∧
      ExceededAgrees s.tables s t (reachOfFault s g) := by
  have still := faulted.course.still
  obtain ⟨-, -, -, -, -, -, -, -, -, hand, answer, -⟩ := still_fields still
  have setting : q.setting = s.dyn.setting := setting_of_still (p := counted s) still
  have noted : BoundsNoted t.tables (counted s) q := tables.symm ▸ faulted.noted
  refine ⟨?_, fun h other => ?_, settled.bus hand answer, ?_, ?_, ?_, ?_⟩
  · exact onlyEventsBeside_of_course (p := counted s) settled tables faulted.course setting rfl (fun _ => rfl) faulted.dams
      (fun r => ⟨_, faulted.reaches r⟩) (settled.boundsReported noted rfl rfl fun _ => rfl) faulted.queue
  · rw [settled.gates]
    exact faulted.others h other
  · rw [settled.gates]
    exact faulted.gate
  · rw [settled.queue]
    exact faulted.gone
  · exact totalsMoved_of_moved (settled.totals.trans faulted.totals)
  · exact faulted.exceededAgrees rfl rfl settled.totals settled.reaches

/-- The event of a lag fault shows the gate as it was, but for its command. -/
theorem feedbackLagEvent_faulted {c : Tables} {p q : Dyn} {cause : FaultCause} (faulted : FaultedWith c g cause p q)
    (before : GateState) : feedbackLagEvent g before q = feedbackLagEvent g before p := by
  obtain ⟨feedback, command, -⟩ := faulted.gate.shown
  simp only [feedbackLagEvent, feedback, command, Gate.faulted]

theorem lagExpires_faultedWith (c : Tables) (g : GateId) (p : Dyn) :
    FaultedWith c g .lag p (lagExpires c g p) := (enterFaulted_faultedWith c g .lag p).raised _

theorem lagExpires_recorded (c : Tables) (g : GateId) (p : Dyn) :
    Recorded ((feedbackLagEvent g (p.gates.get g).state p).record p.tick) (lagExpires c g p) := by
  have faulted := enterFaulted_faultedWith c g .lag p
  obtain ⟨-, -, -, -, -, -, -, -, -, -, -, -, -, -, tick, -⟩ := still_fields faulted.course.still
  rw [← feedbackLagEvent_faulted faulted, ← tick]
  exact raise_recorded c _ _

theorem lagExpires_acted (c : Tables) (g : GateId) (p : Dyn) :
    LinksActed c .feedbackLag (.gate g) (lagExpires c g p) :=
  raise_acted c (feedbackLagEvent g (p.gates.get g).state (enterFaulted c g .lag p)) _

end Lag

/-- Settles O8: the fault, then its event. -/
theorem lagExpiryFaultsTheGate : Obligations.LagExpiryFaultsTheGate := by
  intro s g idle timer _
  have due : lagDue g s.tables s.dyn = true := by
    rw [lagDue, timer]
    rfl
  have faulted := lagExpires_faultedWith s.tables g (counted s)
  obtain ⟨t, next, tables, settled⟩ := settled_of_inEventIf (i := .lagTimerExpiry g) (due := lagDue g)
    (f := fun c => lagExpires c g) idle rfl due faulted.course
  obtain ⟨beside, others, bus, gate, gone, totals, exceeded⟩ := settled.faulted tables faulted
  refine ⟨t, next, beside, others, bus, gate, gone, totals, exceeded, ?_, ?_⟩
  · exact settled.recorded (lagExpires_recorded s.tables g (counted s))
  · rw [tables]
    exact settled.linksActed (lagExpires_acted s.tables g (counted s))

section Slot

variable {s : State} {g : GateId} {stamp : Bool} {a : Access} {e : Event}

theorem slot_answered (running : s.dyn.running = some ⟨.slot g stamp, a⟩) (ans : StoreAnswer) :
    (jobNow (counted s) (.slot g stamp)).answered a ans = .slot g stamp := by
  refine (congrArg (Job.answered · a ans) (jobNow_of_running (p := counted s) running _)).trans ?_
  cases ans <;> rfl

/-- A link that enters HOLD leaves a slot job as it stands. -/
theorem slot_stands {c : Tables} {q : Dyn} (course : Course c (counted s) q)
    (running : s.dyn.running = some ⟨.slot g stamp, a⟩) : q.running = some ⟨.slot g stamp, a⟩ := by
  have now : (counted s).running = some ⟨.slot g stamp, a⟩ := running
  obtain same | uncredited := course.running
  · exact same.trans now
  · rw [uncredited, uncredit_running, now]
    rfl

theorem slot_uncredited (running : s.dyn.running = some ⟨.slot g stamp, a⟩) :
    (uncredit s.dyn).running = s.dyn.running := by
  rw [uncredit_running, running]
  rfl

theorem accessOf_stamp (c : Tables) (p : Dyn) {d : DamId} (own : (c.gates.get g).inDam d = true) :
    accessOf c p (.slot g true) =
      ownWrite (slotPage g) (slotWord g 2) (stampWord (p.dams.get d).sequence (p.gates.get g)) := by
  simp only [accessOf, slotStamp, dam?_of_inDam own]
  rfl

/-- What a failed slot write of gate g that is not FAULTED leaves (R18): the fault where the gate is in service, and the
event. -/
structure SlotFailed (s : State) (g : GateId) (e : Event) (q : Dyn) : Prop where
  course : Course s.tables (counted s) q
  recorded : Recorded (e.record s.dyn.tick) q
  acted : LinksActed s.tables e.kind e.subject q
  dams : ∀ d, ∃ h, q.dams.get d = { s.dyn.dams.get d with hold := h }
  reaches : ∀ r, ∃ b, q.reaches.get r = { s.dyn.reaches.get r with exceeded := b }
  noted : BoundsNoted s.tables (counted s) q
  queue : q.queue.Sublist s.dyn.queue
  others : ∀ h, h ≠ g → (s.dyn.gates.get h).OnlyHolds (q.gates.get h)
  out : (s.dyn.gates.get g).state = .outOfService →
    q.totals = s.dyn.totals ∧ q.gates.get g = s.dyn.gates.get g
  fault : (s.dyn.gates.get g).state ≠ .outOfService → FaultedWith s.tables g .store (counted s) q

/-- A gate out of service gains no hold. -/
theorem Gate.OnlyHolds.eq_of_out {x y : Gate} (h : x.OnlyHolds y) (out : x.state = .outOfService) : y = x := by
  obtain same | ⟨inService, -⟩ := h
  · exact same
  · simp [Gate.inService, out] at inService

theorem slotWriteFailed_fails (event : e = { storeFaultEvent a (some g) s.dyn with
      context := .gate (if (s.dyn.gates.get g).state = .outOfService then .outOfService else .faulted) })
    (reports : (s.dyn.gates.get g).state ≠ .faulted) :
    SlotFailed s g e (slotWriteFailed s.tables g a (counted s)) := by
  by_cases out : (s.dyn.gates.get g).state = .outOfService
  · have raises : slotWriteFailed s.tables g a (counted s) = raise s.tables e (counted s) := by
      have is : ((counted s).gates.get g).state = .outOfService := out
      have shown : storeFaultEvent a (some g) (counted s) = e := by
        rw [event, if_pos out, ← out]
        rfl
      simp only [slotWriteFailed, is, shown]
    have growth : LinkGrowth s.tables (counted s) (raise s.tables e (counted s)) := raise_growth _ _ _
    have reaches : (raise s.tables e (counted s)).reaches = s.dyn.reaches := raise_reaches _ _ _
    rw [raises]
    exact
      { course := growth.course
        recorded := raise_recorded _ _ _
        acted := raise_acted _ _ _
        dams := growth.frame.dams
        reaches := growth.frame.reaches
        noted := .of_exceeded fun r => by
          rw [reaches]
          rfl
        queue := growth.frame.queue
        others := fun h _ => growth.frame.gates h
        out := fun _ => ⟨raise_totals _ _ _, (growth.frame.gates g).eq_of_out out⟩
        fault := fun other => absurd out other }
  · have faulted := enterFaulted_faultedWith s.tables g .store (counted s)
    have raises : slotWriteFailed s.tables g a (counted s) =
        raise s.tables e (enterFaulted s.tables g .store (counted s)) := by
      obtain ⟨-, -, -, -, isFaulted⟩ := faulted.gate.shown
      have shown : storeFaultEvent a (some g) (enterFaulted s.tables g .store (counted s)) = e := by
        rw [event, if_neg out, storeFaultEvent, isFaulted rfl]
        rfl
      have notFaulted : ((counted s).gates.get g).state ≠ .faulted := reports
      have notOut : ((counted s).gates.get g).state ≠ .outOfService := out
      unfold slotWriteFailed
      split
      case h_1 is => exact absurd is notFaulted
      case h_2 is => exact absurd is notOut
      all_goals
        dsimp only
        rw [shown]
    obtain ⟨-, -, -, -, -, -, -, -, -, -, -, -, -, -, tick, -⟩ := still_fields faulted.course.still
    have recorded := raise_recorded s.tables e (enterFaulted s.tables g .store (counted s))
    rw [tick] at recorded
    have reported := faulted.raised e
    rw [raises]
    exact
      { course := reported.course
        recorded := recorded
        acted := raise_acted _ _ _
        dams := reported.dams
        reaches := fun r => ⟨_, reported.reaches r⟩
        noted := reported.noted
        queue := reported.queue
        others := reported.others
        out := fun is => absurd is out
        fault := fun _ => reported }

/-- The gate and its dam's total as the claims give them, of any state that shows what the failed write left. -/
theorem SlotFailed.gateFaulted {t : State} {q : Dyn} (failed : SlotFailed s g e q) (gates : t.dyn.gates = q.gates)
    (queue : t.dyn.queue = q.queue) (totals : t.dyn.totals = q.totals) (reaches : t.dyn.reaches = q.reaches)
    (inService : (s.dyn.gates.get g).state ≠ .outOfService) :
    g ∉ t.dyn.queue ∧ ExceededAgrees s.tables s t (reachOfFault s g) ∧
      TotalsMoved s t (s.tables.gates.get g).dam (releaseOf s.tables g (s.dyn.gates.get g).target)
        (releaseOf s.tables g (s.dyn.gates.get g).command) ∧
      ((s.dyn.gates.get g).faulted .store).OnlyHolds (t.dyn.gates.get g) := by
  have faulted := failed.fault inService
  refine ⟨?_, faulted.exceededAgrees rfl rfl totals reaches, totalsMoved_of_moved (totals.trans faulted.totals), ?_⟩
  · rw [queue]
    exact faulted.gone
  · rw [gates]
    exact faulted.gate

variable (running : s.dyn.running = some ⟨.slot g stamp, a⟩) (canonical : StoreCanonical s)
include running canonical

theorem slot_goesOn (first : stamp = false) {d : DamId} (own : (s.tables.gates.get g).inDam d = true) :
    ∃ t, exec (.slotWriteAccessDone .ok) s = .next t ∧ StoreAnswered s t a .ok ∧
      GoesOn s t (.slot g true)
        (ownWrite (slotPage g) (slotWord g 2) (stampWord (s.dyn.dams.get d).sequence (s.dyn.gates.get g))) := by
  subst first
  have next : ((jobNow (counted s) (.slot g false)).answered a .ok).next = some (.slot g true) := by
    rw [slot_answered running]
    rfl
  obtain ⟨t, done, stored, dyn⟩ := exec_goesOn (kind := Job.isSlot) (instr := .slotWriteAccessDone) (ans := .ok)
    (q := counted s) (fun _ _ => rfl) canonical running rfl rfl next
  rw [accessOf_stamp _ _ own] at dyn
  exact ⟨t, done, stored, dyn⟩

theorem slot_completes (last : stamp = true) :
    ∃ t, exec (.slotWriteAccessDone .ok) s = .next t ∧ StoreAnswered s t a .ok ∧
      GrantedByClass s.tables { counted s with running := none } t.dyn := by
  subst last
  exact exec_completes (kind := Job.isSlot) (instr := .slotWriteAccessDone) (q := counted s) (fun _ _ => rfl) canonical
    running rfl rfl (slot_answered running .ok) rfl (fun _ => rfl) rfl

/-- For a FAULTED gate an ERROR acts as an OK (R18). -/
theorem slot_error_of_faulted (faulted : (s.dyn.gates.get g).state = .faulted) :
    ∃ t, exec (.slotWriteAccessDone .ok) s = .next t ∧
      ∃ u, exec (.slotWriteAccessDone .error) s = .next u ∧ u.dyn = t.dyn := by
  have now := slot_answered running
  have failed : accessFailed s.tables (.slot g stamp) a (counted s) = counted s := by
    have is : ((counted s).gates.get g).state = .faulted := faulted
    simp only [accessFailed, slotWriteFailed, is]
  obtain ⟨t, ok, -, okDyn⟩ := exec_accessDone (kind := Job.isSlot) (instr := .slotWriteAccessDone) (ans := .ok)
    (fun _ => rfl) canonical running rfl
  obtain ⟨u, error, -, errorDyn⟩ := exec_accessDone (kind := Job.isSlot) (instr := .slotWriteAccessDone) (ans := .error)
    (fun _ => rfl) canonical running rfl
  refine ⟨t, ok, u, error, ?_⟩
  rw [okDyn, errorDyn, takeAnswer_eq, takeAnswer_eq, answerEffect, answerEffect, failed, now, now]
  rfl

variable {q : Dyn} (failed : SlotFailed s g e q) (makes : slotWriteFailed s.tables g a (counted s) = q)
include failed makes

theorem slot_reports :
    ErrorReportedThenOk .slotWriteAccessDone s a fun r => FaultReported e s r ∧ OthersOnlyHeld s r g ∧
      ((s.dyn.gates.get g).state = .outOfService →
        r.dyn.totals = s.dyn.totals ∧ r.dyn.gates.get g = s.dyn.gates.get g) ∧
      ((s.dyn.gates.get g).state ≠ .outOfService →
        g ∉ r.dyn.queue ∧ ExceededAgrees s.tables s r (reachOfFault s g) ∧
        TotalsMoved s r (s.tables.gates.get g).dam (releaseOf s.tables g (s.dyn.gates.get g).target)
          (releaseOf s.tables g (s.dyn.gates.get g).command) ∧
        ((s.dyn.gates.get g).faulted .store).OnlyHolds (r.dyn.gates.get g)) := by
  obtain ⟨-, -, -, -, -, -, -, -, -, -, -, -, -, -, -, moment, -⟩ := still_fields failed.course.still
  have stands := slot_stands failed.course running
  have bounds : BoundsReported s (withReport s q) :=
    failed.noted.reported (t := withReport s q) rfl rfl (fun _ => rfl) rfl rfl rfl (fun _ recorded => recorded)
      fun _ _ acted => acted
  have reported : FaultReported e s (withReport s q) := by
    refine faultReported_of_course failed.course failed.recorded failed.acted failed.dams failed.reaches bounds
      failed.queue ?_
    rw [slot_uncredited running, ite_self, stands, running]
  exact errorReportedThenOk (kind := Job.isSlot) (k := .slot g stamp) (fun _ _ => rfl) canonical running rfl makes moment
    stands rfl rfl ⟨reported, failed.others, failed.out, failed.gateFaulted (t := withReport s q) rfl rfl rfl rfl⟩

theorem slot_error_goesOn (first : stamp = false) :
    ∃ t, exec (.slotWriteAccessDone .error) s = .next t ∧ StoreAnswered s t a .error ∧ SameSurroundings s t ∧
      ControlByLinks s t ∧ BusKept s t ∧ OthersOnlyHeld s t g ∧ Raised e s t ∧
      (∀ d, (s.tables.gates.get g).inDam d = true → t.dyn.running =
        some ⟨.slot g true,
          ownWrite (slotPage g) (slotWord g 2) (stampWord (s.dyn.dams.get d).sequence (t.dyn.gates.get g))⟩) ∧
      ((s.dyn.gates.get g).state = .outOfService →
        t.dyn.totals = s.dyn.totals ∧ t.dyn.gates.get g = s.dyn.gates.get g) ∧
      ((s.dyn.gates.get g).state ≠ .outOfService →
        g ∉ t.dyn.queue ∧ ExceededAgrees s.tables s t (reachOfFault s g) ∧
        TotalsMoved s t (s.tables.gates.get g).dam (releaseOf s.tables g (s.dyn.gates.get g).target)
          (releaseOf s.tables g (s.dyn.gates.get g).command) ∧
        ((s.dyn.gates.get g).faulted .store).OnlyHolds (t.dyn.gates.get g)) := by
  subst first
  have stands := slot_stands failed.course running
  have next : ((jobNow q (.slot g false)).answered a .error).next = some (.slot g true) := by
    rw [jobNow_of_running stands]
    rfl
  obtain ⟨t, done, stored, dyn⟩ := exec_goesOn (kind := Job.isSlot) (instr := .slotWriteAccessDone) (ans := .error)
    (fun _ _ => rfl) canonical running rfl makes next
  have tables : t.tables = s.tables := stored.2.2.2.2
  obtain ⟨surroundings, control, bus, raised⟩ := reported_goesOn failed.course failed.recorded failed.acted
    (fun _ _ _ _ writing => by simp [stands] at writing) tables dyn
  refine ⟨t, done, stored, surroundings, control, bus, fun h other => ?_, raised, fun d own => ?_, fun out => ?_, ?_⟩
  · rw [dyn]
    exact failed.others h other
  · obtain ⟨hold, same⟩ := failed.dams d
    have sequence : (q.dams.get d).sequence = (s.dyn.dams.get d).sequence := by rw [same]
    rw [dyn, accessOf_stamp _ _ own, sequence]
  · rw [dyn]
    exact failed.out out
  · exact failed.gateFaulted (by rw [dyn]) (by rw [dyn]) (by rw [dyn]) (by rw [dyn])

end Slot

/-- Settles O49: an OK goes on or ends the job, and an ERROR reports first. -/
theorem slotWriteAccessDone : Obligations.SlotWriteAccessDone := by
  intro s g stamp a e canonical running event
  have fails := slotWriteFailed_fails event
  exact ⟨fun d first own => slot_goesOn running canonical first own, slot_completes running canonical,
    slot_error_of_faulted running canonical, fun reports => slot_reports running canonical (fails reports) rfl,
    fun reports first => slot_error_goesOn running canonical (fails reports) rfl first⟩

end Sys2Proof.Machine
end

section
/-! The end of the exit pass where no link acts (R110, R119); O46. -/

namespace Sys2Proof.Machine

/-! ### Links that have no action -/

section NoAction

variable {c : Tables} (none : ∀ l, (c.links.get l).action = .none)
include none

theorem offerLinks_of_noAction (kind : EventKind) (sub : Subject) (p : Dyn) : offerLinks c kind sub p = p :=
  foldl_keeps id _ (fun p l => by
    split
    · simp only [linkAct, none l]
    · rfl) _ p

theorem raise_of_noAction (e : Event) (p : Dyn) : raise c e p = formRecord (e.record p.tick) p :=
  offerLinks_of_noAction none _ _ _

theorem Course.controls_of_noAction {p q : Dyn} (h : Course c p q) :
    q.mode = p.mode ∧ q.offer = p.offer ∧ q.progress = p.progress := by
  obtain same | ⟨-, -, -, -, l, action⟩ := h.control
  · exact same
  · exact absurd ((none l).symm.trans action) (by decide)

end NoAction

/-! ### The MODE causes along a scan -/

/-- The gates that carry MODE. -/
def Dyn.modeCauses (p : Dyn) : GateId → Bool := fun g => (p.gates.get g).causes.mode

theorem grant_modeCauses (c : Tables) (g : GateId) (p : Dyn) : (grant c g p).modeCauses = p.modeCauses := by
  funext h
  simp only [Dyn.modeCauses, grant_get]
  split
  case isTrue same =>
    subst same
    rw [(Gate.stepped_spec _ _ _ _).causes]
    split <;> rfl
  case isFalse => rfl

theorem loseInterlock_modeCauses (c : Tables) (g : GateId) (dir : Direction) (k : CondId) (p : Dyn) :
    (loseInterlock c g dir k p).modeCauses = p.modeCauses := by
  funext h
  simp only [Dyn.modeCauses, loseInterlock_get]
  split
  case isTrue same =>
    subst same
    rfl
  case isFalse => rfl

theorem examine_modeCauses (c : Tables) : (l : List GateId) → (p : Dyn) →
    (examine c l p).dyn.modeCauses = p.modeCauses
  | [], _ => rfl
  | g :: rest, p => by
    rw [examine]
    dsimp only
    split
    · split
      · exact grant_modeCauses c g p
      · exact (examine_modeCauses c rest _).trans (loseInterlock_modeCauses c g _ _ p)
    · exact examine_modeCauses c rest p

theorem scanLoop_modeCauses (c : Tables) : (n : Nat) → (p : Dyn) → (scanLoop c n p).1.modeCauses = p.modeCauses
  | 0, _ => rfl
  | n + 1, p => by
    rw [scanLoop]
    dsimp only
    split
    · exact (scanLoop_modeCauses c n _).trans (examine_modeCauses c _ p)
    · exact examine_modeCauses c _ p

theorem scan_modeCauses {c : Tables} (none : ∀ l, (c.links.get l).action = .none) (p : Dyn) :
    (scan c p).modeCauses = p.modeCauses :=
  (foldl_keeps Dyn.modeCauses _ (fun q _ => by rw [offerLinks_of_noAction none]) _ _).trans (scanLoop_modeCauses c _ p)

theorem schedule_modeCauses {c : Tables} (none : ∀ l, (c.links.get l).action = .none) (before : Dyn) (forced : Bool)
    (p : Dyn) : (schedule c before forced p).modeCauses = p.modeCauses := by
  have joins : (joinAll c (becameMoving before p) p).modeCauses = p.modeCauses := by
    rw [joinAll_filter]
    rfl
  unfold schedule joinAndScan
  dsimp only
  split
  · exact (scan_modeCauses none _).trans joins
  · exact joins

/-! ### The end of the pass -/

section End

variable {c : Tables} {d : DamId} {p x : Dyn}

/-- The part back in RUN, with MODE gone from the gates in service, before the released gates join (R110). -/
def released (x : Dyn) : Dyn :=
  changeCauses (fun _ => true) (fun cs => { cs with mode := false })
    (markSummary { x with mode := .run, debt := 0, progress := 0 })

theorem endExitPass_eq (c : Tables) (x : Dyn) : endExitPass c x = offerRun (schedule c x false (released x)) := rfl

theorem released_get (x : Dyn) (g : GateId) : (released x).gates.get g =
    if (x.gates.get g).inService then (x.gates.get g).withCauses { (x.gates.get g).causes with mode := false }
    else x.gates.get g := by
  rw [released, changeCauses_get, Bool.and_true]
  rfl

theorem released_around (x : Dyn) :
    (released x).around = ({ x with mode := .run, debt := 0, progress := 0 } : Dyn).around := by
  rw [released, changeCauses_around]
  rfl

theorem released_dams (x : Dyn) : (released x).dams = x.dams := changeCauses_keeps Dyn.dams (by simp) _ _ _

theorem released_rivers (x : Dyn) : (released x).rivers = x.rivers := by
  rw [released, changeCauses_rivers]
  rfl

theorem released_queue (empty : x.queue = []) : (released x).queue = [] := by
  rw [released, changeCauses_queue]
  exact congrArg (List.filter _) empty

/-- What a scan keeps of the state that the joins began at. -/
theorem ScanFrame.of_joined {p q : Dyn} {l : List GateId} (h : ScanFrame { p with queue := l } q) :
    (∀ g, g ∉ l → (p.gates.get g).OnlyHolds (q.gates.get g)) ∧ (∀ g, (p.gates.get g).sameOrder (q.gates.get g)) ∧
      (∀ g, (p.gates.get g).inService = true → (q.gates.get g).inService = true) ∧
      (∀ d, (q.dams.get d).sequence = (p.dams.get d).sequence) ∧ q.rivers = p.rivers :=
  ⟨h.outside, h.orders, h.service, h.sequence, h.rivers⟩

/-- What the claims say of the end of the pass, of a state x in which its last refresh has completed. -/
theorem endExitPass_passEnded (none : ∀ l, (c.links.get l).action = .none) (empty : x.queue = [])
    (free : x.running = Option.none) (noOffer : x.offer = Option.none) (gates : x.gates = p.gates)
    (rivers : x.rivers = p.rivers)
    (pointer : x.pointer = if p.pointerReset then 0 else nextDam c.lastDam d) :
    PassEnded c d p (endExitPass c x) ∧ (∀ e, ((endExitPass c x).dams.get e).sequence = (x.dams.get e).sequence) ∧
      (endExitPass c x).hand = x.hand ∧ (endExitPass c x).running = Option.none := by
  have noneQueued := released_queue empty
  obtain ⟨js, joins, frame⟩ := joinAndScan_frame c (becameMoving x (released x)) false (released x) (by simp [noneQueued])
  have course := schedule_course (c := c) x false (released x)
  have scanned := schedule_modeCauses none x false (released x)
  obtain ⟨still, controls, -, -, running, -⟩ := around_fields (released_around x)
  obtain ⟨mode, offer, progress, -⟩ := controls_fields controls
  obtain ⟨-, -, debt, point, -⟩ := still_fields still
  obtain ⟨mode', offer', progress'⟩ := course.controls_of_noAction none
  obtain ⟨-, -, debt', point', -, -, -, -, -, hand', -, -, -, -, -, -, isFree⟩ := still_fields course.still
  obtain ⟨-, -, -, -, -, -, -, -, -, hand, -⟩ := still_fields still
  obtain ⟨outsideQueue, orders, service, sequence, sameRivers⟩ := frame.of_joined
  rw [← schedule] at outsideQueue orders service sequence sameRivers
  rw [endExitPass_eq]
  generalize schedule c x false (released x) = q at *
  have freeEnd : q.running = Option.none := by
    rw [running, free] at isFree
    exact Option.isNone_iff_eq_none.mp isFree
  have runEnd : q.mode = .run := mode'.trans mode
  have noOfferEnd : q.offer = Option.none := (offer'.trans offer).trans noOffer
  have debtEnd : q.debt = 0 := debt'.trans debt
  have due : q.offer = Option.none ∧ -3 ≤ q.debt := ⟨noOfferEnd, by rw [debtEnd]; norm_num⟩
  have offers : offerRun q = { q with offer := some q.pointer } := by
    rw [offerRun_of_free freeEnd runEnd, if_pos due]
  obtain ⟨totals, reaches⟩ := rivers_fields (sameRivers.trans ((released_rivers x).trans rivers))
  rw [offers]
  refine ⟨?_, fun e => ?_, hand'.trans hand, freeEnd⟩
  · exact
      { mode := runEnd
        debt := debtEnd
        progress := progress'.trans progress
        pointer := (point'.trans point).trans pointer
        offer := rfl
        totals := totals
        reaches := reaches
        orders := fun h => by
          refine Gate.sameOrder_trans ?_ (orders h)
          show (p.gates.get h).sameOrder ((released x).gates.get h)
          rw [released_get, gates]
          split <;> exact ⟨rfl, rfl, rfl, rfl, rfl⟩
        service := fun h inService => by
          have there : ((released x).gates.get h).inService = true := by
            rw [released_get, gates, if_pos inService, Gate.withCauses_inService]
            exact inService
          have cleared : ((released x).gates.get h).causes.mode = false := by
            rw [released_get, gates, if_pos inService]
            rfl
          exact ⟨service h there, (congrFun scanned h).trans cleared⟩
        out := fun h out => by
          have state : (p.gates.get h).state = .outOfService := by simpa [Gate.inService] using out
          have there : (released x).gates.get h = p.gates.get h := by
            rw [released_get, gates, out]
            rfl
          have outside : h ∉ (released x).queue ++ js := by
            rw [noneQueued, List.nil_append]
            intro joined
            obtain ⟨-, moving⟩ := joinable_run (joins h joined).2
            rw [there, state] at moving
            cases moving
          have held : (p.gates.get h).OnlyHolds (q.gates.get h) := there ▸ outsideQueue h outside
          exact held.eq_of_out state }
  · exact (sequence e).trans (by rw [released_dams])

/-- A state with the end made, but for what a grant may write: the claims say the same of it. -/
theorem PassEnded.congr {q r : Dyn} (h : PassEnded c d p q) (same : PortFrame q r) : PassEnded c d p r where
  mode := same.mode.trans h.mode
  debt := same.debt.trans h.debt
  progress := same.progress.trans h.progress
  pointer := same.pointer.trans h.pointer
  offer := same.offer.trans (h.offer.trans (congrArg some same.pointer.symm))
  totals := same.totals.trans h.totals
  reaches := same.reaches.trans h.reaches
  orders := same.gates ▸ h.orders
  service := same.gates ▸ h.service
  out := same.gates ▸ h.out

/-- A transaction that waits is granted before a refresh of the new debt. -/
theorem PassEnded.granted {q r : Dyn} (h : PassEnded c d p q) (grants : GrantedByClass c q r) (hand : q.hand.isSome = true) : PassEnded c d p r := by
  obtain ⟨t, waits⟩ := Option.isSome_iff_exists.mp hand
  have head : (waitingHeads q).head? = some (.forwarded t) :=
    head?_of_hand (.inr (.inr ⟨h.mode, by rw [h.debt]; decide⟩)) waits
  cases grants with
  | busy => exact h
  | idle => exact h
  | grants _ _ w _ first rest =>
    obtain rfl := Option.some.inj (first.symm.trans head)
    rw [rest.of_busy rfl]
    exact h.congr (grantJob_frame rfl)

/-- In the exit pass no gate is queued. -/
theorem GatesSound.queue_nil {s : State} (sound : GatesSound s) (exiting : s.dyn.mode = .exiting) : s.dyn.queue = [] := by
  refine List.eq_nil_iff_forall_not_mem.mpr fun g queued => ?_
  have run := sound.queueOk.run g queued
  rw [exiting] at run
  cases run

end End

section Answer

variable {s : State} {d : DamId} {o : RefreshOrigin} {g : GateId} {a : Access} {ans : StoreAnswer}

/-- Where no link acts, an answer to a STAMP makes a record at most. -/
theorem stampAnswer_of_noAction (none : ∀ l, (s.tables.links.get l).action = .none) :
    answerEffect s.tables (.refresh d o true g []) a ans (counted s) = counted s ∨
      ∃ r, answerEffect s.tables (.refresh d o true g []) a ans (counted s) = formRecord r (counted s) := by
  cases ans with
  | ok => exact .inl rfl
  | error =>
    rw [answerEffect, accessFailed, refreshWriteFailed]
    split
    · exact .inl rfl
    · exact .inr ⟨_, raise_of_noAction none _ _⟩

theorem refreshComplete_last {c : Tables} {p : Dyn} (exiting : p.mode = .exiting) (last : c.lastDam.val + 1 ≤ p.progress + 1) :
    refreshComplete c d true p = endExitPass c (advancePointer c d p) := by
  have mode : (advancePointer c d p).mode = .exiting := exiting
  unfold refreshComplete
  dsimp only
  split
  case h_2 => exact (if_pos rfl).trans (if_pos last)
  all_goals
    next other => exact absurd (mode.symm.trans other) (by decide)

/-- The state in which the last refresh has completed, for either answer. -/
theorem endExitPass_answered {q : Dyn} (none : ∀ l, (s.tables.links.get l).action = .none)
    (empty : s.dyn.queue = []) (noOffer : s.dyn.offer = Option.none)
    (made : q = counted s ∨ ∃ r, q = formRecord r (counted s)) :
    PassEnded s.tables d s.dyn (endExitPass s.tables (advancePointer s.tables d { q with running := Option.none })) ∧
      (endExitPass s.tables (advancePointer s.tables d { q with running := Option.none })).hand = s.dyn.hand ∧
      (endExitPass s.tables (advancePointer s.tables d { q with running := Option.none })).running = Option.none := by
  have fields : q.queue = s.dyn.queue ∧ q.offer = s.dyn.offer ∧ q.gates = s.dyn.gates ∧ q.rivers = s.dyn.rivers ∧
      q.pointerReset = s.dyn.pointerReset ∧ q.hand = s.dyn.hand := by
    obtain rfl | ⟨r, rfl⟩ := made
    · exact ⟨rfl, rfl, rfl, rfl, rfl, rfl⟩
    · exact ⟨formRecord_queue _ _, formRecord_offer _ _, formRecord_gates _ _, formRecord_rivers _ _,
        formRecord_pointerReset _ _, formRecord_hand _ _⟩
  obtain ⟨queue, offer, gates, rivers, reset, hand⟩ := fields
  have pointer : (advancePointer s.tables d { q with running := Option.none }).pointer =
      if s.dyn.pointerReset then 0 else nextDam s.tables.lastDam d := by
    rw [← reset]
    rfl
  obtain ⟨ended, -, handEnd, free⟩ := endExitPass_passEnded (p := s.dyn) (d := d)
    (x := advancePointer s.tables d { q with running := Option.none }) none (queue.trans empty) rfl (offer.trans noOffer)
    gates rivers pointer
  exact ⟨ended, handEnd.trans hand, free⟩

end Answer

/-- Settles O46: the end at the answer to the last STAMP, and at the grant of a refresh with no gate to write. -/
theorem exitPassEnds : Obligations.ExitPassEnds := by
  refine ⟨fun s d o g a ans canonical sound running exiting last noOffer none => ?_,
    fun s d sound free exiting last gates none => ?_⟩
  · have made := stampAnswer_of_noAction (d := d) (o := o) (g := g) (a := a) (ans := ans) none
    obtain ⟨q, effect⟩ : ∃ q, answerEffect s.tables (.refresh d o true g []) a ans (counted s) = q := ⟨_, rfl⟩
    rw [effect] at made
    have fields : q.running = s.dyn.running ∧ q.mode = s.dyn.mode ∧ q.progress = s.dyn.progress := by
      obtain rfl | ⟨r, rfl⟩ := made
      · exact ⟨rfl, rfl, rfl⟩
      · exact ⟨formRecord_running _ _, formRecord_mode _ _, formRecord_progress _ _⟩
    obtain ⟨runs, mode, progress⟩ := fields
    obtain ⟨ended, hand, free⟩ := endExitPass_answered (d := d) none (sound.queue_nil exiting) noOffer made
    have now : (jobNow q (.refresh d o true g [])).answered a ans = .refresh d o true g [] := by
      rw [jobNow_of_running (runs.trans running)]
      cases ans <;> rfl
    obtain ⟨t, done, stored, granted⟩ := exec_completes (kind := Job.isRefresh) (instr := .refreshAccessDone)
      (fun _ _ => rfl) canonical running rfl effect now rfl
      (fun _ => refreshComplete_last (p := { q with running := Option.none }) (mode.trans exiting) (progress ▸ last)) free
    exact ⟨t, done, stored, ⟨_, ended, granted⟩, fun waits => ended.granted granted ((congrArg Option.isSome hand).trans waits)⟩
  · rw [grantJob_refresh_last gates exiting last]
    obtain ⟨ended, sequence, -⟩ := endExitPass_passEnded (p := s.dyn) (d := d) (c := s.tables)
      (x := { passedOver s.tables d s.dyn with offer := Option.none }) none (sound.queue_nil exiting) free rfl rfl rfl rfl
    refine ⟨ended, (sequence d).trans ?_⟩
    simp [passedOver, stamped]

end Sys2Proof.Machine
end

section
/-! The writes of an initialisation pass: the words in order, their values, and the answers (R131 to R133); O52. -/

namespace Sys2Proof.Machine

/-! ### The words of a pass -/

/-- Word k of a region. -/
def Region.place (r : Region) (k : Nat) : PageId × WordIdx := (r.page, Fin.ofNat 128 (r.first + r.stride * k))

/-- The words of some regions in order. -/
def places (rs : List Region) : List (PageId × WordIdx) := rs.flatMap fun r => (List.range r.count).map r.place

theorem places_cons (r : Region) (rs : List Region) : places (r :: rs) = (List.range r.count).map r.place ++ places rs :=
  List.flatMap_cons

theorem locate_eq (rs : List Region) (k : Nat) : locate rs k = (places rs)[k]? := by
  induction rs generalizing k with
  | nil => rfl
  | cons r rs ih =>
    rw [places_cons, locate]
    split
    case isTrue inside =>
      rw [List.getElem?_append_left (by simpa using inside)]
      simp [inside, Region.place]
    case isFalse beyond =>
      rw [List.getElem?_append_right (by simpa using beyond), ih]
      simp

theorem length_places (rs : List Region) : (places rs).length = (rs.map (·.count)).sum := by
  simp [places, List.length_flatMap]

/-- A region within its page. -/
abbrev Region.Fits (r : Region) : Prop := 0 < r.stride ∧ 0 < r.count ∧ r.first + r.stride * (r.count - 1) < 128

theorem Region.place_val {r : Region} (fits : r.Fits) {k : Nat} (inside : k < r.count) :
    (r.place k).2.val = r.first + r.stride * k := by
  obtain ⟨-, -, last⟩ := fits
  have bound : r.stride * k ≤ r.stride * (r.count - 1) := Nat.mul_le_mul_left _ (by omega)
  exact Nat.mod_eq_of_lt (by omega)

/-- The regions between the two writes of the status summary. -/
def PassKind.inner : PassKind → List Region
  | .powerOn => powerOnRegions.tail.dropLast
  | .resetLine => resetLineRegions.tail.dropLast

theorem PassKind.regions_eq (kind : PassKind) : kind.regions = ⟨0, 1, 1, 1⟩ :: (kind.inner ++ [⟨0, 1, 1, 1⟩]) := by
  cases kind <;> rfl

theorem places_regions (kind : PassKind) : places kind.regions = (0, 1) :: (places kind.inner ++ [(0, 1)]) := by
  rw [kind.regions_eq, places_cons]
  simp only [places, List.flatMap_append]
  rfl

theorem length_passes (kind : PassKind) : kind.length = (places kind.inner).length + 2 := by
  rw [PassKind.length, ← length_places, places_regions]
  simp

theorem locate_inner {kind : PassKind} {k : Nat} (first : 0 < k) (last : k + 1 < kind.length) :
    locate kind.regions k = (places kind.inner)[k - 1]? := by
  rw [length_passes] at last
  obtain ⟨j, rfl⟩ : ∃ j, k = j + 1 := ⟨k - 1, by omega⟩
  rw [locate_eq, places_regions, List.getElem?_cons_succ, List.getElem?_append_left (by omega)]
  rfl

/-! ### Their addresses rise -/

/-- The regions' words, and no two of them, rise. -/
abbrev Region.Before (x y : Region) : Prop :=
  256 * x.page.val + 2 * (x.first + x.stride * (x.count - 1)) < 256 * y.page.val + 2 * y.first

theorem inner_fits (kind : PassKind) : ∀ r ∈ kind.inner, r.Fits := by
  cases kind <;> decide

theorem inner_before (kind : PassKind) : kind.inner.Pairwise Region.Before := by
  cases kind <;> decide

theorem Region.mem_places {rs : List Region} {x : PageId × WordIdx} :
    x ∈ places rs ↔ ∃ r ∈ rs, ∃ k < r.count, r.place k = x := by
  simp [places]

theorem Region.address_place {r : Region} (fits : r.Fits) {k : Nat} (inside : k < r.count) :
    wordAddress (r.place k).1 (r.place k).2 = 256 * r.page.val + 2 * (r.first + r.stride * k) := by
  rw [wordAddress, place_val fits inside]
  rfl

theorem places_rise (kind : PassKind) :
    (places kind.inner).Pairwise fun x y => wordAddress x.1 x.2 < wordAddress y.1 y.2 := by
  rw [places, List.pairwise_flatMap]
  refine ⟨fun r listed => ?_, ?_⟩
  · have fits := inner_fits kind r listed
    rw [List.pairwise_map]
    refine List.pairwise_lt_range.imp_of_mem fun {i j} first second lt => ?_
    rw [Region.address_place fits (List.mem_range.mp first), Region.address_place fits (List.mem_range.mp second)]
    have rises : r.stride * i < r.stride * j := Nat.mul_lt_mul_of_pos_left lt fits.1
    omega
  · refine (inner_before kind).imp_of_mem fun {x y} inX inY before a first b second => ?_
    obtain ⟨i, inside, rfl⟩ := List.mem_map.mp first
    obtain ⟨j, inside', rfl⟩ := List.mem_map.mp second
    rw [Region.address_place (inner_fits kind x inX) (List.mem_range.mp inside),
      Region.address_place (inner_fits kind y inY) (List.mem_range.mp inside')]
    have last : x.stride * i ≤ x.stride * (x.count - 1) :=
      Nat.mul_le_mul_left _ (by have := List.mem_range.mp inside; omega)
    have first' : 0 ≤ y.stride * j := Nat.zero_le _
    omega

/-! ### They are the words that the rules name -/

/-- Word w of the region's page is one of the region's. -/
def Region.holds (r : Region) (w : WordIdx) : Prop :=
  r.first ≤ w.val ∧ (w.val - r.first) % r.stride = 0 ∧ (w.val - r.first) / r.stride < r.count

theorem Region.exists_place {r : Region} (fits : r.Fits) (q : PageId) (w : WordIdx) :
    (∃ k < r.count, r.place k = (q, w)) ↔ r.page = q ∧ r.holds w := by
  constructor
  · rintro ⟨k, inside, place⟩
    have word := congrArg (fun x => x.2.val) place
    dsimp only at word
    rw [Region.place_val fits inside] at word
    refine ⟨congrArg Prod.fst place, by omega, ?_, ?_⟩
    · rw [← word, Nat.add_sub_cancel_left, Nat.mul_mod_right]
    · rw [← word, Nat.add_sub_cancel_left, Nat.mul_div_cancel_left _ fits.1]
      exact inside
  · rintro ⟨page, above, whole, inside⟩
    refine ⟨_, inside, Prod.ext page (Fin.ext ?_)⟩
    rw [Region.place_val fits inside, Nat.mul_div_cancel' (Nat.dvd_of_mod_eq_zero whole)]
    exact Nat.add_sub_cancel' above

/-- A page above 20 is in no pass. -/
theorem covers_page {kind : PassKind} {q : PageId} {w : WordIdx} (covered : kind.covers q w = true) : q.val ≤ 20 := by
  cases kind <;>
    simp only [PassKind.covers, Bool.or_eq_true, Bool.and_eq_true, decide_eq_true_eq] at covered <;> omega

theorem inner_page (kind : PassKind) : ∀ r ∈ kind.inner, r.page.val ≤ 20 := by
  cases kind <;> decide

theorem covers_iff_holds (kind : PassKind) (q : PageId) (w : WordIdx) :
    kind.covers q w = true ↔ ∃ r ∈ kind.inner, r.page = q ∧ r.holds w := by
  have bound := w.isLt
  by_cases page : q.val ≤ 20
  case neg =>
    refine iff_of_false (fun covered => page (covers_page covered)) ?_
    rintro ⟨r, listed, rfl, -⟩
    exact page (inner_page kind r listed)
  case pos =>
    obtain ⟨n, small⟩ := q
    dsimp only at page
    cases kind <;>
      simp only [PassKind.inner, powerOnRegions, resetLineRegions, List.tail_cons, List.dropLast_cons_cons,
        List.dropLast_singleton, List.mem_cons, List.not_mem_nil, or_false, exists_eq_or_imp, exists_eq_left, Region.holds,
        PassKind.covers, fixedLimit, Fin.ext_iff]
    case powerOn => interval_cases n <;> simp <;> omega
    case resetLine => interval_cases n <;> simp <;> omega

theorem covers_iff_mem (kind : PassKind) (q : PageId) (w : WordIdx) :
    kind.covers q w = true ↔ (q, w) ∈ places kind.inner := by
  rw [covers_iff_holds, Region.mem_places]
  exact exists_congr fun r => and_congr_right fun listed => (Region.exists_place (inner_fits kind r listed) q w).symm

end Sys2Proof.Machine
end

section
/-! The values of the words of an initialisation pass (R131, R132). -/

namespace Sys2Proof.Machine

section Words

variable (c : Tables) (p : Dyn) {kind : PassKind} {k : Nat} {q : PageId} {w : WordIdx} {d : Word}

theorem passAccess_eq {x : PageId × WordIdx} (located : locate kind.regions k = some x) :
    passAccess c p kind k = ownWrite x.1 x.2 (passWord c p (k != 0) x.1 x.2) := by
  rw [passAccess, located]
  rfl

theorem passAccess_first (kind : PassKind) : passAccess c p kind 0 = ownWrite 0 1 (summaryWord false p) :=
  passAccess_eq (k := 0) (x := (0, 1)) c p (by rw [locate_eq, places_regions]; rfl)

theorem passAccess_last (kind : PassKind) : passAccess c p kind (kind.length - 1) = ownWrite 0 1 (summaryWord true p) := by
  have located : locate kind.regions (kind.length - 1) = some (0, 1) := by
    rw [locate_eq, places_regions, length_passes]
    simp
  have later : (kind.length - 1 != 0) = true := by
    rw [length_passes]
    simp
  rw [passAccess_eq c p located, later]
  rfl

/-- A write between the two of the status summary. -/
theorem passAccess_inner (first : 0 < k) (last : k + 1 < kind.length) :
    ∃ x, (places kind.inner)[k - 1]? = some x ∧ passAccess c p kind k = ownWrite x.1 x.2 (passWord c p true x.1 x.2) := by
  have located := locate_inner first last
  have inside : k - 1 < (places kind.inner).length := by
    rw [length_passes] at last
    omega
  rw [List.getElem?_eq_getElem inside] at located
  have later : (k != 0) = true := by simp; omega
  refine ⟨_, List.getElem?_eq_getElem inside, ?_⟩
  rw [passAccess_eq c p located, later]

theorem passAccess_rises {j : Nat} (first : 0 < j) (order : j < k) (last : k + 1 < kind.length) :
    wordAddress (passAccess c p kind j).page (passAccess c p kind j).word <
      wordAddress (passAccess c p kind k).page (passAccess c p kind k).word := by
  obtain ⟨x, atJ, accessJ⟩ := passAccess_inner c p first (by omega : j + 1 < kind.length)
  obtain ⟨y, atK, accessK⟩ := passAccess_inner c p (by omega : 0 < k) last
  rw [accessJ, accessK]
  obtain ⟨inJ, rfl⟩ := List.getElem?_eq_some_iff.mp atJ
  obtain ⟨inK, rfl⟩ := List.getElem?_eq_some_iff.mp atK
  exact List.pairwise_iff_getElem.mp (places_rise kind) _ _ inJ inK (by omega)

theorem covers_iff_written : kind.covers q w = true ↔
    ∃ k d, 0 < k ∧ k + 1 < kind.length ∧ passAccess c p kind k = ownWrite q w d := by
  rw [covers_iff_mem, List.mem_iff_getElem?]
  constructor
  · rintro ⟨i, at_i⟩
    obtain ⟨inside, -⟩ := List.getElem?_eq_some_iff.mp at_i
    have last : i + 1 + 1 < kind.length := by
      rw [length_passes]
      omega
    obtain ⟨x, at_x, access⟩ := passAccess_inner c p (Nat.succ_pos i) last
    obtain rfl := Option.some.inj (at_x.symm.trans at_i)
    exact ⟨i + 1, _, Nat.succ_pos i, last, access⟩
  · rintro ⟨k, d, first, last, access⟩
    obtain ⟨x, at_x, access'⟩ := passAccess_inner c p first last
    have same := access'.symm.trans access
    have page : x.1 = q := congrArg Access.page same
    have word : x.2 = w := congrArg Access.word same
    exact ⟨k - 1, by rw [at_x, ← page, ← word]⟩

/-- The word that a pass writes between its two status summaries has the value of its place. -/
theorem passAccess_data (first : 0 < k) (last : k + 1 < kind.length) (access : passAccess c p kind k = ownWrite q w d) :
    d = passWord c p true q w := by
  obtain ⟨x, -, access'⟩ := passAccess_inner c p first last
  have same := access.symm.trans access'
  have page : q = x.1 := congrArg Access.page same
  have word : w = x.2 := congrArg Access.word same
  rw [page, word]
  exact congrArg Access.data same

/-! ### The values -/

theorem passWord_slots (page : 14 ≤ q.val) : passWord c p true q w = 0 := by
  have target : targetWord c p (targetOf q w) = 0 := by
    rw [targetOf, if_neg (by omega), if_neg (by omega), if_neg (by omega), dif_neg (by omega), if_neg (by omega),
      if_neg (by omega)]
    split_ifs <;> rfl
  unfold passWord
  rw [if_neg (by omega), if_neg (by omega), if_neg (by omega), if_neg (by omega), target]

/-- A word of the mirror pages has its mirror's value. -/
theorem passWord_mirror (page : q.val = 8 ∨ q.val = 9) : passWord c p true q w = mirrorWordAt c p q w := by
  rw [passWord, if_neg (by omega), if_neg (by omega), if_neg (by omega), if_pos page]

theorem gateMirrorPage_val (g : GateId) : (gateMirrorPage g).val = 8 + g.val / 32 := by
  unfold gateMirrorPage
  split
  · show 8 = _
    omega
  · show 9 = _
    omega

theorem mirrorGate_gateMirror (g : GateId) (j : Fin 4) : mirrorGate (gateMirrorPage g) (gateMirrorWord g j) = some g := by
  have page := gateMirrorPage_val g
  have inside : 8 ≤ (gateMirrorPage g).val ∧ (gateMirrorPage g).val ≤ 9 ∧
      32 * ((gateMirrorPage g).val - 8) + (gateMirrorWord g j).val / 4 < 48 := by
    rw [page, gateMirrorWord]
    dsimp only
    omega
  rw [mirrorGate, dif_pos inside]
  refine congrArg some (Fin.ext ?_)
  show 32 * ((gateMirrorPage g).val - 8) + (4 * (g.val % 32) + j.val) / 4 = g.val
  rw [page]
  omega

theorem passWord_gateMirror (g : GateId) (j : Fin 4) : passWord c p true (gateMirrorPage g) (gateMirrorWord g j) =
    gateMirrorValue (c.descriptors.get (slotPage g)).decimal (p.gates.get g) j := by
  have page : (gateMirrorPage g).val = 8 ∨ (gateMirrorPage g).val = 9 := by
    rw [gateMirrorPage_val]
    omega
  have word : (⟨(gateMirrorWord g j).val % 4, Nat.mod_lt _ (by omega)⟩ : Fin 4) = j := by
    refine Fin.ext ?_
    show (4 * (g.val % 32) + j.val) % 4 = j.val
    omega
  rw [passWord_mirror c p page, mirrorWordAt]
  simp only [mirrorGate_gateMirror, word]
  rfl

theorem passWord_reachMirror (r : ReachId) (j : Fin 8) :
    passWord c p true 9 (reachMirrorWord r j) = reachMirrorValue c p r j := by
  have value : (reachMirrorWord r j).val = 64 + 8 * r.val + j.val := rfl
  have noGate : mirrorGate 9 (reachMirrorWord r j) = none := by
    refine dif_neg ?_
    rintro ⟨-, -, small⟩
    have page : ((9 : PageId) : Nat) = 9 := rfl
    rw [value, page] at small
    omega
  have inside : 64 ≤ (reachMirrorWord r j).val ∧ (reachMirrorWord r j).val < 112 := by
    rw [value]
    omega
  have reach : (⟨((reachMirrorWord r j).val - 64) / 8, by omega⟩ : Fin 6) = r := by
    refine Fin.ext ?_
    show (64 + 8 * r.val + j.val - 64) / 8 = r.val
    omega
  have word : (⟨(reachMirrorWord r j).val % 8, Nat.mod_lt _ (by omega)⟩ : Fin 8) = j := by
    refine Fin.ext ?_
    show (64 + 8 * r.val + j.val) % 8 = j.val
    omega
  rw [passWord_mirror c p (.inr rfl), mirrorWordAt]
  simp only [noGate, dif_pos inside, reach, word]

/-- No handler owns the three words of page 0 that a pass treats apart, nor a mirror. -/
theorem targetOf_unreached (apart : (q.val = 0 ∧ (w.val = 1 ∨ w.val = 5 ∨ w.val = 8)) ∨ q.val = 8 ∨ q.val = 9) :
    targetOf q w = .unreached := by
  obtain ⟨page, word⟩ | mirror := apart
  · rw [targetOf, if_pos page, if_neg (by omega), if_neg (by omega), if_neg (by omega), if_neg (by omega),
      if_neg (by omega), if_neg (by omega), dif_neg (by omega)]
  · rw [targetOf, if_neg (by omega), if_neg (by omega), if_neg (by omega), dif_neg (by omega), if_neg (by omega),
      if_neg (by omega), dif_neg (by omega), if_neg (by omega), dif_neg (by omega), if_neg (by omega)]

theorem passWord_of_target {x : WriteTarget} (row : x.hasRow = true) (place : x.place = (q, w)) :
    passWord c p true q w = targetWord c p x := by
  have target : targetOf q w = x := by
    have own := targetOf_place x row
    rwa [place] at own
  have handled : ¬((q.val = 0 ∧ (w.val = 1 ∨ w.val = 5 ∨ w.val = 8)) ∨ q.val = 8 ∨ q.val = 9) := by
    intro apart
    rw [← target, targetOf_unreached apart] at row
    cases row
  rw [passWord, if_neg (by omega), if_neg (by omega), if_neg (by omega), if_neg (by omega), target]

/-- The word at a place is written with the copy of its handler; the entry of master 0, which no WRITE reaches, too. -/
theorem passWord_of_place {x : WriteTarget} (page : q.val ≤ 20) (place : x.place = (q, w)) :
    passWord c p true q w = targetWord c p x := by
  have beyond {w' : WordIdx} (there : (255, w') = (q, w)) : False := by
    have at255 : (255 : PageId).val = q.val := congrArg (fun y => y.1.val) there
    have value : (255 : PageId).val = 255 := rfl
    omega
  cases x with
  | masterEntry m =>
    by_cases zero : m = 0
    · subst zero
      cases place
      rfl
    · exact passWord_of_target c p (bne_iff_ne.mpr fun value => zero (Fin.ext value)) place
  | plain => exact (beyond place).elim
  | unreached => exact (beyond place).elim
  | _ => exact passWord_of_target c p rfl place

theorem targetWord_serviceControl (g : GateId) :
    targetWord c p (.serviceControl g) = if (p.gates.get g).state = .outOfService then 0 else 1 := by
  cases state : (p.gates.get g).state <;> simp [targetWord, Gate.serviceOn, Gate.inService, state]

end Words

end Sys2Proof.Machine
end

section
/-! The answers to the writes of an initialisation pass (R131 to R133); O52. -/

namespace Sys2Proof.Machine

/-! ### The grants by class, where no refresh waits -/

/-- The job granted first is among those offered together: only a portal job may be held back, and a marked slot stands
before it. -/
theorem offered_of_head {p : Dyn} {w : Waiting} (head : (waitingHeads p).head? = some w) : w ∈ offeredTogether p := by
  have waits := List.mem_of_mem_head? head
  unfold offeredTogether
  split
  case isFalse => exact waits
  case isTrue marked =>
    refine List.mem_filter.mpr ⟨waits, ?_⟩
    obtain ⟨x, slot⟩ := Option.isSome_iff_exists.mp marked
    rw [waitingHeads_head?, slot] at head
    obtain forced | ⟨-, rest⟩ := Option.or_eq_some_iff.mp head
    · unfold refreshAt at forced
      split at forced
      · obtain ⟨-, made⟩ := Option.ite_none_right_eq_some.mp forced
        cases made
        rfl
      · cases forced
    · obtain forwarded | ⟨-, rest⟩ := Option.or_eq_some_iff.mp rest
      · obtain ⟨t, -, rfl⟩ := Option.map_eq_some_iff.mp forwarded
        rfl
      · cases rest
        rfl

theorem GrantedByClass.granted {c : Tables} {p q : Dyn} (h : GrantedByClass c p q) : Granted c p q := by
  cases h with
  | busy _ busy => exact .inl ⟨rfl, .inl busy⟩
  | idle _ _ idle => exact .inl ⟨rfl, .inr idle⟩
  | grants _ _ w free head rest => exact .inr ⟨free, w, offered_of_head head, rest⟩

/-! ### The store -/

/-- A failed write of the status summary by a pass keeps its init-done field (log entry 22). -/
theorem storeAfter_summary {m : Memory} (canonical : m.wf = true) {kind : PassKind} {k : Nat} {a : Access} {n : Nat}
    (page : a.page = 0) (word : a.word = 1) :
    (Memory.word (storeAfter m (.pass kind k) a .error n) 0 1).getLsbD 15 = (Memory.word m 0 1).getLsbD 15 := by
  have summary : (Job.pass kind k).passSummary a = true := by
    simp [Job.passSummary, page, word]
  unfold storeAfter
  split
  case isFalse => rfl
  case isTrue =>
    dsimp only
    rw [page, word, setWord_word_self _ canonical]
    simp only [laneMerge, if_true, BitVec.getLsbD_append, BitVec.getLsbD_extractLsb']
    rfl

section Answer

variable {s : State} {kind : PassKind} {k : Nat} {a : Access} {ans : StoreAnswer} {failed : Nat}

/-- The pass with its count of failed writes (R131). -/
def passCounted (s : State) (failed : Nat) : Dyn := { counted s with passFailed := failed }

variable (running : s.dyn.running = some ⟨.pass kind k, a⟩)
  (count : failed = (if ans = .error then min 65535 (s.dyn.passFailed + 1) else s.dyn.passFailed))

include count in
theorem pass_effect (c : Tables) : answerEffect c (.pass kind k) a ans (counted s) = passCounted s failed := by
  subst count
  cases ans <;> rfl

include running in
theorem pass_answered : (jobNow (passCounted s failed) (.pass kind k)).answered a ans = .pass kind k := by
  refine (congrArg (Job.answered · a ans) (jobNow_of_running (p := passCounted s failed) running _)).trans ?_
  cases ans <;> rfl

variable (canonical : StoreCanonical s)
include running canonical

/-- The one outcome of an answer to a pass write, of which the store keeps init-done. -/
theorem pass_summary {t : State} (next : exec (.passWriteAccessDone ans) s = .next t) (error : ans = .error)
    (page : a.page = 0) (word : a.word = 1) :
    (Memory.word t.store 0 1).getLsbD 15 = (Memory.word s.store 0 1).getLsbD 15 := by
  have made : exec (.passWriteAccessDone ans) s = .next (accessDone Job.isPass ans s) := rfl
  obtain rfl := Host.Outcome.next.inj (made.symm.trans next)
  rw [accessDone_eq running rfl, error]
  exact storeAfter_summary canonical page word

include count

theorem pass_goesOn (more : k + 1 < kind.length) :
    ∃ t, exec (.passWriteAccessDone ans) s = .next t ∧ StoreAnswered s t a ans ∧
      t.dyn =
        { counted s with
          passFailed := failed, running := some ⟨.pass kind (k + 1), passAccess s.tables s.dyn kind (k + 1)⟩ } := by
  have next : ((jobNow (passCounted s failed) (.pass kind k)).answered a ans).next = some (.pass kind (k + 1)) := by
    rw [pass_answered running]
    exact if_pos more
  exact exec_goesOn (kind := Job.isPass) (instr := .passWriteAccessDone) (fun _ _ => rfl) canonical running rfl
    (pass_effect count s.tables) next

/-- The state with the pass over, before its record (R131). -/
def passOver (s : State) (kind : PassKind) (failed : Nat) : Dyn :=
  { passCounted s failed with
    running := none
    passKind := none
    powerOnUnfinished := if kind == .powerOn then false else s.dyn.powerOnUnfinished }

/-- The reaches whose EXCEEDED flag the end of a pass evaluates: 0 to L. -/
def passReaches (c : Tables) : List ReachId := (List.finRange 6).filter fun d => decide (d.val ≤ c.lastDam.val)

/-- The state that the end of a pass makes, before the refresh interval timer is started. -/
def passEnded (s : State) (kind : PassKind) (failed : Nat) : Dyn :=
  reevaluateAll s.tables (passReaches s.tables)
    (formRecord (resetRecord kind (passOver s kind failed)) (passOver s kind failed))

omit running count canonical in
theorem endPass_eq : endPass s.tables kind { passCounted s failed with running := none } =
    { passEnded s kind failed with refreshTimer := .running s.tables.refreshInterval.toNat } := rfl

omit running count canonical in
theorem passEnded_growth : LinkGrowth s.tables (passOver s kind failed) (passEnded s kind failed) :=
  (formRecord_growth _ _ _).trans (reevaluateAll_growth _ _ _)

theorem pass_completes (last : kind.length ≤ k + 1) :
    ∃ t, exec (.passWriteAccessDone ans) s = .next t ∧ StoreAnswered s t a ans ∧
      GrantedByClass s.tables
        { passEnded s kind failed with refreshTimer := .running s.tables.refreshInterval.toNat } t.dyn := by
  obtain ⟨-, -, -, -, -, -, -, -, -, -, -, -, -, -, -, -, free⟩ :=
    still_fields (passEnded_growth (s := s) (kind := kind) (failed := failed)).frame.still
  exact exec_completes (kind := Job.isPass) (instr := .passWriteAccessDone) (fun _ _ => rfl) canonical running rfl
    (pass_effect count s.tables) (pass_answered running) (if_neg (Nat.not_lt.mpr last)) (fun _ => endPass_eq)
    (Option.isNone_iff_eq_none.mp free)

end Answer

/-! ### The end of a pass -/

section End

variable {s t : State} {kind : PassKind} {failed : Nat}

theorem mem_passReaches {c : Tables} {r : ReachId} : r ∈ passReaches c ↔ r.val ≤ c.lastDam.val := by
  simp [passReaches]

theorem resetRecord_passOver (s : State) (kind : PassKind) (failed : Nat) :
    resetRecord kind (passOver s kind failed) =
      { kind := .reset, code := if kind = .powerOn then 0 else 1, master := 0, page := 0, qualifier := 0
        subject := 0xFF, value := BitVec.ofNat 16 failed, tick := s.dyn.tick, detail := 0, context := .mode .config } := by
  cases kind <;> rfl

/-- The pass is over, and nothing else that the claims speak of has changed. -/
theorem passOver_fields (s : State) (kind : PassKind) (failed : Nat) :
    (passOver s kind failed).logWrite = s.dyn.logWrite ∧ (passOver s kind failed).logRead = s.dyn.logRead ∧
      (passOver s kind failed).passKind = none ∧
      (passOver s kind failed).powerOnUnfinished = (if kind = .powerOn then false else s.dyn.powerOnUnfinished) ∧
      (passOver s kind failed).mode = s.dyn.mode ∧ (passOver s kind failed).tick = s.dyn.tick ∧
      (passOver s kind failed).totals = s.dyn.totals ∧ (passOver s kind failed).reaches = s.dyn.reaches ∧
      (passOver s kind failed).gates = s.dyn.gates := by
  unfold passOver passCounted counted
  cases kind <;> simp

/-- What the claims say of the end of a pass, of the state with the grant that follows it. -/
theorem passEnded_claims (config : s.dyn.mode = .config) (tables : t.tables = s.tables)
    (grants : GrantedByClass s.tables
      { passEnded s kind failed with refreshTimer := .running s.tables.refreshInterval.toNat } t.dyn) :
    t.dyn.passKind = none ∧ t.dyn.logWrite = s.dyn.logWrite ∧ t.dyn.logRead = s.dyn.logRead ∧
      alertLine t.dyn = decide (s.dyn.logWrite ≠ s.dyn.logRead) ∧ BoundsReported s t ∧
      t.dyn.powerOnUnfinished = (if kind = .powerOn then false else s.dyn.powerOnUnfinished) ∧
      t.dyn.refreshTimer = .running s.tables.refreshInterval.toNat ∧ t.dyn.totals = s.dyn.totals ∧
      t.dyn.mode = .config ∧
      ExceededAgrees s.tables s t (fun r => decide (r.val ≤ s.tables.lastDam.val)) ∧
      (∀ g, Gate.OnlyHolds (s.dyn.gates.get g) (t.dyn.gates.get g)) ∧
      Recorded
        { kind := .reset, code := if kind = .powerOn then 0 else 1, master := 0, page := 0, qualifier := 0
          subject := 0xFF, value := BitVec.ofNat 16 failed, tick := s.dyn.tick, detail := 0, context := .mode .config }
        t.dyn := by
  have growth : LinkGrowth s.tables (passOver s kind failed) (passEnded s kind failed) := passEnded_growth
  have flags := reevaluateAll_reaches s.tables (passReaches s.tables)
    (formRecord (resetRecord kind (passOver s kind failed)) (passOver s kind failed))
  have noted := reevaluateAll_noted s.tables (passReaches s.tables)
    (formRecord (resetRecord kind (passOver s kind failed)) (passOver s kind failed))
  have judged := fun r => firstViolated_frame s.tables growth.frame r
  have recorded := (formRecord_recorded (resetRecord kind (passOver s kind failed)) (passOver s kind failed)).mono
    (reevaluateAll_growth s.tables (passReaches s.tables) _).frame
  rw [← passEnded] at flags noted recorded
  rw [resetRecord_passOver] at flags noted recorded
  obtain ⟨-, -, -, -, -, -, write, read, -, -, -, passKind, -, unfinished, -⟩ := still_fields growth.frame.still
  obtain ⟨write0, read0, passKind0, unfinished0, mode0, tick0, totals0, reaches0, gates0⟩ := passOver_fields s kind failed
  have mode : (passEnded s kind failed).mode = .config := growth.mode_config (mode0.trans config)
  generalize passEnded s kind failed = q at *
  generalize passOver s kind failed = p at *
  have noRefresh : NoRefreshWaits { q with refreshTimer := .running s.tables.refreshInterval.toNat } :=
    .inr (by simp only [refreshClass, mode])
  have port := grants.granted.portFrame fun _ => noRefresh
  have ended : t.dyn.passKind = none := port.passKind.trans (passKind.trans passKind0)
  have written : t.dyn.logWrite = s.dyn.logWrite := port.logWrite.trans (write.trans write0)
  have readIndex : t.dyn.logRead = s.dyn.logRead := port.logRead.trans (read.trans read0)
  have totals : t.dyn.totals = q.totals := port.totals
  have reaches : t.dyn.reaches = q.reaches := port.reaches
  have gates : t.dyn.gates = q.gates := port.gates
  refine ⟨ended, written, readIndex, ?_, ?_, port.powerOnUnfinished.trans (unfinished.trans unfinished0),
    port.refreshTimer, totals.trans (growth.frame.totals.trans totals0), port.mode.trans mode, fun r => ?_, fun g => ?_,
    grants.granted.recorded (fun _ => noRefresh) recorded⟩
  · rw [alertLine, ended, written, readIndex]
    simp [bne, beq_eq_decide]
  · rw [← tables] at noted
    refine noted.reported ((formRecord_mode _ _).trans mode0) ((formRecord_tick _ _).trans tick0)
      (fun r => by rw [formRecord_reaches, reaches0]) totals reaches
      port.mode (fun _ made => grants.granted.recorded (fun _ => noRefresh) made) fun kind sub acted l source index => ?_
    have act := acted l source index
    unfold LinkActed at act ⊢
    rw [port.dams, port.alarms, port.mode]
    exact act
  · have flag := flags r
    rw [formRecord_reaches, formRecord_totals, reaches0] at flag
    have judgedHere := judged r
    rw [reaches0] at judgedHere
    rw [totals, reaches, judgedHere]
    refine flag.trans ?_
    simp only [mem_passReaches, decide_eq_true_eq]
  · have held := growth.frame.gates g
    rw [gates0] at held
    rw [gates]
    exact held

end End

/-- Settles O52: the answers, and the words of either pass. -/
theorem passWriteAccessDone : Obligations.PassWriteAccessDone := by
  refine ⟨fun s kind k a ans failed canonical running count => ⟨fun more => ?goesOn, fun last config => ?completes⟩,
    fun c p kind => ⟨passAccess_first c p kind, passAccess_last c p kind, fun j k => passAccess_rises c p,
      fun q w => covers_iff_written c p, fun k q w d first last access => ?values⟩⟩
  case goesOn =>
    obtain ⟨t, next, stored, dyn⟩ := pass_goesOn running count canonical more
    exact ⟨t, next, stored, pass_summary running canonical next, dyn⟩
  case completes =>
    obtain ⟨t, next, stored, granted⟩ := pass_completes running count canonical last
    exact ⟨t, next, stored, pass_summary running canonical next, passEnded_claims config stored.2.2.2.2 granted⟩
  case values =>
    have data := passAccess_data c p first last access
    have page : q.val ≤ 20 := covers_page ((covers_iff_written c p).mpr ⟨k, d, first, last, access⟩)
    refine ⟨?_, ?_, fun slots => data.trans (passWord_slots c p slots), ?_, ?_, fun x place => ?_⟩
    · rintro rfl rfl
      exact data
    · rintro rfl rfl
      exact data
    · rintro g j rfl rfl
      exact data.trans (passWord_gateMirror c p g j)
    · rintro r j rfl rfl
      exact data.trans (passWord_reachMirror c p r j)
    · have copy := data.trans (passWord_of_place c p page place)
      cases x with
      | serviceControl g => exact copy.trans (targetWord_serviceControl c p g)
      | damDwell e k => cases k <;> exact copy
      | _ => exact copy

end Sys2Proof.Machine
end

section
/-! Orders (R50 to R60, Table 3-2): the checks before the budget as the model makes them, and an order refused; O38. -/

namespace Sys2Proof.Machine

section Table

variable {c : Tables} {p : Dyn} {m : MasterId} {g : GateId} {code : Code} {data : Word}

theorem levelOf_eq_zero (c : Tables) (m : MasterId) : (levelOf c m == 0) = ((c.masters.get m).level == 0) := by
  rw [Bool.eq_iff_iff]
  simp [levelOf, BitVec.toNat_eq]

/-- The first check of the table of orders is stage 1 (R53). -/
theorem stage1_eq (c : Tables) (m : MasterId) (mode : Mode) : (!stage1 mode (levelOf c m)) =
    match mode with
    | .config => true
    | .run => false
    | .hold => (c.masters.get m).level != 0
    | .exiting => (c.masters.get m).level != 0 := by
  cases mode <;> simp [stage1, levelOf_eq_zero, bne]

theorem moveBlocked_eq (c : Tables) (p : Dyn) (g : GateId) (v : Nat) : moveBlocked c p g v =
    if v = (p.gates.get g).command then none
    else falseCondition c p.statusWords g (directionTo (p.gates.get g).command v) := rfl

theorem orderTable_eq (c : Tables) (p : Dyn) (m : MasterId) (g : GateId) (v : Option Nat) :
    orderTable c p m g v = (!stage1 p.mode (levelOf c m), .notRunning) :: (orderTable c p m g v).tail := by
  rw [stage1_eq]
  rfl

/-- The order whose opening cannot be decoded fails at stage 1 or 2. -/
theorem orderTable_none (c : Tables) (p : Dyn) (m : MasterId) (g : GateId) :
    firstFailing (orderTable c p m g none) =
      if stage1 p.mode (levelOf c m) = false then some .notRunning else some .badDigit := by
  rw [orderTable_eq, firstFailing_cons]
  simp only [Bool.not_eq_true']
  rfl

/-- The checks of an order of a decoded opening, stage by stage. -/
theorem orderTable_some (c : Tables) (p : Dyn) (m : MasterId) (g : GateId) (v : Nat) :
    firstFailing (orderTable c p m g (some v)) =
      if stage1 p.mode (levelOf c m) = false then some .notRunning
      else if (p.gates.get g).state = .outOfService ∨ (p.gates.get g).state = .faulted then some .gateState
      else if (c.gates.get g).orderLevel.toNat < levelOf c m then some .orderLevel
      else if v ≠ (p.gates.get g).target ∧ (moveBlocked c p g v).isSome then some .interlock
      else none := by
  have blocked : (v != (p.gates.get g).target && v != (p.gates.get g).command &&
        (falseCondition c p.statusWords g (directionTo (p.gates.get g).command v)).isSome) =
      decide (v ≠ (p.gates.get g).target ∧ (moveBlocked c p g v).isSome) := by
    by_cases still : v = (p.gates.get g).command <;> simp [moveBlocked_eq, still, bne, beq_eq_decide]
  rw [orderTable_eq, firstFailing_cons]
  simp only [Bool.not_eq_true', orderTable, List.tail_cons, firstFailing_cons, firstFailing_nil, Option.isNone_some, Bool.false_eq_true,
    if_false, blocked, decide_eq_true_eq, Bool.or_eq_true, beq_iff_eq]
  rfl

/-! ### The handler, stage by stage -/

variable {v : Nat}

theorem handleOrder_badDigit (runs : stage1 p.mode (levelOf c m) = true)
    (decoded : decodeValue (c.decimal (slotPage g)) 1000 data = none) :
    handleOrder g (levelOf c m) data c p = .refuse .badDigit p := by
  simp [handleOrder, runs, decoded]

theorem handleOrder_notRunning (stops : stage1 p.mode (levelOf c m) = false) :
    handleOrder g (levelOf c m) data c p = .refuse .notRunning p := by
  simp [handleOrder, stops]

/-- An order of a decoded opening that the table refuses. -/
theorem handleOrder_refused (decoded : decodeValue (c.decimal (slotPage g)) 1000 data = some v)
    (fails : firstFailing (orderTable c p m g (some v)) = some code) :
    handleOrder g (levelOf c m) data c p =
      if code = .notRunning then .refuse .notRunning p
      else orderRefused g code
        (if code = .interlock then
          ((falseCondition c p.statusWords g (directionTo (p.gates.get g).command v)).map (·.val)).getD 0 else 0) p := by
  rw [orderTable_some] at fails
  by_cases stops : stage1 p.mode (levelOf c m) = false
  · rw [if_pos stops] at fails
    cases fails
    exact handleOrder_notRunning stops
  rw [if_neg stops] at fails
  have runs : stage1 p.mode (levelOf c m) = true := by simpa using stops
  by_cases state : (p.gates.get g).state = .outOfService ∨ (p.gates.get g).state = .faulted
  · rw [if_pos state] at fails
    cases fails
    simp [handleOrder, runs, decoded, state]
  rw [if_neg state] at fails
  by_cases level : (c.gates.get g).orderLevel.toNat < levelOf c m
  · rw [if_pos level] at fails
    cases fails
    simp [handleOrder, runs, decoded, state, level]
  rw [if_neg level] at fails
  by_cases blocked : v ≠ (p.gates.get g).target ∧ (moveBlocked c p g v).isSome
  · rw [if_pos blocked] at fails
    cases fails
    obtain ⟨moves, stopped⟩ := blocked
    obtain ⟨k, stopped⟩ := Option.isSome_iff_exists.mp stopped
    have condition : falseCondition c p.statusWords g (directionTo (p.gates.get g).command v) = some k := by
      rw [moveBlocked_eq] at stopped
      exact (Option.ite_none_left_eq_some.mp stopped).2
    simp [handleOrder, runs, decoded, state, level, moves, stopped, condition]
  · rw [if_neg blocked] at fails
    cases fails

/-- An order that the table lets go on, to another target, is for the budget to decide. -/
theorem handleOrder_overBudget (decoded : decodeValue (c.decimal (slotPage g)) 1000 data = some v)
    (passes : firstFailing (orderTable c p m g (some v)) = none) (moves : v ≠ (p.gates.get g).target) {d : ReachId}
    (exceeds : admission c (releaseChange c p g v) p = .error (code, d)) :
    handleOrder g (levelOf c m) data c p = orderRefused g code d.val p := by
  rw [orderTable_some] at passes
  split_ifs at passes with stops state level blocked
  have runs : stage1 p.mode (levelOf c m) = true := by simpa using stops
  have clear : moveBlocked c p g v = none := by simpa [moves] using blocked
  simp [handleOrder, runs, decoded, state, level, moves, clear, exceeds]

theorem handleOrder_committed (decoded : decodeValue (c.decimal (slotPage g)) 1000 data = some v)
    (passes : firstFailing (orderTable c p m g (some v)) = none) (moves : v ≠ (p.gates.get g).target) {p1 : Dyn}
    (fits : admission c (releaseChange c p g v) p = .ok p1) :
    handleOrder g (levelOf c m) data c p =
      .taken c (schedule c p ((commitTarget c g v p1).queue.contains g) (commitTarget c g v p1)) := by
  rw [orderTable_some] at passes
  split_ifs at passes with stops state level blocked
  have runs : stage1 p.mode (levelOf c m) = true := by simpa using stops
  have clear : moveBlocked c p g v = none := by simpa [moves] using blocked
  simp [handleOrder, runs, decoded, state, level, moves, clear, fits]

theorem vector_ext_get {α : Type} {n : Nat} {x y : Vector α n} (h : ∀ i : Fin n, x.get i = y.get i) : x = y :=
  Vector.ext fun i below => h ⟨i, below⟩

/-- The totals that an order would leave, as the claims write them. -/
theorem orderTotals_eq (c : Tables) (p : Dyn) (g : GateId) (v : Nat) : orderTotals c p g v =
    finalTotals (releaseChange c p g v) p.totals := by
  refine vector_ext_get fun d => ?_
  rw [finalTotals_releaseChange, movedTotals_get, orderTotals, Table.tab_get]
  split
  · rw [add_sub_assoc]
  · rw [add_zero]

/-- The budget answers as its check (R33, R58). -/
theorem admission_error {d : ReachId}
    (exceeds : admissionCheck c p.reaches p.totals (orderTotals c p g v) = some (code, d)) :
    admission c (releaseChange c p g v) p = .error (code, d) := by
  rw [orderTotals_eq] at exceeds
  unfold admission
  dsimp only
  rw [← finalTotals, exceeds]

end Table

/-! ### A refusal with its record and its event -/

/-- A row's WRITE that its handler refuses. -/
theorem gives_refused {i : Instr} {x : WriteTarget} {w : BusWrite} {s : State} {tr : Transaction} {code : Code}
    (row : i.write? = some (x, w)) (accepted : Accepted i s tr)
    (handled : handlerOf w.master w.data x s.tables (presented s.dyn) = .refuse code (presented s.dyn)) :
    Gives i s s.tables (refusedWith s tr code 0) := by
  obtain rfl := accepted.transaction_eq row
  have refused := presentWrite_refused accepted.noneInHand accepted.passes handled
  exact gives_of_arbitrate ((exec_write row s).trans (congrArg _ refused)) 
    (congrArg Option.isNone (refusedWith_running s _ code 0))

/-- A row's WRITE that its handler refuses, and after which no refresh waits. -/
theorem settled_of_refused {i : Instr} {x : WriteTarget} {w : BusWrite} {s : State} {tr : Transaction} {code : Code}
    {detail : Nat} {g : Option GateId} {p q : Dyn} (idle : PortIdle s) (row : i.write? = some (x, w))
    (accepted : Accepted i s tr)
    (handled : handlerOf w.master w.data x s.tables (presented s.dyn) = .refused code detail g p)
    (ends : offerOrderRefused s.tables g (refuseTransaction tr code detail p) = q)
    (free : q.running.isNone = s.dyn.running.isNone) (noRefresh : q.running = none → NoRefreshWaits q) :
    ∃ t, exec i s = .next t ∧ t.tables = s.tables ∧ Settled s t q := by
  have presents : exec i s = .next (presentWrite tr (handlerOf w.master w.data x) s) := by
    rw [accepted.transaction_eq row]
    exact exec_write row s
  have refused := presentWrite_refused accepted.noneInHand accepted.passes handled
  rw [ends] at refused
  exact ⟨_, presents.trans (congrArg _ refused), rfl, .of_arbitrate idle free noRefresh⟩

section Refused

variable {s : State} {tr : Transaction} {code : Code} {detail : Nat} {g : GateId}

/-- Gate g with its last refusal code set, at the presentation of an order (R59). -/
def refusalNoted (s : State) (g : GateId) (code : Code) : Dyn :=
  markGateMirror g (putGate g { s.dyn.gates.get g with lastRefusal := some code } (presented s.dyn))

theorem orderRefused_presented (s : State) (g : GateId) (code : Code) (detail : Nat) :
    orderRefused g code detail (presented s.dyn) = .refused code detail (some g) (refusalNoted s g code) := rfl

/-- The order refused: answered, recorded, and ORDER_REFUSED(g) offered. -/
def orderAnswered (s : State) (tr : Transaction) (g : GateId) (code : Code) (detail : Nat) : Dyn :=
  offerLinks s.tables .orderRefused (.gate g) (refuseTransaction tr code detail (refusalNoted s g code))

theorem refusalNoted_around (s : State) (g : GateId) (code : Code) :
    (refusalNoted s g code).around = (presented s.dyn).around := by
  rw [refusalNoted, markGateMirror_around, putGate_around]

theorem refusalNoted_get (s : State) (g : GateId) (code : Code) (h : GateId) :
    (refusalNoted s g code).gates.get h =
      if h = g then { s.dyn.gates.get g with lastRefusal := some code } else s.dyn.gates.get h :=
  putGate_get g _ (presented s.dyn) h

theorem refusalNoted_queue (s : State) (g : GateId) (code : Code) :
    (refusalNoted s g code).queue.Sublist s.dyn.queue := by
  show (putGate g { s.dyn.gates.get g with lastRefusal := some code } (presented s.dyn)).queue.Sublist s.dyn.queue
  rw [putGate_queue]
  split
  · exact .refl _
  · exact List.filter_sublist

theorem refusalNoted_dams (s : State) (g : GateId) (code : Code) : (refusalNoted s g code).dams = s.dyn.dams :=
  putGate_dams _ _ _

theorem refusalNoted_rivers (s : State) (g : GateId) (code : Code) : (refusalNoted s g code).rivers = s.dyn.rivers :=
  putGate_rivers g _ (presented s.dyn)

/-- The record of the refusal shows the gate and the mode as they were. -/
theorem refusalRecord_noted (s : State) (tr : Transaction) (g : GateId) (code : Code) (detail : Nat) :
    refusalRecord tr code detail (refusalNoted s g code) = refusalRecord tr code detail s.dyn := by
  have states (h : GateId) : ((refusalNoted s g code).gates.get h).state = (s.dyn.gates.get h).state := by
    rw [refusalNoted_get]
    split
    · next same => rw [same]
    · rfl
  obtain ⟨still, controls, -⟩ := around_fields (refusalNoted_around s g code)
  obtain ⟨mode, -⟩ := controls_fields controls
  obtain ⟨-, -, -, -, -, -, -, -, -, -, -, -, -, -, tick, -⟩ := still_fields still
  have mode : (refusalNoted s g code).mode = s.dyn.mode := mode
  have tick : (refusalNoted s g code).tick = s.dyn.tick := tick
  unfold refusalRecord
  rw [tick]
  cases gateNamed tr.page tr.word with
  | none => simp only [mode]
  | some h => simp only [states]

theorem orderAnswered_growth : LinkGrowth s.tables (answerWith tr.master (.refused code) (refusalNoted s g code))
    (orderAnswered s tr g code detail) :=
  (formRecord_growth _ _ _).trans (offerLinks_growth _ _ _ _)

/-- An order that is refused at stage 3, 4, 6 or 7, in the words of the claims. -/
theorem exec_orderRefused {w : BusWrite} (idle : PortIdle s) (accepted : Accepted (.order g w) s tr)
    (handled : handleOrder g (levelOf s.tables w.master) w.data s.tables (presented s.dyn) =
      orderRefused g code detail (presented s.dyn)) :
    ∃ t, exec (.order g w) s = .next t ∧ OnlyEventsBeside s t ∧ t.dyn.totals = s.dyn.totals ∧
      t.dyn.reaches = s.dyn.reaches ∧ OthersOnlyHeld s t g ∧
      Gate.OnlyHolds { s.dyn.gates.get g with lastRefusal := some code } (t.dyn.gates.get g) ∧
      Refused s tr code detail t ∧ LinksActed s.tables .orderRefused (.gate g) t.dyn := by
  have growth : LinkGrowth s.tables (answerWith tr.master (.refused code) (refusalNoted s g code))
      (orderAnswered s tr g code detail) := orderAnswered_growth
  obtain ⟨still, controls, -, -, -, holds⟩ := around_fields (refusalNoted_around s g code)
  obtain ⟨totals, reaches⟩ := rivers_fields (refusalNoted_rivers s g code)
  obtain ⟨-, -, debt, -, -, -, -, -, -, -, -, -, -, -, -, -, isFree⟩ := still_fields still
  obtain ⟨-, -, -, -, -, -, -, -, -, hand, answer, -, -, -, -, -, stillFree⟩ := still_fields growth.frame.still
  obtain ⟨-, sameReaches⟩ := rivers_fields ((offerLinks_rivers s.tables .orderRefused (.gate g) _).trans
    (formRecord_rivers (refusalRecord tr code detail (refusalNoted s g code))
      (answerWith tr.master (.refused code) (refusalNoted s g code))))
  have setting : (orderAnswered s tr g code detail).setting = s.dyn.setting :=
    (setting_of_still growth.frame.still).trans (setting_of_still still :)
  have recorded : Recorded (refusalRecord tr code detail s.dyn) (orderAnswered s tr g code detail) := by
    rw [← refusalRecord_noted s tr g code detail]
    exact (formRecord_recorded _ _).mono (offerLinks_frame _ _ _ _)
  have acted : LinksActed s.tables .orderRefused (.gate g) (orderAnswered s tr g code detail) := offerLinks_acted _ _ _ _
  have noRefresh := noRefreshWaits_of_course (p := answerWith tr.master (.refused code) (refusalNoted s g code)) idle isFree
    controls debt growth.course
  obtain ⟨t, next, tables, settled⟩ := settled_of_refused (x := .order g) idle rfl accepted handled rfl
    (stillFree.trans isFree) noRefresh
  have sameDams : (refusalNoted s g code).dams = s.dyn.dams := refusalNoted_dams s g code
  refine ⟨t, next, ?_, settled.totals.trans (growth.frame.totals.trans totals), ?_,
    fun h other => ?_, ?_, ⟨settled.port.hand.trans hand, settled.port.answer.trans answer, settled.recorded recorded⟩,
    settled.linksActed acted⟩
  · refine onlyEventsBeside_of_course settled tables growth.course setting controls holds (fun d => ?_) (fun r => ?_) ?_
      (growth.frame.queue.trans (refusalNoted_queue s g code))
    · rw [← sameDams]
      exact growth.frame.dams d
    · rw [← reaches]
      exact growth.frame.reaches r
    · exact boundsReported_of_reaches (settled.reaches.trans (sameReaches.trans reaches))
  · exact settled.reaches.trans (sameReaches.trans reaches)
  · have held := growth.frame.gates h
    have before : (refusalNoted s g code).gates.get h = s.dyn.gates.get h := by
      rw [refusalNoted_get, if_neg other]
    rw [settled.gates, ← before]
    exact held
  · have held := growth.frame.gates g
    have before : (refusalNoted s g code).gates.get g = { s.dyn.gates.get g with lastRefusal := some code } := by
      rw [refusalNoted_get, if_pos rfl]
    rw [settled.gates, ← before]
    exact held

end Refused

theorem admissionCheck_code {c : Tables} {reaches : Vector Reach 6} {a b : Vector Word 6} {code : Code} {d : ReachId}
    (fails : admissionCheck c reaches a b = some (code, d)) : ∃ k : Bound, code = k.code := by
  unfold admissionCheck at fails
  split at fails
  · cases fails
    exact ⟨_, rfl⟩
  · cases fails

end Sys2Proof.Machine

namespace Sys2Proof

open Machine

/-- Settles O38: by the stages of Table 3-2. The stage that refuses names the code; from stage 3 on the gate keeps it and
the event is offered. -/
theorem orderRefused : Obligations.OrderRefused := by
  intro s g w tr v code detail idle accepted decoded fails
  have decoded : decodeValue (s.tables.decimal (slotPage g)) 1000 w.data = v := decoded.symm
  obtain ⟨table, detailed⟩ | ⟨x, rfl, passes, moves, budget⟩ := fails
  · cases v with
    | none =>
      rw [orderTable_none] at table
      by_cases stops : stage1 s.dyn.mode (levelOf s.tables w.master) = false
      · rw [if_pos stops] at table
        cases table
        exact ⟨fun _ => gives_refused (x := .order g) rfl accepted (handleOrder_notRunning (p := presented s.dyn) stops),
          fun other => absurd rfl other⟩
      · rw [if_neg stops] at table
        cases table
        have runs : stage1 s.dyn.mode (levelOf s.tables w.master) = true := by simpa using stops
        exact ⟨fun _ => gives_refused (x := .order g) rfl accepted
          (handleOrder_badDigit (p := presented s.dyn) runs decoded), fun _ other => absurd rfl other⟩
    | some x =>
      have handled := handleOrder_refused (p := presented s.dyn) decoded table
      refine ⟨fun plain => ?_, fun runs _ => ?_⟩
      · obtain rfl | rfl := plain
        · exact gives_refused (x := .order g) rfl accepted (handled.trans (if_pos rfl))
        · rw [orderTable_some] at table
          split_ifs at table <;> cases table
      · rw [if_neg runs] at handled
        refine exec_orderRefused idle accepted ?_
        rw [detailed]
        exact handled
  · obtain ⟨⟨code', d⟩, check, made⟩ := Option.map_eq_some_iff.mp budget
    cases made
    obtain ⟨k, rfl⟩ := admissionCheck_code check
    refine ⟨fun plain => ?_, fun _ _ => ?_⟩
    · cases k <;> simp [Bound.code] at plain
    · exact exec_orderRefused idle accepted
        (handleOrder_overBudget (p := presented s.dyn) decoded passes moves (admission_error (p := presented s.dyn) check))

end Sys2Proof
end

section
/-! Service exit (R5): the gate's record and its share in the total of its dam, and the silencing check; O29. -/

namespace Sys2Proof.Machine

/-! ### A gate's record and its share -/

/-- What record y put for gate g and a change of the gate's share from `old` to `new` make, with the events of the change
and the actions of the links on them. -/
structure ShareMoved (c : Tables) (g : GateId) (y : Gate) (old new : Nat) (p q : Dyn) : Prop where
  course : Course c p q
  gate : y.OnlyHolds (q.gates.get g)
  others : ∀ h, h ≠ g → (p.gates.get h).OnlyHolds (q.gates.get h)
  queue : q.queue.Sublist p.queue
  gone : y.state ≠ .moving → g ∉ q.queue
  dams : ∀ d, ∃ h, q.dams.get d = { p.dams.get d with hold := h }
  totals : q.totals = movedTotals c g old new p.totals
  reaches : ∀ r, q.reaches.get r =
    { p.reaches.get r with
      exceeded :=
        if reachOfGate (c.gates.get g) r then (firstViolated c q.totals q.reaches r).isSome
        else (p.reaches.get r).exceeded }
  noted : BoundsNoted c p q

section Share

variable {c : Tables} {g : GateId} {y : Gate} {old new : Nat} {p q : Dyn}

theorem changeGateTotal_shareMoved (c : Tables) (g : GateId) (y : Gate) (old new : Nat) (p : Dyn) :
    ShareMoved c g y old new p (changeGateTotal c g old new (putGate g y p)) := by
  obtain ⟨totals, reaches⟩ := rivers_fields (putGate_rivers g y p)
  have growth := changeGateTotal_growth c g old new (putGate g y p)
  have frame := growth.frame
  have moved := changeGateTotal_reaches c g old new (putGate g y p)
  have noted := changeGateTotal_noted c g old new (putGate g y p)
  have newTotals := changeGateTotal_totals c g old new (putGate g y p)
  have put : Course c p (putGate g y p) := .of_around (putGate_around _ _ _)
  have course := put.trans (changeGateTotal_course c g old new (putGate g y p))
  rw [totals] at newTotals
  rw [reaches] at moved
  exact
    { course
      gate := by
        have held := frame.gates g
        rwa [putGate_get, if_pos rfl] at held
      others := fun h other => by
        have held := frame.gates h
        rwa [putGate_get, if_neg other] at held
      queue := frame.queue.trans (putGate_queue_sublist g y p)
      gone := fun still queued => by
        have waits := frame.queue.subset queued
        rw [putGate_queue, if_neg still] at waits
        simp at waits
      dams := fun d => by
        have held := frame.dams d
        rwa [putGate_dams] at held
      totals := newTotals
      reaches := moved
      noted := noted.earlier put fun r => by rw [reaches] }

/-- What follows may be anything that the links bring about and that leaves the gates' orders, the dams, the totals and
the reaches. -/
theorem ShareMoved.exceededAgrees {s t : State} (h : ShareMoved s.tables g y old new p q)
    (start : p.reaches = s.dyn.reaches) (totals : t.dyn.totals = q.totals) (reaches : t.dyn.reaches = q.reaches) :
    ExceededAgrees s.tables s t (reachOfGate (s.tables.gates.get g)) := by
  intro r
  have agrees := h.reaches r
  rw [start] at agrees
  rw [totals, reaches]
  exact agrees

theorem ShareMoved.totalsMoved {s t : State} (h : ShareMoved s.tables g y old new p q)
    (start : p.totals = s.dyn.totals) (totals : t.dyn.totals = q.totals) :
    TotalsMoved s t (s.tables.gates.get g).dam old new :=
  totalsMoved_of_moved (totals.trans (h.totals.trans (congrArg _ start)))

end Share

/-! ### A WRITE taken -/

section Taken

variable {s t : State} {tr : Transaction} {q : Dyn}

/-- What a WRITE that leaves the controls to the links keeps, after its grant. -/
theorem Settled.keeps (settled : Settled s t (takeInHand tr q)) {c : Tables} (course : Course c (presented s.dyn) q)
    (links : c.links = s.tables.links) :
    StoreKept s t ∧ SameSurroundings s t ∧ Taken tr t ∧ ControlByLinks s t := by
  obtain ⟨-, -, -, -, -, -, -, -, -, -, answer, -⟩ := still_fields course.still
  have setting : q.setting = s.dyn.setting := setting_of_still (p := presented s.dyn) course.still
  obtain ⟨mode, offer, progress, alarms⟩ := controls_fields (p := q) (q := t.dyn) settled.controls
  refine ⟨settled.store, settled.surroundings setting, settled.taken answer, ?_, fun k => ?_⟩
  · rw [← links, mode, offer, progress]
    exact course.control
  · rw [← links, alarms]
    exact course.alarms k

theorem Settled.boundsReported_of_taken (settled : Settled s t (takeInHand tr q))
    (noted : BoundsNoted t.tables (presented s.dyn) q) : BoundsReported s t :=
  noted.reported rfl rfl (fun _ => rfl) settled.totals settled.reaches settled.mode (fun _ made => settled.recorded made)
    fun _ _ acted => settled.linksActed acted

end Taken

/-! ### The exit -/

section Exit

variable {c : Tables} {g : GateId} {p : Dyn} {data : Word}

theorem handleServiceControl_exit (off : data = 0) (inService : (p.gates.get g).state ≠ .outOfService) :
    handleServiceControl g data c p = .taken c (exitService c g p) := by
  have h : (p.gates.get g).inService = true := by simpa using mt (Gate.inService_eq_false_iff _).mp inService
  simp [handleServiceControl, off, h]

/-- The silencing check of gate g at dam d, by what it finds. -/
theorem silenceCheckOf_dams_get (c : Tables) (g : GateId) (p : Dyn) (d : DamId) :
    ((c.gates.get g).inDam d = true → (c.gates.get g).kind = .flood → AllShut c p d →
      (silenceCheckOf c g p).dams.get d = { p.dams.get d with warning := .silent, dwellTimer := .stopped }) ∧
    (¬((c.gates.get g).inDam d = true ∧ (c.gates.get g).kind = .flood ∧ AllShut c p d) →
      (silenceCheckOf c g p).dams.get d = p.dams.get d) := by
  constructor
  · intro own flood shut
    rw [silenceCheckOf_flood flood (dam?_of_inDam own), if_pos ((allShut_iff c d p).mpr shut), setWarning_dams, put_get_ite,
      if_pos rfl]
  · intro stays
    by_cases own : (c.gates.get g).inDam d = true
    · cases kind : (c.gates.get g).kind with
      | wicket => rw [silenceCheckOf_wicket kind]
      | flood =>
        have open' : ¬ allShut c d p = true := fun shut => stays ⟨own, kind, (allShut_iff c d p).mp shut⟩
        rw [silenceCheckOf_flood kind (dam?_of_inDam own), if_neg open']
    · exact silenceCheckOf_dam_elsewhere (by simpa using own) p

theorem allShut_congr {q : Dyn} (gates : q.gates = p.gates) (d : DamId) : AllShut c q d ↔ AllShut c p d := by
  unfold AllShut
  rw [gates]

/-- A dam whose hold flag alone has changed, and then its warning. -/
theorem Dam.sameButHold_of_hold {x y : Dam} (h : ∃ b, y = { x with hold := b }) : x.sameButHold y := by
  obtain ⟨b, rfl⟩ := h
  rfl

end Exit

/-- Settles O29: the record and the share of the gate, then the silencing check. -/
theorem serviceExitLeavesTheGateOut : Obligations.ServiceExitLeavesTheGateOut := by
  intro s g w tr idle accepted off inService
  have moved : ShareMoved s.tables g (s.dyn.gates.get g).exited (releaseOf s.tables g (s.dyn.gates.get g).target) 0
      (presented s.dyn) _ := changeGateTotal_shareMoved s.tables g (s.dyn.gates.get g).exited _ 0 (presented s.dyn)
  have handled := handleServiceControl_exit (c := s.tables) (p := presented s.dyn) off inService
  rw [show exitService s.tables g (presented s.dyn) = silenceCheckOf s.tables g (changeGateTotal s.tables g
    (releaseOf s.tables g (s.dyn.gates.get g).target) 0 (putGate g (s.dyn.gates.get g).exited (presented s.dyn))) from rfl]
    at handled
  generalize changeGateTotal s.tables g (releaseOf s.tables g (s.dyn.gates.get g).target) 0
    (putGate g (s.dyn.gates.get g).exited (presented s.dyn)) = q at handled moved
  have silences : Course s.tables q (silenceCheckOf s.tables g q) := .of_around (silenceCheckOf_around _ _ _)
  have rivers := silenceCheckOf_rivers s.tables g q
  have gates := silenceCheckOf_gates s.tables g q
  have queue := silenceCheckOf_queue s.tables g q
  have silenced := silenceCheckOf_dams_get s.tables g q
  have noted := moved.noted.later silences rivers
  have course := moved.course.trans silences
  generalize silenceCheckOf s.tables g q = u at *
  obtain ⟨totals, reaches⟩ := rivers_fields rivers
  obtain ⟨t, next, tables, settled⟩ := settled_of_course (i := .serviceExit g w) idle rfl accepted handled course
  obtain ⟨store, surroundings, taken, controls⟩ := settled.keeps course rfl
  have gatesEnd : t.dyn.gates = q.gates := settled.gates.trans gates
  have queueEnd : t.dyn.queue = q.queue := settled.queue.trans queue
  have totalsEnd : t.dyn.totals = q.totals := settled.totals.trans totals
  have reachesEnd : t.dyn.reaches = q.reaches := settled.reaches.trans reaches
  have damsEnd : t.dyn.dams = u.dams := settled.dams
  rw [← tables] at noted
  refine ⟨t, next, tables, store, surroundings, taken, controls, settled.boundsReported_of_taken noted, ?gate,
    fun h other => ?others, ?gone, ?sublist, moved.totalsMoved rfl totalsEnd, moved.exceededAgrees rfl totalsEnd reachesEnd, fun d => ?dam⟩
  case gate =>
    rw [gatesEnd]
    exact moved.gate.eq_of_out rfl
  case others =>
    rw [gatesEnd]
    exact moved.others h other
  case gone =>
    rw [queueEnd]
    exact moved.gone (by simp [Gate.exited])
  case sublist =>
    rw [queueEnd]
    exact moved.queue
  case dam =>
    obtain ⟨hold, held⟩ := moved.dams d
    rw [allShut_congr gatesEnd, damsEnd]
    constructor
    · intro own flood shut
      rw [(silenced d).1 own flood shut, held]
      rfl
    · intro stays
      rw [(silenced d).2 stays, held]
      rfl

end Sys2Proof.Machine
end

section
/-! Service entry (R4): what a scan keeps of a sounded dam, and the record, the share and the warning that the entry
makes; O27. -/

namespace Sys2Proof.Machine

/-! ### What a scan keeps -/

section Keeps

variable {c : Tables} {I : Dyn → Prop}

theorem loseInterlock_soundAt {p : Dyn} {g : GateId} {k : CondId} (sound : SoundAt c p) (queued : g ∈ p.queue)
    (false : falseCondition c p.statusWords g (directionTo (p.gates.get g).command (p.gates.get g).target) = some k) :
    SoundAt c (loseInterlock c g (directionTo (p.gates.get g).command (p.gates.get g).target) k p) :=
  Turns.soundAt (loseInterlock_turns c (fun _ => queued) false) sound

/-- What the grants and the losses of queued gates keep, a scan of the claims keeps. -/
theorem Scanned.keeps (grants : ∀ p g, SoundAt c p → g ∈ p.queue → I p → I (grant c g p))
    (loses : ∀ p g dir k, SoundAt c p → g ∈ p.queue → I p → I (loseInterlock c g dir k p)) {p q : Dyn}
    {lost : List GateId} (h : Scanned c p lost q) (sound : SoundAt c p) (start : I p) : I q := by
  induction h with
  | done p _ => exact start
  | grants p q g before after lost queue _ _ passes _ ih =>
    have queued : g ∈ p.queue := by simp [queue]
    exact ih (Turn.soundAt (.grant (fun _ => queued) passes) sound) (grants p g sound queued start)
  | holds p q g k before after lost queue _ _ fails _ ih =>
    have queued : g ∈ p.queue := by simp [queue]
    exact ih (loseInterlock_soundAt sound queued fails) (loses p g _ k sound queued start)

/-- What the links keep besides, a scan after joins keeps. -/
theorem joinAndScan_keeps_joined (grants : ∀ p g, SoundAt c p → g ∈ p.queue → I p → I (grant c g p))
    (loses : ∀ p g dir k, SoundAt c p → g ∈ p.queue → I p → I (loseInterlock c g dir k p))
    (links : ∀ p g, I p → I (offerLinks c .interlockLost (.gate g) p))
    (sel : GateId → Bool) (forced : Bool) {p : Dyn} (sound : SoundAt c p) (start : I (joinAll c sel p)) :
    I (joinAndScan c sel forced p) := by
  have joinedSound : SoundAt c (joinAll c sel p) := Turns.soundAt (joinAll_turns c sel p) sound
  unfold joinAndScan
  dsimp only
  split
  case isFalse => exact start
  case isTrue =>
    obtain ⟨q, lost, scanned, ends⟩ := scan_scanned c joinedSound.queue.distinct
    have scannedKeeps : I q := scanned.keeps grants loses joinedSound start
    rw [ends]
    exact List.foldlRecOn lost _ scannedKeeps fun p held g _ => links p g held

/-- The same of what the queue does not matter to. -/
theorem joinAndScan_keeps (grants : ∀ p g, SoundAt c p → g ∈ p.queue → I p → I (grant c g p))
    (loses : ∀ p g dir k, SoundAt c p → g ∈ p.queue → I p → I (loseInterlock c g dir k p))
    (links : ∀ p g, I p → I (offerLinks c .interlockLost (.gate g) p)) (joins : ∀ p l, I p → I { p with queue := l })
    (sel : GateId → Bool) (forced : Bool) {p : Dyn} (sound : SoundAt c p) (start : I p) :
    I (joinAndScan c sel forced p) := by
  obtain ⟨js, joined, -, -⟩ := joinAll_eq c sel p
  refine joinAndScan_keeps_joined grants loses links sel forced sound ?_
  rw [joined]
  exact joins p _ start

end Keeps

/-! ### A sounded dam -/

/-- Dam e's warning and dwell timer stand from p to q, or the closing of flood gate g has silenced the dam. -/
def Silenced (c : Tables) (g : GateId) (p q : Dyn) (e : DamId) : Prop :=
  ((q.dams.get e).warning = (p.dams.get e).warning ∧ (q.dams.get e).dwellTimer = (p.dams.get e).dwellTimer) ∨
    ((c.gates.get g).kind = .flood ∧ (c.gates.get g).inDam e = true ∧ (q.gates.get g).state = .closed ∧ AllShut c q e ∧
      (q.dams.get e).warning = .silent ∧ (q.dams.get e).dwellTimer = .stopped)

theorem silenceCheckOf_silenced {c : Tables} {g : GateId} {p : Dyn} (closed : (p.gates.get g).state = .closed)
    (e : DamId) : Silenced c g p (silenceCheckOf c g p) e := by
  obtain ⟨silences, stays⟩ := silenceCheckOf_dams_get c g p e
  by_cases shut : (c.gates.get g).inDam e = true ∧ (c.gates.get g).kind = .flood ∧ AllShut c p e
  · obtain ⟨own, flood, all⟩ := shut
    refine .inr ⟨flood, own, ?_, (allShut_congr (silenceCheckOf_gates c g p) e).mpr all, ?_⟩
    · rw [silenceCheckOf_gates]
      exact closed
    · rw [silences own flood all]
      exact ⟨rfl, rfl⟩
  · rw [Silenced, stays shut]
    exact .inl ⟨rfl, rfl⟩

theorem Silenced.of_dams {c : Tables} {g : GateId} {p q : Dyn} (dams : q.dams = p.dams) (e : DamId) :
    Silenced c g p q e := .inl ⟨by rw [dams], by rw [dams]⟩

theorem Silenced.from {c : Tables} {g : GateId} {p p' q : Dyn} {e : DamId} (h : Silenced c g p' q e)
    (warning : (p'.dams.get e).warning = (p.dams.get e).warning)
    (timer : (p'.dams.get e).dwellTimer = (p.dams.get e).dwellTimer) : Silenced c g p q e := by
  unfold Silenced at h ⊢
  rwa [← warning, ← timer]

theorem recoveryEnds_silenced (c : Tables) (g : GateId) (p : Dyn) (e : DamId) :
    Silenced c g p (recoveryEnds c g p) e := by
  have put (x : Gate) : (putGate g x p).dams = p.dams := putGate_dams _ _ _
  unfold recoveryEnds
  dsimp only
  split
  · exact (silenceCheckOf_silenced (by rw [putGate_get, if_pos rfl]) e).from (by rw [put]) (by rw [put])
  · exact .of_dams (put _) e

theorem settle_silenced (c : Tables) (g : GateId) (p : Dyn) (e : DamId) : Silenced c g p (settle c g p) e := by
  have put (x : Gate) : (putGate g x p).dams = p.dams := putGate_dams _ _ _
  unfold settle
  dsimp only
  split
  · split
    · exact (recoveryEnds_silenced c g _ e).from (by rw [put]) (by rw [put])
    · exact .of_dams (put _) e
  · exact .of_dams (put _) e

theorem recordStep_warning (c : Tables) (g : GateId) (dir : Direction) (p : Dyn) (e : DamId) :
    ((recordStep c g dir p).dams.get e).warning = (p.dams.get e).warning ∧
      ((recordStep c g dir p).dams.get e).dwellTimer = (p.dams.get e).dwellTimer := by
  unfold recordStep
  split
  case h_2 => exact ⟨rfl, rfl⟩
  case h_1 d _ =>
    rw [putDam_dams, put_get_ite]
    split
    case isFalse => exact ⟨rfl, rfl⟩
    case isTrue same => cases dir <;> rw [same] <;> exact ⟨rfl, rfl⟩

/-- A grant changes a dam's warning only where it closes the last flood gate of the dam. -/
theorem grant_silenced (c : Tables) (g : GateId) (p : Dyn) (e : DamId) : Silenced c g p (grant c g p) e := by
  have recorded (dir : Direction) (x : Gate) :
      ((recordStep c g dir (putGate g x (dequeue g p))).dams.get e).warning = (p.dams.get e).warning ∧
        ((recordStep c g dir (putGate g x (dequeue g p))).dams.get e).dwellTimer = (p.dams.get e).dwellTimer := by
    have step := recordStep_warning c g dir (putGate g x (dequeue g p)) e
    rwa [putGate_dams] at step
  unfold grant
  dsimp only
  split
  · exact (settle_silenced c g _ e).from (recorded _ _).1 (recorded _ _).2
  · exact .inl (recorded _ _)

theorem Gate.OnlyHolds.state_of_resting {x y : Gate} (h : x.OnlyHolds y) (moving : x.state ≠ .moving)
    (held : x.state ≠ .held) : y.state = x.state := by
  obtain rfl | ⟨-, cs, -, -, -, rfl⟩ := h
  · rfl
  · rw [Gate.withCauses_resting moving held]

/-- A gate that only gains holds is MOVING only if it was. -/
theorem Gate.OnlyHolds.moving {x y : Gate} {kind : GateKind} (h : x.OnlyHolds y) (sound : x.Sound kind)
    (moves : y.state = .moving) : x.state = .moving := by
  obtain rfl | ⟨-, cs, interlock, mode, dam, rfl⟩ := h
  · exact moves
  · by_contra still
    by_cases held : x.state = .held
    · have some := (sound.held held).2
      have stays : cs.isEmpty = false := by
        simp only [Causes.isEmpty, Bool.not_eq_false', Bool.or_eq_true] at some ⊢
        obtain (set | set) | set := some
        · exact .inl (.inl (mode set))
        · exact .inl (.inr (dam set))
        · exact .inr (interlock.trans set)
      exact Gate.withCauses_ne_moving x stays moves
    · rw [Gate.withCauses_resting still held] at moves
      exact still moves

/-- Dam d is SOUNDED, and its flood gate g stands open and settled. -/
structure SoundedBy (g : GateId) (d : DamId) (p : Dyn) : Prop where
  warning : (p.dams.get d).warning = .sounded
  settled : (p.gates.get g).state = .settled

/-- No gate of dam d is in WARNING. -/
def NoneWaits (c : Tables) (d : DamId) (p : Dyn) : Prop :=
  ∀ h, (c.gates.get h).inDam d = true → (p.gates.get h).state ≠ .warning

section Sounded

variable {c : Tables} {g : GateId} {d : DamId}

theorem SoundAt.other_of_settled {p : Dyn} {h : GateId} (sound : SoundAt c p) (queued : h ∈ p.queue)
    (settled : (p.gates.get g).state = .settled) : g ≠ h := by
  rintro rfl
  exact absurd (settled.symm.trans (sound.queue.moving g queued)) (by decide)

theorem joinAndScan_soundedBy (flood : (c.gates.get g).kind = .flood) (own : (c.gates.get g).inDam d = true)
    (sel : GateId → Bool) (forced : Bool) {p : Dyn} (sound : SoundAt c p) (start : SoundedBy g d p) :
    SoundedBy g d (joinAndScan c sel forced p) := by
  refine joinAndScan_keeps (I := SoundedBy g d) ?grants ?loses ?links (fun _ _ h => ⟨h.warning, h.settled⟩) sel forced sound
    start
  case grants =>
    intro p h sound queued start
    have settled : ((grant c h p).gates.get g).state = .settled := by
      rw [grant_get, if_neg (sound.other_of_settled queued start.settled)]
      exact start.settled
    obtain ⟨same, -⟩ | ⟨-, -, -, shut, -⟩ := grant_silenced c h p d
    · exact ⟨same.trans start.warning, settled⟩
    · exact absurd (shut g flood own) (by simp [settled])
  case loses =>
    intro p h dir k sound queued start
    constructor
    · rw [loseInterlock_dams]
      exact start.warning
    · rw [loseInterlock_get, if_neg (sound.other_of_settled queued start.settled)]
      exact start.settled
  case links =>
    intro p h start
    have growth := offerLinks_growth c .interlockLost (.gate h) p
    obtain ⟨hold, dam⟩ := growth.frame.dams d
    have state := (growth.frame.gates g).state_of_resting (by simp [start.settled]) (by simp [start.settled])
    exact ⟨by rw [dam]; exact start.warning, state.trans start.settled⟩

/-- Neither a step nor a hold puts a gate into WARNING. -/
theorem Gate.stepped_ne_warning {x : Gate} (moving : x.state = .moving) (c : GateConfig) (dwell : Nat) (tick : BitVec 32) :
    (x.stepped c dwell tick).state ≠ .warning := by
  unfold Gate.stepped Gate.ended Gate.granted
  dsimp only
  split
  · dsimp only
    repeat' split
    all_goals simp
  · simp [moving]

theorem Gate.withCauses_ne_warning {x : Gate} (state : x.state ≠ .warning) (cs : Causes) :
    (x.withCauses cs).state ≠ .warning := by
  rw [Gate.withCauses_eq]
  dsimp only
  repeat' split
  all_goals simp [state]

theorem joinAndScan_noneWaits (sel : GateId → Bool) (forced : Bool) {p : Dyn} (sound : SoundAt c p)
    (start : NoneWaits c d p) : NoneWaits c d (joinAndScan c sel forced p) := by
  refine joinAndScan_keeps (I := NoneWaits c d) ?grants ?loses ?links (fun _ _ start => start) sel forced sound start
  case grants =>
    intro p h sound queued start i own
    rw [grant_get]
    split
    · exact Gate.stepped_ne_warning (sound.queue.moving h queued) _ _ _
    · exact start i own
  case loses =>
    intro p h dir k sound queued start i own
    rw [loseInterlock_get]
    split
    case isTrue same => exact Gate.withCauses_ne_warning (same ▸ start i own) _
    case isFalse => exact start i own
  case links =>
    intro p h start i own
    obtain same | ⟨-, cs, -, -, -, held⟩ := (offerLinks_growth c .interlockLost (.gate h) p).frame.gates i
    · rw [same]
      exact start i own
    · rw [held]
      exact Gate.withCauses_ne_warning (start i own) cs

end Sounded

/-! ### The warning of an entry (R22) -/

section Warned

variable {c : Tables} {g : GateId} {d : DamId} {n : Nat} {p : Dyn}

theorem soundForEntry_none (none : ¬((c.gates.get g).kind = .flood ∧ 0 < n)) : soundForEntry c g d n p = p := by
  unfold soundForEntry
  rw [if_neg (by simpa using none)]

theorem soundForEntry_dams (open' : (c.gates.get g).kind = .flood ∧ 0 < n) : ∃ timer, ∀ e,
    (soundForEntry c g d n p).dams.get e =
      if e = d then { p.dams.get d with warning := .sounded, dwellTimer := timer } else p.dams.get e := by
  unfold soundForEntry soundAtEntry
  rw [if_pos (by simpa using open')]
  split
  case h_1 => exact ⟨.stopped, fun e => by rw [setWarning_dams, put_get_ite]⟩
  case h_2 => exact ⟨.stopped, fun e => by rw [dwellEnds_dams, put_get_ite]⟩
  case h_3 sounded =>
    refine ⟨(p.dams.get d).dwellTimer, fun e => ?_⟩
    split
    case isTrue same => rw [same, ← sounded]
    case isFalse => rfl

theorem soundForEntry_get (i : GateId) : (soundForEntry c g d n p).gates.get i =
    if ((c.gates.get g).kind = .flood ∧ 0 < n) ∧ (p.dams.get d).warning = .sounding ∧ (c.gates.get i).inDam d = true ∧
        (p.gates.get i).state = .warning then { p.gates.get i with state := (p.gates.get i).moveState }
    else p.gates.get i := by
  unfold soundForEntry soundAtEntry
  by_cases open' : (c.gates.get g).kind = .flood ∧ 0 < n
  · rw [if_pos (by simpa using open')]
    split
    case h_1 silent => simp [silent]
    case h_2 sounding => simp [sounding, open', dwellEnds_get]
    case h_3 sounded => simp [sounded]
  · rw [if_neg (by simpa using open'), if_neg (fun all => open' all.1)]

end Warned

/-! ### The entry -/

section Enter

variable {c : Tables} {g : GateId} {d : DamId} {p : Dyn} {data : Word}

theorem handleServiceControl_enter (on : data = 1) (out : (p.gates.get g).state = .outOfService)
    (fits : RecordFits (c.gates.get g) c.lastDam) (known : (p.gates.get g).feedbackKnown = true)
    (dam : (c.gates.get g).dam? = some d) : handleServiceControl g data c p = .taken c (enterService c g d p) := by
  have h := (Gate.inService_eq_false_iff _).mpr out
  simp [handleServiceControl, on, h, (configValid_iff c g).mpr fits, known, dam]

/-- The state of an entry before its warning: the record and its share. -/
def entryShared (c : Tables) (g : GateId) (d : DamId) (p : Dyn) : Dyn :=
  changeGateTotal c g 0 (releaseOf c g (p.gates.get g).feedback)
    (putGate g ((p.gates.get g).entered (c.gates.get g).kind p.mode (p.dams.get d).hold) p)

theorem enterService_eq (dam : (c.gates.get g).dam? = some d) : enterService c g d p =
    schedule c p false (soundForEntry c g d (p.gates.get g).feedback (entryShared c g d p)) := by
  simp only [enterService, soundForEntry, entryShared, changeGateTotal, dam]

theorem entryShared_soundAt (sound : SoundAt c p) (out : (p.gates.get g).state = .outOfService)
    (dam : (c.gates.get g).dam? = some d) :
    SoundAt c (soundForEntry c g d (p.gates.get g).feedback (entryShared c g d p)) := by
  refine Turn.soundAt (.enter ((Gate.inService_eq_false_iff _).mpr out) dam ?_) sound
  unfold enteredAt entryShared changeGateTotal
  rw [dam, ← putGate_totals g ((p.gates.get g).entered (c.gates.get g).kind p.mode (p.dams.get d).hold) p]
  exact changeTotal_linked c d _ _ _

theorem Gate.entered_state (x : Gate) (kind : GateKind) (mode : Mode) (hold : Bool) :
    (x.entered kind mode hold).state = .closed ∨ (x.entered kind mode hold).state = .settled := by
  unfold Gate.entered
  dsimp only
  split
  · exact .inl rfl
  · exact .inr rfl

theorem Gate.entered_settled (x : Gate) (kind : GateKind) (mode : Mode) (hold : Bool) (above : 0 < x.feedback) :
    (x.entered kind mode hold).state = .settled := by
  simp [Gate.entered, Nat.ne_of_gt above]

theorem Gate.entered_eq (x : Gate) (kind : GateKind) (mode : Mode) (hold : Bool) : x.entered kind mode hold =
    { x with
      state := if kind = .flood ∧ x.feedback = 0 then .closed else .settled
      target := x.feedback
      command := x.feedback
      causes := ⟨mode == .hold || mode == .exiting, hold, false⟩ } := by
  simp [Gate.entered]

end Enter

/-- What an entry of gate g at dam d makes: after the share (q) the warning (u), and then the scheduling (v). -/
structure Entered (c : Tables) (g : GateId) (d : DamId) (p q u v : Dyn) : Prop where
  sound : SoundAt c p
  shared : ShareMoved c g ((p.gates.get g).entered (c.gates.get g).kind p.mode (p.dams.get d).hold) 0
    (releaseOf c g (p.gates.get g).feedback) p q
  warned : u = soundForEntry c g d (p.gates.get g).feedback q
  soundWarned : SoundAt c u
  scheduled : v = schedule c p false u

section Entered

variable {c : Tables} {g : GateId} {d : DamId} {p q u v : Dyn}

theorem enterService_entered (sound : SoundAt c p) (out : (p.gates.get g).state = .outOfService)
    (dam : (c.gates.get g).dam? = some d) : ∃ q u, Entered c g d p q u (enterService c g d p) :=
  ⟨_, _, sound, changeGateTotal_shareMoved c g _ 0 _ p, rfl, entryShared_soundAt sound out dam, enterService_eq dam⟩

namespace Entered

variable (h : Entered c g d p q u v)
include h

theorem course_warned : Course c q v := by
  have warning : Course c q u := by
    rw [h.warned]
    exact .of_around (by unfold soundForEntry; split <;> simp)
  exact warning.trans (h.scheduled ▸ schedule_course p false u)

theorem rivers : v.rivers = q.rivers := by
  rw [h.scheduled, schedule_rivers, h.warned]
  unfold soundForEntry
  split <;> simp

theorem resting : (q.gates.get g).state ≠ .moving ∧ (q.gates.get g).state ≠ .warning := by
  obtain state | state := Gate.entered_state (p.gates.get g) (c.gates.get g).kind p.mode (p.dams.get d).hold <;>
  · rw [h.shared.gate.state_of_resting (by simp [state]) (by simp [state]), state]
    decide

theorem gate_warned : u.gates.get g = q.gates.get g := by
  rw [h.warned, soundForEntry_get, if_neg fun all => h.resting.2 all.2.2.2]

/-- The entered gate neither joins nor waits. -/
theorem gate :
    ((p.gates.get g).entered (c.gates.get g).kind p.mode (p.dams.get d).hold).OnlyHolds (v.gates.get g) := by
  have still : (u.gates.get g).state ≠ .moving := by
    rw [h.gate_warned]
    exact h.resting.1
  obtain ⟨js, joined, frame⟩ := joinAndScan_frame c (becameMoving p u) false u h.soundWarned.queue.distinct
  have outside : g ∉ u.queue ++ js := by
    rw [List.mem_append]
    rintro (waits | joins)
    · exact still (h.soundWarned.queue.moving g waits)
    · exact still (joinable_run (joined g joins).2).2
  have held := frame.of_joined.1 g outside
  rw [h.gate_warned] at held
  rw [h.scheduled]
  exact h.shared.gate.trans held

theorem sounded (own : (c.gates.get g).inDam d = true) (flood : (c.gates.get g).kind = .flood)
    (above : 0 < (p.gates.get g).feedback) : SoundedBy g d v := by
  obtain ⟨timer, dams⟩ := soundForEntry_dams (d := d) (p := q) (And.intro flood above)
  have entered := Gate.entered_settled _ (c.gates.get g).kind p.mode (p.dams.get d).hold above
  have start : SoundedBy g d u := by
    constructor
    · rw [h.warned, dams, if_pos rfl]
    · rw [h.gate_warned, h.shared.gate.state_of_resting (by simp [entered]) (by simp [entered]), entered]
  rw [h.scheduled]
  exact joinAndScan_soundedBy flood own _ false h.soundWarned start

theorem warning_shared (e : DamId) : (q.dams.get e).warning = (p.dams.get e).warning := by
  obtain ⟨hold, dam⟩ := h.shared.dams e
  rw [dam]

/-- A sounding dam has released every gate in WARNING. -/
theorem noneWaits (flood : (c.gates.get g).kind = .flood) (above : 0 < (p.gates.get g).feedback)
    (sounding : (p.dams.get d).warning = .sounding) : NoneWaits c d v := by
  have start : NoneWaits c d u := by
    intro i own
    rw [h.warned, soundForEntry_get]
    split
    case isTrue => cases empty : (q.gates.get i).causes.isEmpty <;> simp [Gate.moveState, empty]
    case isFalse stays =>
      exact fun waits => stays ⟨⟨flood, above⟩, (h.warning_shared d).trans sounding, own, waits⟩
  rw [h.scheduled]
  exact joinAndScan_noneWaits _ false h.soundWarned start

/-- Unless the entry releases gates of a sounding dam, no gate moves in it. -/
theorem gates_warned (quiet : (c.gates.get g).kind = .flood → 0 < (p.gates.get g).feedback →
    (p.dams.get d).warning ≠ .sounding) : v = u ∧ u.gates = q.gates := by
  have gates (i : GateId) : u.gates.get i = q.gates.get i := by
    rw [h.warned, soundForEntry_get, if_neg]
    rintro ⟨⟨flood, above⟩, sounding, -⟩
    exact quiet flood above ((h.warning_shared d).symm.trans sounding)
  refine ⟨?_, vector_ext_get gates⟩
  rw [h.scheduled]
  refine joinAndScan_none fun i becomes => ?_
  simp only [becameMoving, Bool.and_eq_true, beq_iff_eq, bne_iff_ne] at becomes
  obtain ⟨moves, still⟩ := becomes
  rw [gates] at moves
  by_cases same : i = g
  · exact absurd (same ▸ moves) h.resting.1
  · exact absurd ((h.shared.others i same).moving (h.sound.gate i) moves) still

theorem dams_warned (e : DamId) : (u.dams.get e).sequence = (p.dams.get e).sequence ∧
    ((c.gates.get g).inDam e = false ∨ (c.gates.get g).kind = .wicket ∨ (p.gates.get g).feedback = 0 →
      (c.gates.get g).inDam d = true → (p.dams.get e).sameButHold (u.dams.get e)) := by
  obtain ⟨hold, dam⟩ := h.shared.dams e
  by_cases open' : (c.gates.get g).kind = .flood ∧ 0 < (p.gates.get g).feedback
  · obtain ⟨timer, dams⟩ := soundForEntry_dams (d := d) (p := q) open'
    rw [h.warned, dams e]
    split
    case isTrue same =>
      subst same
      refine ⟨by rw [dam], fun apart own => ?_⟩
      obtain elsewhere | wicket | shut := apart
      · exact absurd (elsewhere.symm.trans own) (by decide)
      · exact absurd (wicket.symm.trans open'.1) (by decide)
      · exact absurd shut (Nat.ne_of_gt open'.2)
    case isFalse =>
      rw [dam]
      exact ⟨rfl, fun _ _ => rfl⟩
  · rw [h.warned, soundForEntry_none open', dam]
    exact ⟨rfl, fun _ _ => rfl⟩

end Entered

end Entered

/-- Settles O27: the record and its share, the warning of an open flood gate, and the gates that it releases. -/
theorem serviceEntryAdoptsTheFeedback : Obligations.ServiceEntryAdoptsTheFeedback := by
  intro s g w tr idle sound accepted on out fits known
  obtain ⟨d, dam⟩ : ∃ d, (s.tables.gates.get g).dam? = some d := by
    obtain ⟨-, -, -, -, dam, -⟩ := fits
    exact ⟨⟨(s.tables.gates.get g).dam.toNat, lt_of_le_of_lt dam s.tables.lastDam.isLt⟩, dif_pos _⟩
  have own : (s.tables.gates.get g).inDam d = true := inDam_of_dam? dam
  have start : SoundAt s.tables (presented s.dyn) := (gatesSound_iff.mp sound).of_eq rfl rfl rfl
  have handled := handleServiceControl_enter (p := presented s.dyn) on out fits known dam
  obtain ⟨q, u, entered⟩ := enterService_entered start out dam
  generalize enterService s.tables g d (presented s.dyn) = v at handled entered
  have course : Course s.tables (presented s.dyn) v := entered.shared.course.trans entered.course_warned
  have noted := entered.shared.noted.later entered.course_warned entered.rivers
  obtain ⟨totals, reaches⟩ := rivers_fields entered.rivers
  obtain ⟨t, next, tables, settled⟩ := settled_of_course (i := .serviceEntry g w) idle rfl accepted handled course
  obtain ⟨store, surroundings, taken, controls⟩ := settled.keeps course rfl
  have gatesEnd : t.dyn.gates = v.gates := settled.gates
  have damsEnd : t.dyn.dams = v.dams := settled.dams
  have totalsEnd : t.dyn.totals = q.totals := settled.totals.trans totals
  have reachesEnd : t.dyn.reaches = q.reaches := settled.reaches.trans reaches
  rw [← tables] at noted
  refine ⟨t, next, tables, store, surroundings, taken, controls, settled.boundsReported_of_taken noted,
    fun e here => ?gate, entered.shared.totalsMoved rfl totalsEnd, entered.shared.exceededAgrees rfl totalsEnd reachesEnd,
    fun e here flood above => ⟨?sounded, fun h inDam => ?released⟩, fun quiet => ?quiet⟩
  case gate =>
    obtain rfl := inDam_unique own here
    rw [gatesEnd, ← Gate.entered_eq]
    exact entered.gate
  case sounded =>
    obtain rfl := inDam_unique own here
    rw [damsEnd]
    exact (entered.sounded own flood above).warning
  case released =>
    obtain rfl := inDam_unique own here
    by_cases sounding : (s.dyn.dams.get d).warning = .sounding
    · rw [gatesEnd]
      exact .inl (entered.noneWaits flood above sounding h inDam)
    · exact .inr sounding
  case quiet =>
    obtain ⟨idle, gates⟩ := entered.gates_warned fun flood above => quiet d own flood above
    rw [idle] at gatesEnd damsEnd
    refine ⟨fun h other => ?_, fun e => ?_⟩
    · rw [gatesEnd, gates]
      exact entered.shared.others h other
    · obtain ⟨sequence, stands⟩ := entered.dams_warned e
      rw [damsEnd]
      exact ⟨sequence, fun apart => stands apart own⟩

end Sys2Proof.Machine
end

section
/-! The hold control word of a dam (R24): what a set and a clear of the hold flag make, and the gates that a clear
releases; O30. -/

namespace Sys2Proof.Machine

/-! ### A change of the hold flag -/

/-- Dam d's hold flag becomes b, and with it DAM at every in-service gate of the dam. -/
def holdChanged (c : Tables) (d : DamId) (b : Bool) (p : Dyn) : Dyn :=
  markReach d
    (changeCauses (fun g => (c.gates.get g).inDam d) (fun cs => { cs with dam := b })
      (putDam d { p.dams.get d with hold := b } p))

section Changed

variable {c : Tables} {d : DamId} {b : Bool} {p : Dyn}

theorem setHold_set (hold : (p.dams.get d).hold = true) : setHold c d p = p := if_pos hold

theorem setHold_clear (hold : (p.dams.get d).hold = false) : setHold c d p = holdChanged c d true p :=
  if_neg (by simp [hold])

theorem clearHold_set (hold : (p.dams.get d).hold = true) : clearHold c d p = holdChanged c d false p := if_pos hold

theorem clearHold_clear (hold : (p.dams.get d).hold = false) : clearHold c d p = p := if_neg (by simp [hold])

theorem holdChanged_get (g : GateId) : (holdChanged c d b p).gates.get g =
    if (p.gates.get g).inService && (c.gates.get g).inDam d then
      (p.gates.get g).withCauses { (p.gates.get g).causes with dam := b }
    else p.gates.get g := by
  rw [holdChanged, markReach_gates, changeCauses_get, putDam_gates]

theorem holdChanged_queue : (holdChanged c d b p).queue = p.queue.filter fun g =>
    !((p.gates.get g).inService && (c.gates.get g).inDam d) ||
      ((p.gates.get g).withCauses { (p.gates.get g).causes with dam := b }).state == .moving := by
  simp only [holdChanged, markReach_queue, changeCauses_queue, putDam_gates, putDam_queue]

theorem holdChanged_keeps {β : Type} (view : Dyn → β) (put : ∀ g x p, view (putGate g x p) = view p)
    (mark : ∀ r p, view (markReach r p) = view p) : view (holdChanged c d b p) =
      view (putDam d { p.dams.get d with hold := b } p) :=
  (mark _ _).trans (changeCauses_keeps view put _ _ _)

theorem holdChanged_dams : (holdChanged c d b p).dams = Table.put p.dams d { p.dams.get d with hold := b } :=
  holdChanged_keeps Dyn.dams putGate_dams markReach_dams

theorem holdChanged_still : (holdChanged c d b p).still = p.still :=
  (holdChanged_keeps Dyn.still putGate_still markReach_still).trans (putDam_still _ _ _)

theorem holdChanged_rivers : (holdChanged c d b p).rivers = p.rivers :=
  (holdChanged_keeps Dyn.rivers putGate_rivers markReach_rivers).trans (putDam_rivers _ _ _)

theorem holdChanged_controls : (holdChanged c d b p).controls = p.controls :=
  (holdChanged_keeps Dyn.controls (fun _ _ _ => by simp [Dyn.controls]) markReach_controls).trans (putDam_controls _ _ _)

theorem holdChanged_log : (holdChanged c d b p).logBuffer = p.logBuffer ∧ (holdChanged c d b p).logLost = p.logLost :=
  ⟨holdChanged_keeps Dyn.logBuffer putGate_logBuffer markReach_logBuffer,
    holdChanged_keeps Dyn.logLost putGate_logLost markReach_logLost⟩

/-- The line HOLDe shows the flag. -/
theorem holdLine_changed {t : State} {q : Dyn} (dams : t.dyn.dams = Table.put q.dams d { q.dams.get d with hold := b })
    (e : DamId) : holdLine t.dyn e = if e = d then b else holdLine q e := by
  rw [holdLine, dams, put_get_ite]
  split <;> rfl

/-- A gate that a set of the hold flag holds. -/
theorem Gate.withDam_set (x : Gate) : x.withCauses { x.causes with dam := true } =
    { x with
      causes := { x.causes with dam := true }
      state := if x.state = .moving ∨ x.state = .held then .held else x.state } :=
  Gate.withCauses_of_not_empty x (by simp [Causes.isEmpty])

/-- A gate that a clear of the hold flag leaves to its other causes. -/
theorem Gate.withDam_clear (x : Gate) : x.withCauses { x.causes with dam := false } =
    { x with
      causes := { x.causes with dam := false }
      state :=
        if x.state = .moving ∨ x.state = .held then
          (if x.causes.mode || x.causes.interlock then .held else .moving)
        else x.state } := by
  have empty : Causes.isEmpty { x.causes with dam := false } = !(x.causes.mode || x.causes.interlock) := by
    simp [Causes.isEmpty]
  rw [Gate.withCauses_eq, empty]
  cases x.causes.mode || x.causes.interlock <;> rfl

theorem Gate.withCauses_sameOrder (x : Gate) (cs : Causes) : x.sameOrder (x.withCauses cs) := by
  rw [Gate.withCauses_eq]
  exact ⟨rfl, rfl, rfl, rfl, rfl⟩

theorem holdChanged_sameOrder (g : GateId) : (p.gates.get g).sameOrder ((holdChanged c d b p).gates.get g) := by
  rw [holdChanged_get]
  split
  · exact Gate.withCauses_sameOrder _ _
  · exact Gate.sameOrder_refl _

theorem holdChanged_inService (g : GateId) :
    ((holdChanged c d b p).gates.get g).inService = (p.gates.get g).inService := by
  rw [holdChanged_get]
  split
  · exact Gate.withCauses_inService _ _
  · rfl

theorem holdChanged_dam {g : GateId} (inService : (p.gates.get g).inService = true)
    (own : (c.gates.get g).inDam d = true) : ((holdChanged c d b p).gates.get g).causes.dam = b := by
  rw [holdChanged_get, if_pos (by simp [inService, own]), Gate.withCauses_eq]

theorem holdChanged_elsewhere {g : GateId} (other : (c.gates.get g).inDam d = false) :
    (holdChanged c d b p).gates.get g = p.gates.get g := by
  rw [holdChanged_get, if_neg (by simp [other])]

/-- A set takes the dam's in-service gates out of the queue. -/
theorem holdSet_queue : (holdChanged c d true p).queue =
    p.queue.filter fun g => !((p.gates.get g).inService && (c.gates.get g).inDam d) := by
  rw [holdChanged_queue]
  refine List.filter_congr fun g _ => ?_
  have still : ((p.gates.get g).withCauses { (p.gates.get g).causes with dam := true }).state ≠ .moving :=
    Gate.withCauses_ne_moving _ (by simp [Causes.isEmpty])
  simp [still]

/-- A clear leaves the queued gates MOVING. -/
theorem holdCleared_queue (sound : SoundAt c p) : (holdChanged c d false p).queue = p.queue := by
  rw [holdChanged_queue, List.filter_eq_self]
  intro g queued
  have moving := sound.queue.moving g queued
  have empty := ((sound.gate g).moving moving).2
  simp only [Causes.isEmpty, Bool.not_eq_true', Bool.or_eq_false_iff] at empty
  obtain ⟨⟨mode, -⟩, interlock⟩ := empty
  rw [Gate.withDam_clear]
  simp [moving, mode, interlock]

end Changed

/-! ### The handler's cases -/

section Handler

variable {d : DamId} {data : Word} {c : Tables} {p : Dyn}

theorem handleHoldControl_badData (large : 1 < data.toNat) :
    handleHoldControl d data c p = .refused .badConfig 0 none p := by
  obtain ⟨notZero, notOne⟩ := Word.not_zero_not_one large
  rw [handleHoldControl, if_neg notOne, if_neg notZero]
  rfl

theorem handleHoldControl_set (on : data = 1) : handleHoldControl d data c p = .taken c (setHold c d p) := if_pos on

theorem handleHoldControl_clear (off : data = 0) :
    handleHoldControl d data c p = .taken c (schedule c p false (clearHold c d p)) := by
  rw [handleHoldControl, if_neg (by simp [off]), if_pos off]

/-- Nothing becomes MOVING where nothing changes. -/
theorem schedule_same : schedule c p false p = p :=
  joinAndScan_none fun g becomes => by
    simp only [becameMoving, Bool.and_eq_true, beq_iff_eq, bne_iff_ne] at becomes
    exact absurd becomes.1 becomes.2

end Handler

/-! ### The state after a change of the hold flag -/

section Keeps

variable {s t : State} {tr : Transaction} {d : DamId} {b : Bool}

theorem Settled.holdChanged (settled : Settled s t (takeInHand tr (holdChanged s.tables d b (presented s.dyn)))) :
    StoreKept s t ∧ SameSurroundings s t ∧ Taken tr t ∧ SameControl s t ∧ LogKept s t ∧ t.dyn.totals = s.dyn.totals ∧
      t.dyn.reaches = s.dyn.reaches ∧ t.dyn.dams = Table.put s.dyn.dams d { s.dyn.dams.get d with hold := b } ∧
      t.dyn.queue = (Machine.holdChanged s.tables d b (presented s.dyn)).queue ∧
      t.dyn.gates = (Machine.holdChanged s.tables d b (presented s.dyn)).gates := by
  have still := holdChanged_still (c := s.tables) (d := d) (b := b) (p := presented s.dyn)
  have controls := holdChanged_controls (c := s.tables) (d := d) (b := b) (p := presented s.dyn)
  have rivers := holdChanged_rivers (c := s.tables) (d := d) (b := b) (p := presented s.dyn)
  have log := holdChanged_log (c := s.tables) (d := d) (b := b) (p := presented s.dyn)
  have dams := holdChanged_dams (c := s.tables) (d := d) (b := b) (p := presented s.dyn)
  generalize Machine.holdChanged s.tables d b (presented s.dyn) = q at *
  obtain ⟨-, -, -, -, -, -, -, -, -, -, answer, -⟩ := still_fields still
  obtain ⟨totals, reaches⟩ := rivers_fields rivers
  have setting : q.setting = s.dyn.setting := setting_of_still (p := presented s.dyn) still
  exact ⟨settled.store, settled.surroundings setting, settled.taken answer, settled.sameControl controls,
    settled.logKept log.1 log.2 setting, settled.totals.trans totals, settled.reaches.trans reaches,
    settled.dams.trans dams, settled.queue, settled.gates⟩

/-- A command whose handler leaves what the debt and the offer depend on, before links act. -/
theorem settled_of_changed {i : Instr} {x : WriteTarget} {w : BusWrite} {q v : Dyn} (idle : PortIdle s)
    (row : i.write? = some (x, w)) (accepted : Accepted i s tr)
    (handled : handlerOf w.master w.data x s.tables (presented s.dyn) = .taken s.tables v)
    (still : q.still = (presented s.dyn).still) (controls : q.controls = (presented s.dyn).controls)
    (course : Course s.tables q v) : ∃ t, exec i s = .next t ∧ t.tables = s.tables ∧ Settled s t (takeInHand tr v) := by
  obtain ⟨-, -, debt, -, -, -, -, -, -, -, -, -, -, -, -, -, freeStart⟩ := still_fields still
  obtain ⟨-, -, -, -, -, -, -, -, -, -, -, -, -, -, -, -, free⟩ := still_fields course.still
  exact settled_of_taken idle row accepted handled (free.trans freeStart)
    (noRefreshWaits_of_course idle freeStart controls debt course)

end Keeps

/-! ### The gates that a clear releases -/

/-- Its own causes change nothing in a gate whose record is sound. -/
theorem Gate.Sound.withCauses_self {x : Gate} {kind : GateKind} (sound : x.Sound kind) : x.withCauses x.causes = x := by
  rw [Gate.withCauses_eq]
  split
  case isFalse => rfl
  case isTrue underWay =>
    obtain moving | held := underWay
    · rw [(sound.moving moving).2, if_pos rfl, ← moving]
    · rw [(sound.held held).2, if_neg (by decide), ← held]

section Cleared

variable {c : Tables} {d : DamId} {p : Dyn}

/-- Where no released gate may join yet, the queue is as it was. -/
theorem schedule_cleared_waits (wait : ∀ g, (c.gates.get g).inDam d = true → (p.gates.get g).state = .held →
      (p.gates.get g).causes.mode = false → (p.gates.get g).causes.interlock = false →
      p.mode ≠ .run ∨ (p.gates.get g).awaiting = true ∨ stepIntervalElapsed c p g = false) :
    schedule c p false (holdChanged c d false p) = holdChanged c d false p := by
  refine joinAndScan_none fun g becomes => ?_
  simp only [becameMoving, Bool.and_eq_true, beq_iff_eq, bne_iff_ne] at becomes
  obtain ⟨moves, still⟩ := becomes
  obtain ⟨mode, -⟩ := controls_fields (holdChanged_controls (c := c) (d := d) (b := false) (p := p))
  obtain ⟨-, -, -, -, -, -, -, -, -, -, -, -, -, -, tick, -⟩ := still_fields (holdChanged_still (c := c) (d := d) (b := false) (p := p))
  have picked : ((p.gates.get g).inService && (c.gates.get g).inDam d) = true := by
    by_contra stays
    rw [holdChanged_get, if_neg stays] at moves
    exact still moves
  have record := holdChanged_get (c := c) (d := d) (b := false) (p := p) g
  rw [if_pos picked, Gate.withDam_clear] at record
  have state := congrArg Gate.state record
  rw [moves] at state
  dsimp only at state
  have own : (c.gates.get g).inDam d = true := by
    simp only [Bool.and_eq_true] at picked
    exact picked.2
  split at state
  case isFalse => exact absurd state.symm still
  case isTrue underWay =>
    have held : (p.gates.get g).state = .held := underWay.resolve_left still
    split at state
    case isTrue => cases state
    case isFalse free =>
      simp only [Bool.or_eq_true, not_or, Bool.not_eq_true] at free
      have waits := wait g own held free.1 free.2
      unfold joinable stepIntervalElapsed
      rw [mode, record, tick]
      unfold stepIntervalElapsed at waits
      obtain notRun | awaiting | early := waits
      · simp [notRun]
      · simp [awaiting]
      · simp [early]

/-- The hold flags, and the DAM causes with them, of a state. -/
def Dyn.damHolds (p : Dyn) : (DamId → Bool) × (GateId → Bool) :=
  (fun e => (p.dams.get e).hold, fun g => (p.gates.get g).causes.dam)

theorem grant_damHolds (c : Tables) (g : GateId) (p : Dyn) : (grant c g p).damHolds = p.damHolds := by
  refine Prod.ext (funext fun e => ?_) (funext fun h => ?_)
  · have dam := grant_dam c g p e
    split at dam
    · exact dam.2
    · exact congrArg Dam.hold dam
  · simp only [Dyn.damHolds, grant_get]
    split
    case isTrue same =>
      rw [same, (Gate.stepped_spec _ _ _ _).causes]
      split <;> rfl
    case isFalse => rfl

theorem loseInterlock_damHolds (c : Tables) (g : GateId) (dir : Direction) (k : CondId) (p : Dyn) :
    (loseInterlock c g dir k p).damHolds = p.damHolds := by
  refine Prod.ext (funext fun e => ?_) (funext fun h => ?_)
  · simp only [Dyn.damHolds, loseInterlock_dams]
  · simp only [Dyn.damHolds, loseInterlock_get]
    split
    case isTrue same =>
      rw [same, Gate.withCauses_eq]
    case isFalse => rfl

theorem joinAndScan_damHolds (none : ∀ l, (c.links.get l).action = .none) (sel : GateId → Bool) (forced : Bool)
    (sound : SoundAt c p) : (joinAndScan c sel forced p).damHolds = p.damHolds :=
  joinAndScan_keeps (I := fun q => q.damHolds = p.damHolds) (fun q g _ _ h => (grant_damHolds c g q).trans h)
    (fun q g dir k _ _ h => (loseInterlock_damHolds c g dir k q).trans h)
    (fun q g h => by rwa [offerLinks_of_noAction none]) (fun _ _ h => h) sel forced sound rfl

theorem Course.controls_eq_of_noAction {q : Dyn} (none : ∀ l, (c.links.get l).action = .none) (h : Course c p q) :
    q.controls = p.controls := by
  obtain ⟨mode, offer, progress⟩ := h.controls_of_noAction none
  have alarms : q.alarms = p.alarms := vector_ext_get fun k => by
    obtain same | ⟨-, l, action, -⟩ := h.alarms k
    · exact same
    · exact absurd ((none l).symm.trans action) (by decide)
  simp only [Dyn.controls, mode, offer, progress, alarms]

/-- A gate that the scheduling neither steps nor holds is as it was, where no link acts. -/
theorem schedule_outside (none : ∀ l, (c.links.get l).action = .none) (before : Dyn) (sound : SoundAt c p) {g : GateId}
    (outside : g ∉ p.queue) (still : becameMoving before p g = false) :
    (schedule c before false p).gates.get g = p.gates.get g := by
  obtain ⟨js, joined, frame⟩ := joinAndScan_frame c (becameMoving before p) false p sound.queue.distinct
  have notJoined : g ∉ p.queue ++ js := by
    rw [List.mem_append]
    rintro (waits | joins)
    · exact outside waits
    · exact absurd (joined g joins).1 (by simp [still])
  have damHolds := joinAndScan_damHolds none (becameMoving before p) false sound
  have dam := congrFun (congrArg Prod.snd damHolds) g
  have mode := congrFun (schedule_modeCauses none before false p) g
  have held := frame.of_joined.1 g notJoined
  unfold schedule at mode ⊢
  obtain same | ⟨-, cs, interlock, -, -, made⟩ := held
  · exact same
  · simp only [Dyn.damHolds, Dyn.modeCauses, made, Gate.withCauses_eq] at dam mode
    have causes : cs = (p.gates.get g).causes := by
      cases cs
      simp only at mode dam interlock
      rw [mode, dam, interlock]
    rw [made, causes]
    exact (sound.gate g).withCauses_self

end Cleared

/-- What the claims say of a clear after which released gates may join, where no link acts. -/
structure ClearedAndJoined (c : Tables) (d : DamId) (p v : Dyn) : Prop where
  still : v.still = p.still
  controls : v.controls = p.controls
  rivers : v.rivers = p.rivers
  holds : ∀ e, (v.dams.get e).hold = if e = d then false else (p.dams.get e).hold
  orders : ∀ g, (p.gates.get g).sameOrder (v.gates.get g)
  released : ∀ g, (p.gates.get g).inService = true → (c.gates.get g).inDam d = true →
    (v.gates.get g).inService = true ∧ (v.gates.get g).causes.dam = false
  elsewhere : ∀ g, (c.gates.get g).inDam d = false → g ∉ p.queue → v.gates.get g = p.gates.get g

theorem schedule_clearedAndJoined {c : Tables} {d : DamId} {p : Dyn} (none : ∀ l, (c.links.get l).action = .none)
    (sound : SoundAt c p) (soundCleared : SoundAt c (holdChanged c d false p)) :
    ClearedAndJoined c d p (schedule c p false (holdChanged c d false p)) := by
  have course : Course c (holdChanged c d false p) (schedule c p false (holdChanged c d false p)) := schedule_course _ _ _
  have damHolds := joinAndScan_damHolds none (becameMoving p (holdChanged c d false p)) false soundCleared
  obtain ⟨js, -, frame⟩ :=
    joinAndScan_frame c (becameMoving p (holdChanged c d false p)) false _ soundCleared.queue.distinct
  obtain ⟨-, orders, service, -⟩ := frame.of_joined
  exact
    { still := course.still.trans holdChanged_still
      controls := (course.controls_eq_of_noAction none).trans holdChanged_controls
      rivers := (schedule_rivers c p false _).trans holdChanged_rivers
      holds := fun e => by
        have hold := congrFun (congrArg Prod.fst damHolds) e
        simp only [Dyn.damHolds, holdChanged_dams, put_get_ite] at hold
        refine hold.trans ?_
        split <;> rfl
      orders := fun g => Gate.sameOrder_trans (holdChanged_sameOrder g) (orders g)
      released := fun g inService own => by
        have dam := congrFun (congrArg Prod.snd damHolds) g
        simp only [Dyn.damHolds, holdChanged_dam inService own] at dam
        unfold schedule
        exact ⟨service g ((holdChanged_inService g).trans inService), dam⟩
      elsewhere := fun g other outside => by
        have same : (holdChanged c d false p).gates.get g = p.gates.get g := holdChanged_elsewhere other
        have notQueued : g ∉ (holdChanged c d false p).queue := by rwa [holdCleared_queue sound]
        rw [schedule_outside none p soundCleared notQueued (by simp [becameMoving, same]), same] }

/-- Settles O30: the handler's cases, a set, and a clear with and without gates that join. -/
theorem damHold : Obligations.DamHold := by
  refine ⟨fun s d w tr idle => ⟨fun i row accepted large => ?bad, fun accepted on hold => ?isSet, fun accepted on hold => ?set⟩,
    fun s d w tr idle sound accepted off => ⟨fun hold => ?isClear, fun hold wait => ?clear, fun hold none => ?joins⟩⟩
  case bad =>
    have row : i.write? = some (.holdControl d, w) := by
      obtain rfl | rfl := row <;> rfl
    exact gives_refusedWith_of_refused row accepted (handleHoldControl_badData large)
  case isSet =>
    refine gives_held_of_taken (x := .holdControl d) rfl accepted ((handleHoldControl_set on).trans ?_)
    rw [setHold_set (p := presented s.dyn) hold]
  case isClear =>
    refine gives_held_of_taken (x := .holdControl d) rfl accepted ((handleHoldControl_clear off).trans ?_)
    rw [clearHold_clear (p := presented s.dyn) hold, schedule_same]
  case set =>
    have handled : handleHoldControl d w.data s.tables (presented s.dyn) =
        .taken s.tables (holdChanged s.tables d true (presented s.dyn)) := by
      rw [handleHoldControl_set on, setHold_clear (p := presented s.dyn) hold]
    obtain ⟨t, next, tables, settled⟩ := settled_of_changed (i := .damHoldSet d w) idle rfl accepted handled
      holdChanged_still holdChanged_controls (.refl _ _)
    obtain ⟨store, surroundings, taken, control, log, totals, reaches, dams, queue, gates⟩ := settled.holdChanged
    refine ⟨t, next, tables, store, surroundings, taken, control, log, totals, reaches, dams, fun e => ?_, fun g => ?_,
      queue.trans (holdSet_queue (p := presented s.dyn))⟩
    · rw [holdLine_changed dams]
      by_cases same : e = d <;> simp [same]
    · rw [gates]
      exact (holdChanged_get (p := presented s.dyn) g).trans (if_congr (Bool.and_eq_true_iff ..) (Gate.withDam_set _) rfl)
  case clear =>
    have handled : handleHoldControl d w.data s.tables (presented s.dyn) =
        .taken s.tables (holdChanged s.tables d false (presented s.dyn)) := by
      rw [handleHoldControl_clear off, clearHold_set (p := presented s.dyn) hold, schedule_cleared_waits (p := presented s.dyn) wait]
    obtain ⟨t, next, tables, settled⟩ := settled_of_changed (i := .damHoldClear d w) idle rfl accepted handled
      holdChanged_still holdChanged_controls (.refl _ _)
    obtain ⟨store, surroundings, taken, control, log, totals, reaches, dams, queue, gates⟩ := settled.holdChanged
    have start : SoundAt s.tables (presented s.dyn) := (gatesSound_iff.mp sound).of_eq rfl rfl rfl
    refine ⟨t, next, tables, store, surroundings, taken, control, log, totals, reaches, dams, fun e => ?_,
      queue.trans (holdCleared_queue (p := presented s.dyn) start), fun g => ?_⟩
    · rw [holdLine_changed dams]
      by_cases same : e = d <;> simp [same]
    · rw [gates]
      exact (holdChanged_get (p := presented s.dyn) g).trans (if_congr (Bool.and_eq_true_iff ..) (Gate.withDam_clear _) rfl)
  case joins =>
    have start : SoundAt s.tables (presented s.dyn) := (gatesSound_iff.mp sound).of_eq rfl rfl rfl
    have cleared : clearHold s.tables d (presented s.dyn) = holdChanged s.tables d false (presented s.dyn) :=
      clearHold_set (p := presented s.dyn) hold
    have soundCleared : SoundAt s.tables (holdChanged s.tables d false (presented s.dyn)) := cleared ▸ start.clearHold d
    have handled : handleHoldControl d w.data s.tables (presented s.dyn) =
        .taken s.tables (schedule s.tables (presented s.dyn) false (holdChanged s.tables d false (presented s.dyn))) := by
      rw [handleHoldControl_clear off, cleared]
    have made := schedule_clearedAndJoined none start soundCleared
    have course : Course s.tables (holdChanged s.tables d false (presented s.dyn))
        (schedule s.tables (presented s.dyn) false (holdChanged s.tables d false (presented s.dyn))) := schedule_course _ _ _
    generalize schedule s.tables (presented s.dyn) false (holdChanged s.tables d false (presented s.dyn)) = v
      at handled made course
    obtain ⟨t, next, tables, settled⟩ := settled_of_changed (i := .damHoldClear d w) idle rfl accepted handled
      holdChanged_still holdChanged_controls course
    obtain ⟨-, -, -, -, -, -, -, -, -, -, answer, -⟩ := still_fields made.still
    obtain ⟨totals, reaches⟩ := rivers_fields made.rivers
    have setting : v.setting = s.dyn.setting := setting_of_still (p := presented s.dyn) made.still
    refine ⟨t, next, tables, settled.store, settled.surroundings setting, settled.taken answer,
      settled.sameControl made.controls, settled.totals.trans totals, settled.reaches.trans reaches, fun e => ?_,
      fun g => ?_⟩
    · rw [holdLine, settled.dams]
      refine (made.holds e).trans ?_
      by_cases same : e = d <;> simp [same, holdLine]
    · rw [settled.gates]
      exact ⟨made.orders g, made.released g, made.elsewhere g⟩

end Sys2Proof.Machine
end

section
/-! A FEEDBACK write (R14): the record, the join of an agreeing gate and the scan that follows; O31. -/

namespace Sys2Proof.Machine

/-! ### The record -/

/-- Gate record x after a FEEDBACK value that does not end awaiting settle. -/
def Gate.fed (x : Gate) (v : Nat) : Gate := { x with feedback := v, feedbackKnown := true }

/-- Gate record x after a FEEDBACK value that agrees. -/
def Gate.agreed (x : Gate) (v : Nat) : Gate :=
  { x with feedback := v, feedbackKnown := true, awaiting := false, lagTimer := .stopped }

/-- An accepted value agrees with gate record x (R14). -/
def Gate.Agrees (x : Gate) (v tolerance : Nat) : Prop :=
  x.inService = true ∧ x.awaiting = true ∧ v ≤ x.command + tolerance ∧ x.command ≤ v + tolerance

section Record

variable {c : Tables} {x : Gate} {v tolerance : Nat}

theorem Gate.withFeedback_agreed (agrees : x.Agrees v tolerance) : x.withFeedback v tolerance = x.agreed v := by
  obtain ⟨inService, awaiting, below, above⟩ := agrees
  simp [Gate.withFeedback, Gate.agreed, within, inService, awaiting, below, above]

theorem Gate.withFeedback_fed (apart : ¬ x.Agrees v tolerance) : x.withFeedback v tolerance = x.fed v := by
  have no : (x.inService && x.awaiting && within v x.command tolerance) = false := by
    rw [Bool.eq_false_iff]
    simp only [within, ne_eq, Bool.and_eq_true, decide_eq_true_eq]
    rintro ⟨⟨inService, awaiting⟩, below, above⟩
    exact apart ⟨inService, awaiting, below, above⟩
  simp [Gate.withFeedback, Gate.fed, no]

/-- A record that neither the slot nor the mirror tells apart takes the other's place, and nothing else changes. -/
theorem putGate_unseen {g : GateId} {y : Gate} {p : Dyn} (slot : (p.gates.get g).slotDiffers y = false)
    (mirror : (p.gates.get g).mirrorDiffers y = false) (queued : g ∈ p.queue → y.state = .moving) :
    putGate g y p = { p with gates := Table.put p.gates g y } := by
  have stays : y.state ≠ .moving → p.queue.filter (· != g) = p.queue := fun still => by
    rw [List.filter_eq_self]
    intro h waits
    have other : h ≠ g := by
      rintro rfl
      exact still (queued waits)
    simpa using other
  simp only [putGate, slot, mirror]
  by_cases moving : y.state = .moving
  · simp [moving]
  · simp [moving, dequeue, stays moving]

theorem putGate_fed {g : GateId} {p : Dyn} (sound : SoundAt c p) (v : Nat) :
    putGate g ((p.gates.get g).fed v) p = { p with gates := Table.put p.gates g ((p.gates.get g).fed v) } :=
  putGate_unseen (by simp [Gate.slotDiffers, Gate.fed]) (by simp [Gate.mirrorDiffers, Gate.slotDiffers, Gate.fed])
    (sound.queue.moving g)

theorem putGate_agreed {g : GateId} {p : Dyn} (sound : SoundAt c p) (v : Nat) :
    putGate g ((p.gates.get g).agreed v) p = { p with gates := Table.put p.gates g ((p.gates.get g).agreed v) } :=
  putGate_unseen (by simp [Gate.slotDiffers, Gate.agreed]) (by simp [Gate.mirrorDiffers, Gate.slotDiffers, Gate.agreed])
    (sound.queue.moving g)

end Record

/-! ### The handler -/

section Handler

variable {c : Tables} {g : GateId} {data : Word} {p : Dyn} {v : Nat}

theorem handleFeedback_badDigit (bad : decodeValue (c.decimal (slotPage g)) 1000 data = none) :
    handleFeedback g data c p = .refused .badDigit 0 none p := by
  rw [handleFeedback, bad]
  rfl

theorem handleFeedback_fed (good : decodeValue (c.decimal (slotPage g)) 1000 data = some v) (sound : SoundAt c p)
    (apart : ¬ (p.gates.get g).Agrees v (c.gates.get g).tolerance.toNat) : handleFeedback g data c p =
      .taken c { p with gates := Table.put p.gates g ((p.gates.get g).fed v) } := by
  have awaits : ((p.gates.get g).fed v).awaiting = (p.gates.get g).awaiting := rfl
  rw [handleFeedback, good]
  dsimp only
  rw [Gate.withFeedback_fed apart, putGate_fed sound, awaits]
  refine congrArg _ (joinAndScan_none fun i picked => ?_)
  cases waits : (p.gates.get g).awaiting <;> simp [waits] at picked

/-- The handler on a value that agrees: the gate may join, and a scan follows. -/
theorem handleFeedback_agreed (good : decodeValue (c.decimal (slotPage g)) 1000 data = some v) (sound : SoundAt c p)
    (agrees : (p.gates.get g).Agrees v (c.gates.get g).tolerance.toNat) : handleFeedback g data c p =
      .taken c (joinAndScan c (fun i => i == g) false
        { p with gates := Table.put p.gates g ((p.gates.get g).agreed v) }) := by
  have ended : ((p.gates.get g).agreed v).awaiting = false := rfl
  obtain ⟨-, awaiting, -⟩ := id agrees
  rw [handleFeedback, good]
  dsimp only
  rw [Gate.withFeedback_agreed agrees, putGate_agreed sound, awaiting, ended]
  simp only [Bool.and_true, Bool.not_false]

theorem joinable_agreed : joinable c { p with gates := Table.put p.gates g ((p.gates.get g).agreed v) } g =
    ((p.gates.get g).state == .moving && p.mode == .run && stepIntervalElapsed c p g && !p.queue.contains g) := by
  simp [joinable, stepIntervalElapsed, Gate.agreed]

theorem handleFeedback_waits (good : decodeValue (c.decimal (slotPage g)) 1000 data = some v) (sound : SoundAt c p)
    (agrees : (p.gates.get g).Agrees v (c.gates.get g).tolerance.toNat)
    (stays : (p.gates.get g).state ≠ .moving ∨ p.mode ≠ .run ∨ stepIntervalElapsed c p g = false) :
    handleFeedback g data c p = .taken c { p with gates := Table.put p.gates g ((p.gates.get g).agreed v) } := by
  rw [handleFeedback_agreed good sound agrees]
  refine congrArg _ (joinAndScan_none fun i picked => ?_)
  obtain rfl := eq_of_beq picked
  rw [joinable_agreed]
  obtain still | notRun | early := stays
  · simp [still]
  · simp [notRun]
  · simp [early]

theorem handleFeedback_joins (good : decodeValue (c.decimal (slotPage g)) 1000 data = some v) (sound : SoundAt c p)
    (agrees : (p.gates.get g).Agrees v (c.gates.get g).tolerance.toNat) (moving : (p.gates.get g).state = .moving)
    (run : p.mode = .run) (elapsed : stepIntervalElapsed c p g = true) (outside : g ∉ p.queue) :
    handleFeedback g data c p = .taken c
      (scan c { p with queue := p.queue ++ [g], gates := Table.put p.gates g ((p.gates.get g).agreed v) }) := by
  rw [handleFeedback_agreed good sound agrees]
  refine congrArg _ (joinAndScan_one (g := g) ?_ false)
  refine filter_finRange_eq_singleton ?_ fun h other => ?_
  · rw [joinable_agreed]
    simp [moving, run, elapsed, outside]
  · simp [other]

end Handler

/-! ### The gate that joins -/

/-- The state in which an agreeing gate has joined. -/
def fedAndJoined (s : State) (g : GateId) (v : Nat) : Dyn :=
  { counted s with
    answer := none
    queue := s.dyn.queue ++ [g]
    gates := Table.put s.dyn.gates g ((s.dyn.gates.get g).agreed v) }

section Joined

variable {s t : State} {g : GateId} {v : Nat}

theorem fedAndJoined_gate : (fedAndJoined s g v).gates.get g = (s.dyn.gates.get g).agreed v := by
  simp [fedAndJoined]

theorem fedAndJoined_other {h : GateId} (other : h ≠ g) : (fedAndJoined s g v).gates.get h = s.dyn.gates.get h := by
  simp [fedAndJoined, put_get_ite, other]

theorem fedAndJoined_eligible (h : GateId) : eligible s.tables (fedAndJoined s g v) h = eligible s.tables s.dyn h := by
  have same : ((fedAndJoined s g v).gates.get h).command = (s.dyn.gates.get h).command ∧
      ((fedAndJoined s g v).gates.get h).target = (s.dyn.gates.get h).target := by
    by_cases own : h = g
    · rw [own, fedAndJoined_gate]
      exact ⟨rfl, rfl⟩
    · rw [fedAndJoined_other own]
      exact ⟨rfl, rfl⟩
  exact eligible_congr (p := s.dyn) (q := fedAndJoined s g v) rfl (fun _ => rfl) same.1 same.2

theorem fedAndJoined_setting : (fedAndJoined s g v).setting = s.dyn.setting := rfl
theorem fedAndJoined_controls : (fedAndJoined s g v).controls = s.dyn.controls := rfl
theorem fedAndJoined_rivers : (fedAndJoined s g v).rivers = s.dyn.rivers := rfl

/-- A way from the state of the join is one from the state of the WRITE. -/
theorem fedAndJoined_course (c : Tables) : Course c (presented s.dyn) (fedAndJoined s g v) := .of_around rfl

variable {tr : Transaction} {q : Dyn}

/-- What a step of the gate, or its wait, leaves beside the gate and the queue. -/
theorem Settled.fed (settled : Settled s t (takeInHand tr q)) (around : q.around = (fedAndJoined s g v).around)
    (rivers : q.rivers = (fedAndJoined s g v).rivers) :
    StoreKept s t ∧ SameSurroundings s t ∧ Taken tr t ∧ SameControl s t ∧ LogKept s t ∧ t.dyn.totals = s.dyn.totals ∧
      t.dyn.reaches = s.dyn.reaches := by
  obtain ⟨still, controls, buffer, lost, -⟩ := around_fields around
  obtain ⟨totals, reaches⟩ := rivers_fields (rivers.trans fedAndJoined_rivers)
  obtain ⟨-, -, -, -, -, -, -, -, -, -, answer, -⟩ := still_fields still
  have setting : q.setting = s.dyn.setting := (setting_of_still still).trans fedAndJoined_setting
  exact ⟨settled.store, settled.surroundings setting, settled.taken answer,
    settled.sameControl (controls.trans fedAndJoined_controls), settled.logKept buffer lost setting,
    settled.totals.trans totals, settled.reaches.trans reaches⟩

/-- What a hold of the gate by INTERLOCK leaves beside the gate and the queue. -/
theorem LostAlone.onlyEventsBeside {k : CondId} (lost : LostAlone s.tables (fedAndJoined s g v) g k q)
    (settled : Settled s t (takeInHand tr q)) (tables : t.tables = s.tables) : OnlyEventsBeside s t := by
  have course : Course s.tables (presented s.dyn) q := (fedAndJoined_course s.tables).trans lost.course
  obtain ⟨store, surroundings, -, control⟩ := settled.keeps course rfl
  obtain ⟨-, reaches⟩ := rivers_fields (lost.rivers.trans fedAndJoined_rivers)
  have reachesEnd : t.dyn.reaches = s.dyn.reaches := settled.reaches.trans reaches
  have damsEnd : t.dyn.dams = q.dams := settled.dams
  have queueEnd : t.dyn.queue = q.queue := settled.queue
  exact
    { tables, store, surroundings, control
      dams := fun d => by
        rw [damsEnd]
        exact hold_or (lost.dams d) (course.holds d)
      reaches := fun r => ⟨(s.dyn.reaches.get r).exceeded, by rw [reachesEnd]⟩
      bounds := boundsReported_of_reaches reachesEnd
      queue := by
        rw [queueEnd, lost.queue]
        exact List.nil_sublist _ }

end Joined

/-- Settles O31: the record and, where the gate may join, the join with its scan. -/
theorem feedbackWrite : Obligations.FeedbackWrite := by
  intro s g w tr idle sound accepted
  have row : (Instr.feedbackWrite g w).write? = some (.feedback g, w) := rfl
  have start : SoundAt s.tables (presented s.dyn) := (gatesSound_iff.mp sound).of_eq rfl rfl rfl
  split
  case h_1 bad => exact gives_refusedWith_of_refused row accepted (handleFeedback_badDigit (p := presented s.dyn) bad)
  case h_2 v good =>
    refine ⟨fun apart => ?fed, fun inService awaiting below above => ?agreed⟩
    case fed =>
      exact gives_takeInHand_of_taken row accepted (handleFeedback_fed good start apart) rfl
    case agreed =>
      have agrees : (s.dyn.gates.get g).Agrees v (s.tables.gates.get g).tolerance.toNat :=
        ⟨inService, awaiting, below, above⟩
      have joins (moving : (s.dyn.gates.get g).state = .moving) (run : s.dyn.mode = .run)
          (elapsed : stepIntervalElapsed s.tables s.dyn g = true) (outside : g ∉ s.dyn.queue) :
          handlerOf w.master w.data (.feedback g) s.tables (presented s.dyn) =
            .taken s.tables (scan s.tables (fedAndJoined s g v)) :=
        handleFeedback_joins (p := presented s.dyn) good start agrees moving run elapsed outside
      refine ⟨fun stays => ?waits, fun moving run elapsed outside p made => ?scanned,
        fun k moving run elapsed empty takes fails => ?lost, fun moving run elapsed empty passes => ?alone⟩
      case waits =>
        exact gives_takeInHand_of_taken row accepted (handleFeedback_waits (p := presented s.dyn) good start agrees stays) rfl
      case scanned =>
        have handled := joins moving run elapsed outside
        obtain rfl : p = fedAndJoined s g v := made
        have distinct : (fedAndJoined s g v).queue.Nodup := nodup_append_single start.queue.distinct outside
        have free : (scan s.tables (fedAndJoined s g v)).running.isNone = s.dyn.running.isNone := by
          obtain ⟨-, -, -, -, -, -, -, -, -, -, -, -, -, -, -, -, free⟩ := still_fields (scan_still s.tables (fedAndJoined s g v))
          exact free
        refine ⟨?_, fun none => ?_⟩
        · obtain ⟨q, lost, scanned, ends⟩ := scan_scanned s.tables distinct
          rw [ends] at handled free
          exact ⟨q, lost, scanned, gives_offerLost row accepted handled free⟩
        · rw [scan_none fun h listed => ?_] at handled
          · exact gives_takeInHand_of_taken row accepted handled rfl
          · rw [fedAndJoined_eligible]
            obtain waits | own := List.mem_append.mp listed
            · exact none h (.inl waits)
            · exact none h (.inr (List.mem_singleton.mp own))
      case lost =>
        have handled := joins moving run elapsed (by simp [empty])
        have lost : LostAlone s.tables (fedAndJoined s g v) g k (scan s.tables (fedAndJoined s g v)) := by
          refine scan_lostAlone (by simp [fedAndJoined, empty]) ?_ ((fedAndJoined_eligible g).trans takes) ?_
          · rw [fedAndJoined_gate]
            exact moving
          · rw [fedAndJoined_gate]
            exact fails
        generalize scan s.tables (fedAndJoined s g v) = q at handled lost
        have course : Course s.tables (presented s.dyn) q := (fedAndJoined_course s.tables).trans lost.course
        obtain ⟨t, next, tables, settled⟩ := settled_of_course idle row accepted handled course
        obtain ⟨totals, -⟩ := rivers_fields (lost.rivers.trans fedAndJoined_rivers)
        have gatesEnd : t.dyn.gates = q.gates := settled.gates
        have own := lost.own
        have recorded := lost.recorded
        rw [fedAndJoined_gate] at own recorded
        refine ⟨t, next, lost.onlyEventsBeside settled tables, fun h other => ?_, (settled.keeps course rfl).2.2.1, ?_,
          settled.queue.trans lost.queue, settled.totals.trans totals, settled.recorded recorded, ?_⟩
        · have only := lost.others h other
          rw [fedAndJoined_other other] at only
          rw [gatesEnd]
          exact only
        · rw [gatesEnd]
          exact own
        · rw [tables]
          exact settled.linksActed lost.acted
      case alone =>
        have handled := joins moving run elapsed (by simp [empty])
        have passes1 : falseCondition s.tables (fedAndJoined s g v).statusWords g
            (directionTo ((fedAndJoined s g v).gates.get g).command ((fedAndJoined s g v).gates.get g).target) = none := by
          rw [fedAndJoined_gate]
          exact passes
        have alone : (fedAndJoined s g v).queue = [g] := by simp [fedAndJoined, empty]
        rw [scan_alone alone passes1, fedAndJoined_eligible] at handled
        have ways {q : Dyn} (handled : handlerOf w.master w.data (.feedback g) s.tables (presented s.dyn) = .taken s.tables q)
            (around : q.around = (fedAndJoined s g v).around) :=
          settled_of_course idle row accepted handled ((fedAndJoined_course s.tables).trans (.of_around around))
        by_cases takes : eligible s.tables s.dyn g = true
        · rw [if_pos takes] at handled
          have around := grant_around s.tables g (fedAndJoined s g v)
          obtain ⟨t, next, tables, settled⟩ := ways handled around
          obtain ⟨store, surroundings, taken, control, log, totals, reaches⟩ :=
            settled.fed around (grant_rivers s.tables g (fedAndJoined s g v))
          have gates (h : GateId) := (congrArg (Vector.get · h) settled.gates).trans (grant_get s.tables g (fedAndJoined s g v) h)
          refine ⟨t, next, tables, store, surroundings, taken, control, log, totals, reaches, fun h other => ?_, ?_⟩
          · rw [gates h, if_neg other, fedAndJoined_other other]
          · rw [if_pos takes]
            refine ⟨settled.queue.trans ((grant_queue s.tables g (fedAndJoined s g v)).trans (by simp [alone])), ?_⟩
            rw [gates g, if_pos rfl, fedAndJoined_gate]
            exact Gate.stepped_spec _ _ _ _
        · rw [if_neg takes] at handled
          obtain ⟨t, next, tables, settled⟩ := ways handled rfl
          obtain ⟨store, surroundings, taken, control, log, totals, reaches⟩ := settled.fed (g := g) (v := v) rfl rfl
          have gates (h : GateId) : t.dyn.gates.get h = (fedAndJoined s g v).gates.get h :=
            congrArg (Vector.get · h) settled.gates
          refine ⟨t, next, tables, store, surroundings, taken, control, log, totals, reaches, fun h other => ?_, ?_⟩
          · rw [gates h, fedAndJoined_other other]
          · rw [if_neg takes]
            exact ⟨settled.queue.trans alone, (gates g).trans fedAndJoined_gate⟩

end Sys2Proof.Machine
end

section
/-! The expiries of the recovery timer (R9) and of a warning dwell (R21), with the gates that they let move; O9, O10. -/

namespace Sys2Proof.Machine

/-! ### A timed event -/

section Event

variable {s t : State} {q : Dyn}

theorem counted_setting (s : State) : (counted s).setting = s.dyn.setting := rfl
theorem counted_controls (s : State) : (counted s).controls = s.dyn.controls := rfl

/-- What a timed event that leaves the controls to the links keeps. -/
theorem Settled.event_keeps (settled : Settled s t q) (course : Course s.tables (counted s) q) :
    StoreKept s t ∧ SameSurroundings s t ∧ ControlByLinks s t ∧ BusKept s t := by
  obtain ⟨-, -, -, -, -, -, -, -, -, hand, answer, -⟩ := still_fields course.still
  exact ⟨settled.store, settled.surroundings ((setting_of_still course.still).trans (counted_setting s)),
    settled.controlByLinks course (counted_controls s) rfl, settled.bus hand answer⟩

/-- What a timed event on gates, warnings and the queue keeps. -/
theorem Settled.event_around (settled : Settled s t q) (around : q.around = (counted s).around) :
    StoreKept s t ∧ SameSurroundings s t ∧ SameControl s t ∧ BusKept s t ∧ LogKept s t := by
  obtain ⟨still, controls, buffer, lost, -⟩ := around_fields around
  obtain ⟨-, -, -, -, -, -, -, -, -, hand, answer, -⟩ := still_fields still
  have setting : q.setting = s.dyn.setting := (setting_of_still still).trans (counted_setting s)
  exact ⟨settled.store, settled.surroundings setting, settled.sameControl (controls.trans (counted_controls s)),
    settled.bus hand answer, settled.logKept buffer lost setting⟩

end Event

theorem SoundAt.counted {s : State} (sound : GatesSound s) : SoundAt s.tables (Sys2Proof.Machine.counted s) :=
  (gatesSound_iff.mp sound).of_eq rfl rfl rfl

/-- Nothing is scheduled where no gate has become MOVING. -/
theorem schedule_none {c : Tables} {before p : Dyn} (none : ∀ g, becameMoving before p g = true → joinable c p g = false) :
    schedule c before false p = p := joinAndScan_none none

theorem becameMoving_iff {before p : Dyn} {g : GateId} :
    becameMoving before p g = true ↔ (p.gates.get g).state = .moving ∧ (before.gates.get g).state ≠ .moving := by
  simp [becameMoving]

/-! ### The end of a recovery dwell -/

section Recovery

variable {c : Tables} {g : GateId} {p : Dyn}

theorem recoveryEnds_closes (zero : (p.gates.get g).target = 0) : recoveryEnds c g p =
    silenceCheckOf c g (putGate g { p.gates.get g with state := .closed, recoveryTimer := .stopped } p) := by
  simp only [recoveryEnds, zero, if_true]

theorem recoveryEnds_releases (above : 0 < (p.gates.get g).target) : recoveryEnds c g p =
    putGate g { p.gates.get g with state := (p.gates.get g).moveState, recoveryTimer := .stopped } p := by
  simp only [recoveryEnds, if_neg (Nat.ne_of_gt above)]

theorem putGate_queue_outside {x : Gate} (outside : g ∉ p.queue) : (putGate g x p).queue = p.queue := by
  rw [putGate_queue]
  split
  · rfl
  · rw [List.filter_eq_self]
    intro h queued
    have other : h ≠ g := by
      rintro rfl
      exact outside queued
    simpa using other

theorem SoundAt.not_queued (sound : SoundAt c p) (still : (p.gates.get g).state ≠ .moving) : g ∉ p.queue :=
  fun queued => still (sound.queue.moving g queued)

/-- Gate g is under way to an open target, or has arrived there, in the order of record x. -/
structure UnderWay (x : Gate) (g : GateId) (p : Dyn) : Prop where
  order : x.sameOrder (p.gates.get g)
  timer : (p.gates.get g).recoveryTimer = .stopped
  state : (p.gates.get g).state = .moving ∨ (p.gates.get g).state = .held ∨ (p.gates.get g).state = .settled

theorem Gate.stepped_order (x : Gate) (c : GateConfig) (dwell : Nat) (tick : BitVec 32) :
    x.sameOrder (x.stepped c dwell tick) := (Gate.stepped_spec _ _ _ _).orders

/-- A gate that steps to an open target keeps its recovery timer, and moves on or settles. -/
theorem Gate.stepped_open {x : Gate} (above : 0 < x.target) (c : GateConfig) (dwell : Nat) (tick : BitVec 32) :
    (x.stepped c dwell tick).recoveryTimer = x.recoveryTimer ∧
      ((x.stepped c dwell tick).state = x.state ∨ (x.stepped c dwell tick).state = .settled) := by
  unfold Gate.stepped
  dsimp only
  split
  case isFalse => exact ⟨rfl, .inl rfl⟩
  case isTrue arrived =>
    have target : (x.granted c tick).target = x.target := rfl
    have notShut : ¬(c.kind = .flood ∧ (x.granted c tick).command = 0) := by
      rw [arrived, target]
      rintro ⟨-, zero⟩
      exact absurd zero (Nat.ne_of_gt above)
    unfold Gate.ended
    rw [if_neg notShut, if_neg notShut]
    exact ⟨rfl, .inr rfl⟩

theorem Gate.withCauses_recoveryTimer (x : Gate) (cs : Causes) : (x.withCauses cs).recoveryTimer = x.recoveryTimer := by
  rw [Gate.withCauses_eq]

/-- A hold takes a gate under way to MOVING or HELD, and leaves a settled one. -/
theorem Gate.withCauses_underWay_state {x : Gate} (state : x.state = .moving ∨ x.state = .held ∨ x.state = .settled)
    (cs : Causes) : (x.withCauses cs).state = .moving ∨ (x.withCauses cs).state = .held ∨
      (x.withCauses cs).state = .settled := by
  rw [Gate.withCauses_eq]
  dsimp only
  split
  case isTrue => split <;> simp
  case isFalse => exact state

theorem UnderWay.withCauses {x : Gate} {cs : Causes} {q : Dyn} (h : UnderWay x g p)
    (made : q.gates.get g = (p.gates.get g).withCauses cs) : UnderWay x g q where
  order := by
    rw [made]
    exact Gate.sameOrder_trans h.order (Gate.withCauses_sameOrder _ _)
  timer := by
    rw [made, Gate.withCauses_recoveryTimer]
    exact h.timer
  state := by
    rw [made]
    exact Gate.withCauses_underWay_state h.state cs

theorem UnderWay.of_eq {x : Gate} {q : Dyn} (h : UnderWay x g p) (same : q.gates.get g = p.gates.get g) :
    UnderWay x g q := ⟨same ▸ h.order, same ▸ h.timer, same ▸ h.state⟩

theorem schedule_underWay {x : Gate} (above : 0 < x.target) (before : Dyn) (sound : SoundAt c p) (start : UnderWay x g p) :
    UnderWay x g (schedule c before false p) := by
  refine joinAndScan_keeps (I := UnderWay x g) ?grants ?loses ?links (fun _ _ h => h.of_eq rfl) _ false sound start
  case grants =>
    intro p h sound queued start
    by_cases same : g = h
    · subst same
      have made : (grant c g p).gates.get g = _ := (grant_get c g p g).trans (if_pos rfl)
      have targetNow : 0 < (p.gates.get g).target := by
        obtain ⟨target, -⟩ := start.order
        rwa [target]
      obtain ⟨timer, state⟩ := Gate.stepped_open targetNow (c.gates.get g) (recoveryDwellOf c g) p.tick
      refine ⟨?_, ?_, ?_⟩
      · rw [made]
        exact Gate.sameOrder_trans start.order (Gate.stepped_order _ _ _ _)
      · rw [made]
        exact timer.trans start.timer
      · rw [made]
        obtain same | settled := state
        · rw [same]
          exact start.state
        · exact .inr (.inr settled)
    · exact start.of_eq ((grant_get c h p g).trans (if_neg same))
  case loses =>
    intro p h dir k sound queued start
    by_cases same : g = h
    · subst same
      exact start.withCauses ((loseInterlock_get c g dir k p g).trans (if_pos rfl))
    · exact start.of_eq ((loseInterlock_get c h dir k p g).trans (if_neg same))
  case links =>
    intro p h start
    obtain same | ⟨-, cs, -, -, -, made⟩ := (offerLinks_growth c .interlockLost (.gate h) p).frame.gates g
    · exact start.of_eq same
    · exact start.withCauses made

end Recovery

theorem recoveryEnds_queue {c : Tables} {g : GateId} {p : Dyn} (outside : g ∉ p.queue) :
    (recoveryEnds c g p).queue = p.queue := by
  unfold recoveryEnds
  dsimp only
  split
  · rw [silenceCheckOf_queue]
    exact putGate_queue_outside outside
  · exact putGate_queue_outside outside

/-- The end of a dwell that makes no gate MOVING. -/
theorem schedule_recoveryEnds {c : Tables} {g : GateId} {p : Dyn} (rests : (p.gates.get g).recovered.state ≠ .moving) :
    schedule c p false (recoveryEnds c g p) = recoveryEnds c g p := by
  refine schedule_none fun h becomes => ?_
  obtain ⟨moves, still⟩ := becameMoving_iff.mp becomes
  rw [recoveryEnds_get] at moves
  split at moves
  · exact absurd moves rests
  · exact absurd moves still

section Expiry

variable {s : State} {g : GateId}

theorem settled_of_recoveryExpiry (idle : PortIdle s) (timer : (s.dyn.gates.get g).recoveryTimer = .running 0) :
    ∃ t, exec (.recoveryExpiry g) s = .next t ∧ t.tables = s.tables ∧
      Settled s t (schedule s.tables (counted s) false (recoveryEnds s.tables g (counted s))) := by
  have due : recoveryDue g s.tables s.dyn = true := by
    rw [recoveryDue, timer]
    rfl
  have ends : Course s.tables (counted s) (recoveryEnds s.tables g (counted s)) := .of_around (recoveryEnds_around _ _ _)
  exact settled_of_inEventIf (i := .recoveryExpiry g) (due := recoveryDue g)
    (f := fun c p => schedule c p false (recoveryEnds c g p)) idle rfl due (ends.trans (schedule_course _ _ _))

end Expiry

/-- Settles O9: at target 0 the silencing check, and else the release of the gate. -/
theorem recoveryExpiryEndsTheDwell : Obligations.RecoveryExpiryEndsTheDwell := by
  refine ⟨fun s g idle recovering timer zero flood => ?closes, fun s g idle sound recovering timer above => ?releases⟩
  case closes =>
    obtain ⟨t, next, tables, settled⟩ := settled_of_recoveryExpiry idle timer
    have closed : (s.dyn.gates.get g).recovered = { s.dyn.gates.get g with state := .closed, recoveryTimer := .stopped } := by
      rw [Gate.recovered, if_pos zero]
    have rests : ((counted s).gates.get g).recovered.state ≠ .moving := by
      show (s.dyn.gates.get g).recovered.state ≠ .moving
      simp [closed]
    rw [schedule_recoveryEnds rests] at settled
    obtain ⟨store, surroundings, control, bus, log⟩ := settled.event_around (recoveryEnds_around _ _ _)
    obtain ⟨totals, reaches⟩ := rivers_fields (recoveryEnds_rivers s.tables g (counted s))
    have gates (h : GateId) := (congrArg (Vector.get · h) settled.gates).trans (recoveryEnds_get s.tables g (counted s) h)
    have gatesEnd : t.dyn.gates = (recoveryEnds s.tables g (counted s)).gates := settled.gates
    refine ⟨t, next, tables, store, surroundings, control, bus, log, fun sound => ?_, settled.totals.trans totals,
      settled.reaches.trans reaches, ((gates g).trans (if_pos rfl)).trans closed, fun h other => (gates h).trans (if_neg other),
      fun d => ?_⟩
    · exact settled.queue.trans (recoveryEnds_queue ((SoundAt.counted sound).not_queued (by simp [counted, recovering])))
    · have ends := recoveryEnds_closes (c := s.tables) (g := g) (p := counted s) zero
      obtain ⟨silences, stays⟩ := silenceCheckOf_dams_get s.tables g
        (putGate g { (counted s).gates.get g with state := .closed, recoveryTimer := .stopped } (counted s)) d
      have shut := allShut_congr (c := s.tables) (p := putGate g
        { (counted s).gates.get g with state := .closed, recoveryTimer := .stopped } (counted s)) (q := t.dyn)
        (by rw [gatesEnd, ends, silenceCheckOf_gates]) d
      rw [putGate_dams, ← ends, ← shut] at silences stays
      rw [settled.dams]
      split
      case isTrue all => exact silences all.1 flood all.2
      case isFalse some => exact stays fun all => some ⟨all.1, all.2.2⟩
  case releases =>
    obtain ⟨t, next, tables, settled⟩ := settled_of_recoveryExpiry idle timer
    have start := SoundAt.counted sound
    have outside : g ∉ (counted s).queue := start.not_queued (by simp [counted, recovering])
    have ends := recoveryEnds_releases (c := s.tables) (g := g) (p := counted s) above
    have record : (s.dyn.gates.get g).recovered =
        { s.dyn.gates.get g with state := (s.dyn.gates.get g).moveState, recoveryTimer := .stopped } := by
      rw [Gate.recovered, if_neg (Nat.ne_of_gt above)]
    have gates := fun h => recoveryEnds_get s.tables g (counted s) h
    have soundEnd : SoundAt s.tables (recoveryEnds s.tables g (counted s)) :=
      Turn.soundAt (.recover (by simp [counted, timer])) start
    have around := recoveryEnds_around s.tables g (counted s)
    have rivers := recoveryEnds_rivers s.tables g (counted s)
    have dams : (recoveryEnds s.tables g (counted s)).dams = s.dyn.dams := by
      rw [ends]
      exact putGate_dams _ _ _
    have queue : (recoveryEnds s.tables g (counted s)).queue = s.dyn.queue := recoveryEnds_queue outside
    have rests := schedule_recoveryEnds (c := s.tables) (g := g) (p := counted s)
    generalize recoveryEnds s.tables g (counted s) = q at *
    have course : Course s.tables (counted s) (schedule s.tables (counted s) false q) :=
      (Course.of_around around).trans (schedule_course _ _ _)
    obtain ⟨store, surroundings, control, bus⟩ := settled.event_keeps course
    obtain ⟨totals, reaches⟩ := rivers_fields ((schedule_rivers s.tables (counted s) false q).trans rivers)
    have own : q.gates.get g = (s.dyn.gates.get g).recovered := (gates g).trans (if_pos rfl)
    have underWay : UnderWay (s.dyn.gates.get g) g q := by
      refine ⟨?_, ?_, ?_⟩
      · rw [own, record]
        exact ⟨rfl, rfl, rfl, rfl, rfl⟩
      · rw [own, record]
      · rw [own, record]
        cases empty : (s.dyn.gates.get g).causes.isEmpty <;> simp [Gate.moveState, empty]
    have scheduled := schedule_underWay above (counted s) soundEnd underWay
    have ownEnd : t.dyn.gates.get g = _ := congrArg (Vector.get · g) settled.gates
    refine ⟨t, next, tables, store, surroundings, control, bus, settled.totals.trans totals, settled.reaches.trans reaches,
      ?_, ?_, ?_⟩
    · rw [ownEnd]
      exact scheduled.order
    · rw [ownEnd]
      exact scheduled.timer
    · split
      case isTrue empty =>
        rw [ownEnd]
        exact scheduled.state
      case isFalse some =>
        have held : (s.dyn.gates.get g).moveState = .held := if_neg some
        have resting : ((counted s).gates.get g).recovered.state ≠ .moving := by
          show (s.dyn.gates.get g).recovered.state ≠ .moving
          simp [record, held]
        rw [rests resting] at settled ownEnd
        obtain ⟨-, -, sameControl, -, log⟩ := settled.event_around around
        refine ⟨?_, sameControl, log, settled.dams.trans dams, settled.queue.trans queue, fun h other => ?_⟩
        · rw [ownEnd, own, record, held]
        · exact ((congrArg (Vector.get · h) settled.gates).trans (gates h)).trans (if_neg other)

end Sys2Proof.Machine
end

section
/-! The expiry of a warning dwell (R21): the gates that it releases, and the warnings that its scan may end; O10. -/

namespace Sys2Proof.Machine

/-! ### The release -/

section Release

variable {c : Tables} {d : DamId} {p : Dyn} {g : GateId}

/-- Gate g waits at dam d for the end of the warning dwell. -/
def WaitsAt (c : Tables) (d : DamId) (p : Dyn) (g : GateId) : Prop :=
  (c.gates.get g).inDam d = true ∧ (p.gates.get g).state = .warning

theorem dwellEnds_released (waits : WaitsAt c d p g) : (dwellEnds c d p).gates.get g =
    { p.gates.get g with state := if (p.gates.get g).causes.isEmpty then .moving else .held } := by
  obtain ⟨own, warning⟩ := waits
  rw [dwellEnds_get, if_pos (by simp [own, warning])]
  rfl

theorem dwellEnds_kept (stays : ¬ WaitsAt c d p g) : (dwellEnds c d p).gates.get g = p.gates.get g := by
  rw [dwellEnds_get, if_neg]
  simpa [WaitsAt] using stays

theorem dwellEnds_queue (sound : SoundAt c p) : (dwellEnds c d p).queue = p.queue := by
  rw [dwellEnds, releaseWarning_queue, setWarning_queue, setWarning_gates, List.filter_eq_self]
  intro h queued
  simp [sound.queue.moving h queued]

theorem dwellEnds_sameOrder (g : GateId) : (p.gates.get g).sameOrder ((dwellEnds c d p).gates.get g) := by
  rw [dwellEnds_get]
  split
  · exact ⟨rfl, rfl, rfl, rfl, rfl⟩
  · exact Gate.sameOrder_refl _

theorem dwellEnds_inService (inService : (p.gates.get g).inService = true) :
    ((dwellEnds c d p).gates.get g).inService = true := by
  rw [dwellEnds_get]
  split
  · cases empty : (p.gates.get g).causes.isEmpty <;> simp [Gate.inService, Gate.moveState, empty]
  · exact inService

theorem dwellEnds_command (g : GateId) : ((dwellEnds c d p).gates.get g).command = (p.gates.get g).command := by
  rw [dwellEnds_get]
  split <;> rfl

theorem dwellEnds_eligible (g : GateId) : eligible c (dwellEnds c d p) g = eligible c p g := by
  obtain ⟨still, -⟩ := around_fields (dwellEnds_around c d p)
  obtain ⟨-, -, -, -, -, -, -, -, -, -, -, -, -, -, tick, -⟩ := still_fields still
  refine eligible_congr tick (fun e => ?_) (dwellEnds_command g) (dwellEnds_sameOrder g).1
  rw [dwellEnds_dams, put_get_ite]
  split
  case isFalse => rfl
  case isTrue same =>
    rw [same]
    funext dir
    cases dir <;> rfl

/-- The gates that the release lets move. -/
theorem becameMoving_dwellEnds :
    becameMoving p (dwellEnds c d p) g = true ↔ WaitsAt c d p g ∧ (p.gates.get g).causes.isEmpty = true := by
  rw [becameMoving_iff]
  by_cases waits : WaitsAt c d p g
  · rw [dwellEnds_released waits]
    cases empty : (p.gates.get g).causes.isEmpty <;> simp [waits, waits.2]
  · rw [dwellEnds_kept waits]
    simp [waits]

/-- Of the released gates those that the conditions of R75 let join. -/
theorem joinable_dwellEnds (sound : SoundAt c p) (run : p.mode = .run) :
    (becameMoving p (dwellEnds c d p) g && joinable c (dwellEnds c d p) g) =
      ((c.gates.get g).inDam d && (p.gates.get g).state == .warning && (p.gates.get g).causes.isEmpty &&
        !(p.gates.get g).awaiting && stepIntervalElapsed c p g) := by
  obtain ⟨still, controls, -⟩ := around_fields (dwellEnds_around c d p)
  obtain ⟨-, -, -, -, -, -, -, -, -, -, -, -, -, -, tick, -⟩ := still_fields still
  obtain ⟨mode, -⟩ := controls_fields controls
  by_cases waits : WaitsAt c d p g
  · have outside : g ∉ p.queue := sound.not_queued (by simp [waits.2])
    unfold joinable becameMoving stepIntervalElapsed
    rw [dwellEnds_released waits, dwellEnds_queue sound, mode, tick]
    cases empty : (p.gates.get g).causes.isEmpty
    · simp
    · simp [waits.1, waits.2, run, outside, Bool.and_comm]
  · have none : becameMoving p (dwellEnds c d p) g = false := by
      rw [Bool.eq_false_iff]
      exact fun becomes => waits (becameMoving_dwellEnds.mp becomes).1
    rw [none]
    by_cases own : (c.gates.get g).inDam d = true
    · have still : (p.gates.get g).state ≠ .warning := fun warning => waits ⟨own, warning⟩
      simp [still]
    · simp [own]

end Release

/-! ### The warnings along the scan -/

/-- Every gate that is CLOSED or OUT_OF_SERVICE in p is so in q. -/
def ShutStays (p q : Dyn) : Prop :=
  ∀ g, (p.gates.get g).state = .closed ∨ (p.gates.get g).state = .outOfService →
    (q.gates.get g).state = (p.gates.get g).state

theorem AllShut.kept {c : Tables} {p q : Dyn} {e : DamId} (h : AllShut c p e) (stays : ShutStays p q) : AllShut c q e := by
  intro g flood own
  have shut := h g flood own
  rw [stays g shut]
  exact shut

theorem ShutStays.of_one {p q : Dyn} {h : GateId} (moving : (p.gates.get h).state = .moving)
    (others : ∀ g, g ≠ h → q.gates.get g = p.gates.get g) : ShutStays p q := by
  intro g shut
  have other : g ≠ h := by
    rintro rfl
    simp [moving] at shut
  rw [others g other]

theorem ShutStays.of_holds {p q : Dyn} (holds : ∀ g, (p.gates.get g).OnlyHolds (q.gates.get g)) : ShutStays p q := by
  intro g shut
  refine (holds g).state_of_resting ?_ ?_ <;>
  · obtain shut | shut := shut <;> simp [shut]

/-- Along the scan at the end of the dwell of dam d: the queue holds gates of `queued` and gates on the way to an open
target, and each dam's warning is W's or has ended with the closing of a gate of `queued`. -/
structure DwellScan (c : Tables) (d : DamId) (queued : List GateId) (W : DamId → Warning) (q : Dyn) : Prop where
  queue : ∀ h ∈ q.queue, h ∈ queued ∨ 0 < (q.gates.get h).target
  timer : (q.dams.get d).dwellTimer = .stopped
  warning : ∀ e, (q.dams.get e).warning = W e ∨
    ((q.dams.get e).warning = .silent ∧ AllShut c q e ∧
      ∃ g ∈ queued, (c.gates.get g).kind = .flood ∧ (c.gates.get g).inDam e = true ∧ (q.gates.get g).state = .closed)

section Scan

variable {c : Tables} {d : DamId} {queued : List GateId} {W : DamId → Warning} {p q : Dyn}

/-- Dams that stand, and gates that keep their targets and stay shut. -/
theorem DwellScan.of_sameWarning (h : DwellScan c d queued W p) (queue : ∀ g ∈ q.queue, g ∈ p.queue)
    (target : ∀ g, (q.gates.get g).target = (p.gates.get g).target) (stays : ShutStays p q)
    (dams : ∀ e, (q.dams.get e).warning = (p.dams.get e).warning ∧ (q.dams.get e).dwellTimer = (p.dams.get e).dwellTimer) :
    DwellScan c d queued W q where
  queue := fun g listed => by
    rw [target]
    exact h.queue g (queue g listed)
  timer := (dams d).2.trans h.timer
  warning := fun e => by
    rw [(dams e).1]
    obtain same | ⟨silent, shut, g, listed, flood, own, closed⟩ := h.warning e
    · exact .inl same
    · exact .inr ⟨silent, shut.kept stays, g, listed, flood, own, (stays g (.inl closed)).trans closed⟩

theorem DwellScan.grant (h : DwellScan c d queued W p) (sound : SoundAt c p) {g : GateId} (listed : g ∈ p.queue) :
    DwellScan c d queued W (grant c g p) := by
  have moving := sound.queue.moving g listed
  have others (i : GateId) (other : i ≠ g) : (Machine.grant c g p).gates.get i = p.gates.get i :=
    (grant_get c g p i).trans (if_neg other)
  have stays : ShutStays p (Machine.grant c g p) := .of_one moving others
  have silenced := grant_silenced c g p
  constructor
  case queue =>
    intro i rest
    rw [grant_queue, List.mem_filter] at rest
    obtain ⟨waits, other⟩ := rest
    rw [others i (by simpa using other)]
    exact h.queue i waits
  case timer =>
    obtain ⟨-, same⟩ | ⟨-, -, -, -, -, stopped⟩ := silenced d
    · exact same.trans h.timer
    · exact stopped
  case warning =>
    intro e
    obtain ⟨same, -⟩ | ⟨flood, own, closed, shut, silent, -⟩ := silenced e
    · rw [same]
      obtain stands | ⟨silent, shut, i, inQueue, flood, own, closed⟩ := h.warning e
      · exact .inl stands
      · exact .inr ⟨silent, shut.kept stays, i, inQueue, flood, own, (stays i (.inl closed)).trans closed⟩
    · refine .inr ⟨silent, shut, g, ?_, flood, own, closed⟩
      refine (h.queue g listed).resolve_right fun above => ?_
      have state := congrArg Gate.state ((grant_get c g p g).trans (if_pos rfl))
      rw [closed] at state
      obtain ⟨-, stays | settled⟩ := Gate.stepped_open above (c.gates.get g) (recoveryDwellOf c g) p.tick
      · rw [stays, moving] at state
        cases state
      · rw [settled] at state
        cases state

theorem DwellScan.lose (h : DwellScan c d queued W p) (sound : SoundAt c p) {g : GateId} (listed : g ∈ p.queue)
    (dir : Direction) (k : CondId) : DwellScan c d queued W (loseInterlock c g dir k p) := by
  have get := loseInterlock_get c g dir k p
  refine h.of_sameWarning (fun i rest => ?_) (fun i => ?_)
    (.of_one (sound.queue.moving g listed) fun i other => (get i).trans (if_neg other)) fun e => ?_
  · rw [loseInterlock_queue_eq] at rest
    exact (List.mem_filter.mp rest).1
  · rw [get]
    split
    case isTrue same => rw [same, Gate.withCauses_eq]
    case isFalse => rfl
  · rw [loseInterlock_dams]
    exact ⟨rfl, rfl⟩

theorem DwellScan.link (h : DwellScan c d queued W p) (g : GateId) :
    DwellScan c d queued W (offerLinks c .interlockLost (.gate g) p) := by
  have frame := (offerLinks_growth c .interlockLost (.gate g) p).frame
  refine h.of_sameWarning (fun i rest => frame.queue.subset rest) (fun i => ?_) (.of_holds frame.gates) fun e => ?_
  · obtain ⟨-, -, target, -⟩ := (frame.gates i).shown
    exact target
  · obtain ⟨hold, dam⟩ := frame.dams e
    rw [dam]
    exact ⟨rfl, rfl⟩

/-- The dwell ends, the released gates join, and the scan follows. -/
theorem schedule_dwellScan (sound : SoundAt c p) : DwellScan c d p.queue
    (fun e => if e = d then .sounded else (p.dams.get e).warning) (schedule c p false (dwellEnds c d p)) := by
  have soundEnd : SoundAt c (dwellEnds c d p) := sound.dwellEnds d
  refine joinAndScan_keeps_joined (I := DwellScan c d p.queue _) (fun _ _ sound listed h => h.grant sound listed)
    (fun _ _ dir k sound listed h => h.lose sound listed dir k) (fun _ g h => h.link g) _ false soundEnd ?_
  obtain ⟨js, joined, joins, -⟩ := joinAll_eq c (becameMoving p (dwellEnds c d p)) (dwellEnds c d p)
  rw [joined]
  constructor
  case queue =>
    intro h listed
    obtain queued | new := List.mem_append.mp listed
    · rw [dwellEnds_queue sound] at queued
      exact .inl queued
    · obtain ⟨⟨own, warning⟩, -⟩ := becameMoving_dwellEnds.mp (joins h new).1
      have above : 0 < (p.gates.get h).target := ((sound.gate h).warning warning).2.2
      obtain ⟨target, -⟩ := dwellEnds_sameOrder (c := c) (d := d) (p := p) h
      exact .inr (target.symm ▸ above)
  case timer =>
    show ((dwellEnds c d p).dams.get d).dwellTimer = .stopped
    rw [dwellEnds_dams, put_get_ite, if_pos rfl]
  case warning =>
    intro e
    refine .inl ?_
    show ((dwellEnds c d p).dams.get e).warning = _
    rw [dwellEnds_dams, put_get_ite]
    split <;> rfl

end Scan

/-- A HELD gate that only gains holds stays HELD. -/
theorem Gate.OnlyHolds.held {x y : Gate} {kind : GateKind} (h : x.OnlyHolds y) (sound : x.Sound kind)
    (held : x.state = .held) : y.state = .held := by
  have still : y.state ≠ .moving := fun moves => by simpa [held] using h.moving sound moves
  obtain rfl | ⟨-, cs, -, -, -, rfl⟩ := h
  · exact held
  · rw [Gate.withCauses_underWay (.inr held)] at still ⊢
    exact (Causes.moveState_cases cs).elim (fun moving => absurd moving.1 still) And.left

/-! ### The expiry -/

section Expiry

variable {s t : State} {d : DamId}

theorem settled_of_warningDwellExpiry (idle : PortIdle s) (timer : (s.dyn.dams.get d).dwellTimer = .running 0) :
    ∃ t, exec (.warningDwellExpiry d) s = .next t ∧ t.tables = s.tables ∧
      Settled s t (schedule s.tables (counted s) false (dwellEnds s.tables d (counted s))) := by
  have due : dwellDue d s.tables s.dyn = true := by
    rw [dwellDue, timer]
    rfl
  have ends : Course s.tables (counted s) (dwellEnds s.tables d (counted s)) := .of_around (dwellEnds_around _ _ _)
  exact settled_of_inEventIf (i := .warningDwellExpiry d) (due := dwellDue d)
    (f := fun c p => schedule c p false (dwellEnds c d p)) idle rfl due (ends.trans (schedule_course _ _ _))

/-- What an expiry that grants no step leaves, but for the queue. -/
theorem Settled.dwellEnded {q : Dyn} (settled : Settled s t q) (around : q.around = (counted s).around)
    (rivers : q.rivers = (counted s).rivers) (gates : q.gates = (dwellEnds s.tables d (counted s)).gates)
    (dams : q.dams = (dwellEnds s.tables d (counted s)).dams) :
    (StoreKept s t ∧ SameSurroundings s t ∧ SameControl s t ∧ BusKept s t ∧ LogKept s t) ∧
      t.dyn.totals = s.dyn.totals ∧ t.dyn.reaches = s.dyn.reaches ∧
      t.dyn.dams.get d = { s.dyn.dams.get d with warning := .sounded, dwellTimer := .stopped } ∧
      (∀ e, e ≠ d → t.dyn.dams.get e = s.dyn.dams.get e) ∧
      ∀ g, t.dyn.gates.get g =
        if (s.tables.gates.get g).inDam d = true ∧ (s.dyn.gates.get g).state = .warning then
          { s.dyn.gates.get g with state := if (s.dyn.gates.get g).causes.isEmpty then .moving else .held }
        else s.dyn.gates.get g := by
  obtain ⟨totals, reaches⟩ := rivers_fields rivers
  have dam (e : DamId) : t.dyn.dams.get e =
      if e = d then { s.dyn.dams.get d with warning := .sounded, dwellTimer := .stopped } else s.dyn.dams.get e := by
    rw [settled.dams, dams, dwellEnds_dams, put_get_ite]
    rfl
  refine ⟨settled.event_around around, settled.totals.trans totals, settled.reaches.trans reaches,
    (dam d).trans (if_pos rfl), fun e other => (dam e).trans (if_neg other), fun g => ?_⟩
  rw [settled.gates, gates]
  split
  case isTrue waits => exact dwellEnds_released (p := counted s) waits
  case isFalse stays => exact dwellEnds_kept (p := counted s) stays

end Expiry

/-- Settles O10: nothing joins; what joins waits; and the scan in general. -/
theorem warningDwellExpirySoundsTheDam : Obligations.WarningDwellExpirySoundsTheDam := by
  refine ⟨fun s d idle timer none => ?rests, fun s d idle sound timer run waits => ?waits,
    fun s d idle sound timer run => ?scans⟩
  case rests =>
    obtain ⟨t, next, tables, settled⟩ := settled_of_warningDwellExpiry idle timer
    have quiet : schedule s.tables (counted s) false (dwellEnds s.tables d (counted s)) =
        dwellEnds s.tables d (counted s) := by
      refine schedule_none fun g becomes => ?_
      obtain ⟨⟨own, warning⟩, empty⟩ := becameMoving_dwellEnds.mp becomes
      obtain notRun | held := none
      · rw [Bool.eq_false_iff]
        intro joins
        obtain ⟨-, controls, -⟩ := around_fields (dwellEnds_around s.tables d (counted s))
        obtain ⟨mode, -⟩ := controls_fields controls
        exact notRun (mode.symm.trans (joinable_run joins).1)
      · exact absurd (empty.symm.trans (held g own warning)) (by decide)
    rw [quiet] at settled
    obtain ⟨⟨store, surroundings, control, bus, log⟩, totals, reaches, own, others, gates⟩ :=
      settled.dwellEnded (dwellEnds_around _ _ _) (dwellEnds_rivers _ _ _) rfl rfl
    refine ⟨t, next, tables, store, surroundings, control, bus, log,
      fun sound => settled.queue.trans (dwellEnds_queue (SoundAt.counted sound)), ?_, totals, reaches, own, others, gates⟩
    rw [warnLine, own]
    rfl
  case waits =>
    obtain ⟨t, next, tables, settled⟩ := settled_of_warningDwellExpiry idle timer
    have start := SoundAt.counted sound
    have joined := joinAndScan_waits (c := s.tables) (sel := becameMoving (counted s) (dwellEnds s.tables d (counted s)))
      (p := dwellEnds s.tables d (counted s)) false fun g listed => by
        rw [dwellEnds_eligible]
        obtain queued | joins := List.mem_append.mp listed
        · rw [dwellEnds_queue start] at queued
          exact waits g (.inl queued)
        · simp only [List.mem_filter, Bool.and_eq_true] at joins
          exact waits g (.inr (becameMoving_dwellEnds.mp joins.2.1).1)
    have scheduled : schedule s.tables (counted s) false (dwellEnds s.tables d (counted s)) = _ := joined
    rw [scheduled] at settled
    obtain ⟨⟨store, surroundings, control, bus, log⟩, totals, reaches, own, others, gates⟩ :=
      settled.dwellEnded (dwellEnds_around s.tables d (counted s)) (dwellEnds_rivers s.tables d (counted s)) rfl rfl
    refine ⟨t, next, tables, store, surroundings, control, bus, log, totals, reaches, own, others, ?_, gates⟩
    refine settled.queue.trans ?_
    show (dwellEnds s.tables d (counted s)).queue ++ _ = _
    rw [dwellEnds_queue start]
    exact congrArg (s.dyn.queue ++ ·) (List.filter_congr fun g _ => joinable_dwellEnds start run)
  case scans =>
    obtain ⟨t, next, tables, settled⟩ := settled_of_warningDwellExpiry idle timer
    have start := SoundAt.counted sound
    have soundEnd : SoundAt s.tables (dwellEnds s.tables d (counted s)) := start.dwellEnds d
    have course : Course s.tables (counted s) (schedule s.tables (counted s) false (dwellEnds s.tables d (counted s))) :=
      (Course.of_around (dwellEnds_around _ _ _)).trans (schedule_course _ _ _)
    have rivers := (schedule_rivers s.tables (counted s) false (dwellEnds s.tables d (counted s))).trans
      (dwellEnds_rivers s.tables d (counted s))
    have dwellScan := schedule_dwellScan (d := d) start
    have noneWaits : NoneWaits s.tables d (dwellEnds s.tables d (counted s)) := by
      intro h own
      by_cases waits : WaitsAt s.tables d (counted s) h
      · rw [dwellEnds_released waits]
        dsimp only
        split <;> simp
      · rw [dwellEnds_kept waits]
        exact fun warning => waits ⟨own, warning⟩
    have noneWaitsEnd : NoneWaits s.tables d (schedule s.tables (counted s) false (dwellEnds s.tables d (counted s))) :=
      joinAndScan_noneWaits _ false soundEnd noneWaits
    obtain ⟨js, joins, frame⟩ := joinAndScan_frame s.tables (becameMoving (counted s) (dwellEnds s.tables d (counted s)))
      false _ soundEnd.queue.distinct
    obtain ⟨outside, orders, service, -⟩ := frame.of_joined
    have queue : (dwellEnds s.tables d (counted s)).queue = s.dyn.queue := dwellEnds_queue start
    rw [queue] at outside
    rw [show joinAndScan s.tables (becameMoving (counted s) (dwellEnds s.tables d (counted s))) false
      (dwellEnds s.tables d (counted s)) = schedule s.tables (counted s) false (dwellEnds s.tables d (counted s)) from rfl]
      at outside orders service
    generalize schedule s.tables (counted s) false (dwellEnds s.tables d (counted s)) = v at *
    obtain ⟨store, surroundings, control, bus⟩ := settled.event_keeps course
    obtain ⟨totals, reaches⟩ := rivers_fields rivers
    have gatesEnd : t.dyn.gates = v.gates := settled.gates
    have damsEnd : t.dyn.dams = v.dams := settled.dams
    refine ⟨t, next, tables, store, surroundings, control, bus, settled.totals.trans totals, settled.reaches.trans reaches,
      ?_, ?_, fun e => ?_, fun g => ?_⟩
    · rw [damsEnd]
      obtain sounded | ⟨silent, -⟩ := dwellScan.warning d
      · rw [sounded, if_pos rfl]
        decide
      · rw [silent]
        decide
    · rw [damsEnd]
      exact dwellScan.timer
    · rw [damsEnd, allShut_congr gatesEnd, gatesEnd]
      exact dwellScan.warning e
    · rw [gatesEnd]
      refine ⟨Gate.sameOrder_trans (dwellEnds_sameOrder (p := counted s) g) (orders g), ?_⟩
      have notJoined (still : becameMoving (counted s) (dwellEnds s.tables d (counted s)) g = false)
          (unqueued : g ∉ s.dyn.queue) : g ∉ s.dyn.queue ++ js := by
        rw [List.mem_append]
        rintro (queued | joined)
        · exact unqueued queued
        · exact absurd (joins g joined).1 (by simp [still])
      split
      case isTrue waits =>
        have inService : ((counted s).gates.get g).inService = true := by
          show (s.dyn.gates.get g).inService = true
          simp [Gate.inService, waits.2]
        refine ⟨service g (dwellEnds_inService inService), noneWaitsEnd g waits.1, fun some => ?_⟩
        have still : becameMoving (counted s) (dwellEnds s.tables d (counted s)) g = false := by
          rw [Bool.eq_false_iff]
          exact fun becomes => absurd ((becameMoving_dwellEnds.mp becomes).2.symm.trans some) (by decide)
        have unqueued : g ∉ s.dyn.queue := start.not_queued (by simp [counted, waits.2])
        refine (outside g (notJoined still unqueued)).held (soundEnd.gate g) ?_
        rw [dwellEnds_released (p := counted s) waits]
        exact if_neg (by simpa [counted] using some)
      case isFalse stays =>
        intro unqueued
        have still : becameMoving (counted s) (dwellEnds s.tables d (counted s)) g = false := by
          rw [Bool.eq_false_iff]
          exact fun becomes => stays (becameMoving_dwellEnds.mp becomes).1
        have only := outside g (notJoined still unqueued)
        rw [dwellEnds_kept (p := counted s) stays] at only
        exact only

end Sys2Proof.Machine
end

section
/-! The level part of a reach (R39 to R48): what its replacement makes, with its events and the EXCEEDED flag; O11, O32,
O34. -/

namespace Sys2Proof.Machine

/-! ### The events -/

section Events

variable {c : Tables} {r : ReachId} {old new : Reach} {p : Dyn}

theorem raiseSplit_growth (c : Tables) (r : ReachId) (old new : Reach) (p : Dyn) :
    LinkGrowth c p (raiseSplit c r old new p) := by
  unfold raiseSplit
  split
  · exact raise_growth _ _ _
  · exact .refl c p

theorem raiseSplit_rivers : (raiseSplit c r old new p).rivers = p.rivers := by
  unfold raiseSplit
  split
  · exact raise_rivers _ _ _
  · rfl

theorem raiseLevel_growth (c : Tables) (r : ReachId) (old new : Reach) (p : Dyn) :
    LinkGrowth c p (raiseLevel c r old new p) := by
  unfold raiseLevel
  split
  · exact .refl c p
  · split
    · exact raise_growth _ _ _
    · exact .refl c p

theorem raiseLevel_rivers : (raiseLevel c r old new p).rivers = p.rivers := by
  unfold raiseLevel
  split
  · rfl
  · split
    · exact raise_rivers _ _ _
    · rfl

theorem raiseSplit_raises (clear : old.split = false) (set : new.split = true) :
    raiseSplit c r old new p = raise c (splitEvent r p) p := by
  simp [raiseSplit, clear, set]

theorem raiseLevel_raises {e : Event} (change : new.levelState ≠ old.levelState)
    (event : levelEvent r new.levelState p = some e) : raiseLevel c r old new p = raise c e p := by
  rw [raiseLevel, if_neg (by simpa using change.symm), event]

theorem levelEvent_subject {st : LevelState} {e : Event} (event : levelEvent r st p = some e) :
    e.subject = .reach r := by
  cases st <;> simp only [levelEvent, Option.some.injEq, reduceCtorEq] at event <;> rw [← event]

end Events

/-- The event has been raised at tick `tick` on the way to q. -/
def RaisedAt (c : Tables) (e : Event) (tick : BitVec 32) (q : Dyn) : Prop :=
  Recorded (e.record tick) q ∧ LinksActed c e.kind e.subject q

theorem raise_raisedAt (c : Tables) (e : Event) (p : Dyn) : RaisedAt c e p.tick (raise c e p) :=
  ⟨raise_recorded c e p, raise_acted c e p⟩

theorem RaisedAt.along {c : Tables} {e : Event} {tick : BitVec 32} {p q : Dyn} (h : RaisedAt c e tick p)
    (course : Course c p q) : RaisedAt c e tick q := ⟨h.1.along course, h.2.along course⟩

/-- A mode on the way from p to q is that of p or of q: only an entry into HOLD by a link lies between. -/
theorem Course.mode_between {c : Tables} {p m q : Dyn} (before : Course c p m) (after : Course c m q) :
    m.mode = p.mode ∨ m.mode = q.mode := by
  obtain same | hold := before.mode_eq_or_hold
  · exact .inl same
  · exact .inr (after.mode_eq_or_hold.elim Eq.symm fun ends => hold.trans ends.symm)

/-! ### The replacement -/

/-- What the replacement of reach r's level part by `new` makes (R47): the record with its limits, its events, and the
EXCEEDED flag where a limit has changed, or `always`. -/
structure LevelApplied (c : Tables) (r : ReachId) (new : Reach) (always : Bool) (p q : Dyn) : Prop where
  course : Course c p q
  gates : ∀ g, (p.gates.get g).OnlyHolds (q.gates.get g)
  totals : q.totals = p.totals
  reach : q.reaches.get r =
    { new.withLimits (c.reaches.get r) with
      exceeded :=
        if always || (p.reaches.get r).limitsDiffer (new.withLimits (c.reaches.get r)) then
          (firstViolated c q.totals q.reaches r).isSome
        else new.exceeded }
  others : ∀ x, x ≠ r → q.reaches.get x = p.reaches.get x
  split : (p.reaches.get r).split = false → new.split = true →
    RaisedAt c
      { kind := .sensorSplit, subject := .reach r, master := 0, page := 16, qualifier := 0
        value := BitVec.ofNat 16 new.a.value, detail := BitVec.ofNat 16 new.b.value, context := .mode p.mode } p.tick q
  level : new.levelState ≠ (p.reaches.get r).levelState →
    ∃ m : Dyn, m.reaches.get r = new.withLimits (c.reaches.get r) ∧ (m.mode = p.mode ∨ m.mode = q.mode) ∧
      ∀ e, levelEvent r new.levelState m = some e → RaisedAt c e p.tick q
  noted : BoundsNoted c p q

section Applied

variable {c : Tables} {r : ReachId} {p : Dyn}

/-- The state in which the level events are raised: the record with its limits stands, and the mirror is marked. -/
def reachPut (r : ReachId) (x : Reach) (p : Dyn) : Dyn :=
  if (p.reaches.get r).mirrorDiffers x then markReach r (putReach r x p) else putReach r x p

theorem reachPut_around (x : Reach) : (reachPut r x p).around = p.around := by
  unfold reachPut
  split <;> rfl

theorem reachPut_fields (x : Reach) : (reachPut r x p).gates = p.gates ∧ (reachPut r x p).totals = p.totals ∧
    (reachPut r x p).reaches = Table.put p.reaches r x ∧ (reachPut r x p).mode = p.mode ∧
    (reachPut r x p).tick = p.tick := by
  unfold reachPut
  split <;> exact ⟨rfl, rfl, rfl, rfl, rfl⟩

/-- The state after the level events, before EXCEEDED is re-evaluated. -/
def reachRaised (c : Tables) (r : ReachId) (x : Reach) (p : Dyn) : Dyn :=
  raiseLevel c r (p.reaches.get r) x (raiseSplit c r (p.reaches.get r) x (reachPut r x p))

theorem reachRaised_growth (c : Tables) (r : ReachId) (x : Reach) (p : Dyn) :
    LinkGrowth c (reachPut r x p) (reachRaised c r x p) :=
  (raiseSplit_growth c r _ x _).trans (raiseLevel_growth c r _ x _)

theorem reachRaised_rivers (x : Reach) : (reachRaised c r x p).rivers = (reachPut r x p).rivers :=
  raiseLevel_rivers.trans raiseSplit_rivers

theorem applyReach_eq (new : Reach) (always : Bool) : applyReach c r new always p =
    if always || (p.reaches.get r).limitsDiffer (new.withLimits (c.reaches.get r)) then
      reevaluate c r (reachRaised c r (new.withLimits (c.reaches.get r)) p)
    else reachRaised c r (new.withLimits (c.reaches.get r)) p := rfl

theorem reevaluate_noted (c : Tables) (r : ReachId) (p : Dyn) : BoundsNoted c p (reevaluate c r p) :=
  reevaluateAll_noted c [r] p

/-- The events of the record x, as they stand in the state after them. -/
theorem reachRaised_split (x : Reach) (clear : (p.reaches.get r).split = false) (set : x.split = true) :
    RaisedAt c
      { kind := .sensorSplit, subject := .reach r, master := 0, page := 16, qualifier := 0
        value := BitVec.ofNat 16 x.a.value, detail := BitVec.ofNat 16 x.b.value, context := .mode p.mode } p.tick
      (reachRaised c r x p) := by
  obtain ⟨-, -, reaches, mode, tick⟩ := reachPut_fields (r := r) (p := p) x
  have raised := raise_raisedAt c (splitEvent r (reachPut r x p)) (reachPut r x p)
  rw [← raiseSplit_raises clear set, tick, splitEvent, reaches, mode, put_get_ite, if_pos rfl] at raised
  exact raised.along (raiseLevel_growth c r (p.reaches.get r) x _).course

theorem reachRaised_level (x : Reach) (change : x.levelState ≠ (p.reaches.get r).levelState) :
    ∃ m : Dyn, m.reaches.get r = x ∧ Course c p m ∧ Course c m (reachRaised c r x p) ∧
      ∀ e, levelEvent r x.levelState m = some e → RaisedAt c e p.tick (reachRaised c r x p) := by
  obtain ⟨-, -, reaches, -, tick⟩ := reachPut_fields (r := r) (p := p) x
  have growth := raiseSplit_growth c r (p.reaches.get r) x (reachPut r x p)
  obtain ⟨-, same⟩ := rivers_fields (raiseSplit_rivers (c := c) (r := r) (old := p.reaches.get r) (new := x) (p := reachPut r x p))
  obtain ⟨-, -, -, -, -, -, -, -, -, -, -, -, -, -, tickThere, -⟩ := still_fields growth.frame.still
  refine ⟨raiseSplit c r (p.reaches.get r) x (reachPut r x p), ?_, (Course.of_around (reachPut_around x)).trans growth.course,
    (raiseLevel_growth c r _ x _).course, fun e event => ?_⟩
  · rw [same, reaches, put_get_ite, if_pos rfl]
  · have raised := raise_raisedAt c e (raiseSplit c r (p.reaches.get r) x (reachPut r x p))
    rw [tickThere, tick, ← raiseLevel_raises change event] at raised
    exact raised

theorem applyReach_applied {new : Reach} (always : Bool) (exceeded : new.exceeded = (p.reaches.get r).exceeded) :
    LevelApplied c r new always p (applyReach c r new always p) := by
  have withExceeded : (new.withLimits (c.reaches.get r)).exceeded = new.exceeded := rfl
  have shows : (new.withLimits (c.reaches.get r)).split = new.split ∧
      (new.withLimits (c.reaches.get r)).levelState = new.levelState ∧ (new.withLimits (c.reaches.get r)).a = new.a ∧
      (new.withLimits (c.reaches.get r)).b = new.b := ⟨rfl, rfl, rfl, rfl⟩
  have ends := applyReach_eq (c := c) (r := r) (p := p) new always
  generalize made : new.withLimits (c.reaches.get r) = x at withExceeded shows ends
  obtain ⟨splitSame, levelSame, aSame, bSame⟩ := shows
  obtain ⟨gates, totals, reaches, -, -⟩ := reachPut_fields (r := r) (p := p) x
  have growth := reachRaised_growth c r x p
  obtain ⟨totalsThere, reachesThere⟩ := rivers_fields (reachRaised_rivers (c := c) (r := r) (p := p) x)
  have split := reachRaised_split (c := c) (r := r) (p := p) x
  have level := reachRaised_level (c := c) (r := r) (p := p) x
  have course : Course c p (reachRaised c r x p) := (Course.of_around (reachPut_around x)).trans growth.course
  have frame := growth.frame
  rw [totals] at totalsThere
  rw [reaches] at reachesThere
  generalize reachRaised c r x p = u at *
  have get (i : ReachId) : u.reaches.get i = if i = r then x else p.reaches.get i := by
    rw [reachesThere, put_get_ite]
  have ownThere : u.reaches.get r = x := (get r).trans (if_pos rfl)
  have flags (i : ReachId) : (u.reaches.get i).exceeded = (p.reaches.get i).exceeded := by
    rw [get]
    split
    case isTrue same => rw [same, withExceeded, exceeded]
    case isFalse => rfl
  have after : LinkGrowth c u (applyReach c r new always p) ∧ (∀ i, (applyReach c r new always p).reaches.get i =
      { u.reaches.get i with
        exceeded :=
          if i = r ∧ (always || (p.reaches.get r).limitsDiffer x) = true then (firstViolated c u.totals u.reaches i).isSome
          else (u.reaches.get i).exceeded }) ∧ BoundsNoted c u (applyReach c r new always p) := by
    rw [ends]
    split
    case isTrue moved =>
      refine ⟨reevaluate_growth c r u, fun i => ?_, reevaluate_noted c r u⟩
      rw [reevaluate_reaches]
      simp only [moved, and_true]
    case isFalse stays =>
      refine ⟨.refl c u, fun i => ?_, .of_exceeded fun _ => rfl⟩
      rw [if_neg fun both => stays both.2]
  obtain ⟨later, flag, noted⟩ := after
  generalize applyReach c r new always p = q at *
  refine
    { course := course.trans later.course
      gates := fun g => ?_
      totals := later.frame.totals.trans totalsThere
      reach := ?_
      others := fun i other => ?_
      split := fun clear set => ?_
      level := fun change => ?_
      noted := noted.earlier course flags }
  · have first := frame.gates g
    rw [gates] at first
    exact first.trans (later.frame.gates g)
  · have own := flag r
    rw [ownThere, ← firstViolated_frame c later.frame r] at own
    rw [own, withExceeded, made]
    simp only [true_and]
  · rw [flag i, if_neg fun both => other both.1, get, if_neg other]
  · rw [← aSame, ← bSame]
    exact (split clear (splitSame.trans set)).along later.course
  · obtain ⟨m, at', before, between, raises⟩ := level (by rw [levelSame]; exact change)
    refine ⟨m, at'.trans made.symm, before.mode_between (between.trans later.course), fun e event => ?_⟩
    rw [← levelSame] at event
    exact (raises e event).along later.course

end Applied

/-! ### In the words of the claims -/

section Claims

variable {c : Tables} {r : ReachId} {new : Reach} {always : Bool} {p q : Dyn} {s t : State}

theorem LevelApplied.exceededFollows (h : LevelApplied c r new false p q) (start : p.reaches = s.dyn.reaches)
    (same : new.exceeded = (s.dyn.reaches.get r).exceeded) (totals : t.dyn.totals = q.totals)
    (reaches : t.dyn.reaches = q.reaches) : ExceededFollows c s t r := by
  have reach := h.reach
  have flag := congrArg Reach.exceeded reach
  have ceff := congrArg Reach.ceff reach
  have deff := congrArg Reach.deff reach
  dsimp only at flag ceff deff
  rw [start, Bool.false_or, Reach.limitsDiffer, same] at flag
  rw [ExceededFollows, totals, reaches, ceff, deff, flag]
  by_cases stand : (new.withLimits (c.reaches.get r)).ceff = (s.dyn.reaches.get r).ceff ∧
      (new.withLimits (c.reaches.get r)).deff = (s.dyn.reaches.get r).deff
  · rw [if_pos stand, if_neg]
    simp [stand.1, stand.2]
  · rw [if_neg stand, if_pos]
    rw [Bool.or_eq_true, bne_iff_ne, bne_iff_ne]
    by_contra stands
    rw [not_or, not_not, not_not] at stands
    exact stand ⟨stands.1.symm, stands.2.symm⟩

/-- An event raised in the state that the command makes is raised after its grant. -/
theorem Settled.raised {u : Dyn} (settled : Settled s t u) {e : Event} (raised : RaisedAt t.tables e s.dyn.tick u) :
    Raised e s t := ⟨settled.recorded raised.1, settled.linksActed raised.2⟩

theorem LevelApplied.levelEventsRaised (h : LevelApplied c r new always p q) (start : p.reaches = s.dyn.reaches)
    (mode : p.mode = s.dyn.mode) (tick : p.tick = s.dyn.tick) (reaches : t.dyn.reaches = q.reaches)
    (modeEnd : t.dyn.mode = q.mode) (raised : ∀ e, RaisedAt c e s.dyn.tick q → Raised e s t) :
    LevelEventsRaised s t r := by
  have reach := h.reach
  have shows : (t.dyn.reaches.get r).a = new.a ∧ (t.dyn.reaches.get r).b = new.b ∧
      (t.dyn.reaches.get r).split = new.split ∧ (t.dyn.reaches.get r).levelState = new.levelState ∧
      (t.dyn.reaches.get r).level = new.level ∧
      (t.dyn.reaches.get r).ceff = (new.withLimits (c.reaches.get r)).ceff ∧
      (t.dyn.reaches.get r).deff = (new.withLimits (c.reaches.get r)).deff := by
    rw [reaches, reach]
    exact ⟨rfl, rfl, rfl, rfl, rfl, rfl, rfl⟩
  obtain ⟨a, b, split, state, level, ceff, deff⟩ := shows
  constructor
  · intro clear set
    have event := h.split (by rw [start]; exact clear) (split.symm.trans set)
    rw [mode, tick] at event
    rw [a, b]
    exact raised _ event
  · intro change
    obtain ⟨m, record, between, raises⟩ := h.level (by rw [start, ← state]; exact change)
    rw [mode, ← modeEnd] at between
    rw [tick] at raises
    have event (k : EventKind) (detail : Word) : levelStateEvent k r detail m.mode t.dyn =
        Event.mk k (.reach r) 0 16 0 (BitVec.ofNat 16 (m.reaches.get r).level) detail (.mode m.mode) := by
      rw [levelStateEvent, level, record]
      rfl
    refine ⟨m.mode, between, ?_⟩
    rw [state]
    cases entered : new.levelState with
    | normal => trivial
    | high =>
      show Raised (levelStateEvent .levelHigh r (t.dyn.reaches.get r).ceff m.mode t.dyn) s t
      rw [ceff, ← record, event]
      exact raised _ (raises _ (by rw [entered]; rfl))
    | low =>
      show Raised (levelStateEvent .levelLow r (t.dyn.reaches.get r).deff m.mode t.dyn) s t
      rw [deff, ← record, event]
      exact raised _ (raises _ (by rw [entered]; rfl))
    | unknown =>
      show Raised (levelStateEvent .levelUnknown r (t.dyn.reaches.get r).ceff m.mode t.dyn) s t
      rw [ceff, ← record, event]
      exact raised _ (raises _ (by rw [entered]; rfl))

theorem LevelApplied.levelDerived {k : Sensor} {sample : Sample}
    (h : LevelApplied c r (((p.reaches.get r).withSample k sample).derived (c.reaches.get r)) always p q) :
    LevelDerived (c.reaches.get r) (p.reaches.get r) (q.reaches.get r) k sample := by
  rw [h.reach]
  have samples : ((p.reaches.get r).withSample k sample).sample k = sample ∧
      ((p.reaches.get r).withSample k sample).sample (otherSensor k) = (p.reaches.get r).sample (otherSensor k) ∧
      ((p.reaches.get r).withSample k sample).levelState = (p.reaches.get r).levelState ∧
      ((p.reaches.get r).withSample k sample).level = (p.reaches.get r).level := by
    cases k <;> exact ⟨rfl, rfl, rfl, rfl⟩
  obtain ⟨own, other, state, level⟩ := samples
  have sampleOf (x y : Reach) (a : x.a = y.a) (b : x.b = y.b) (j : Sensor) : x.sample j = y.sample j := by
    cases j
    · exact a
    · exact b
  refine ⟨(sampleOf _ _ rfl rfl k).trans own, (sampleOf _ _ rfl rfl _).trans other, ?_, rfl, rfl, rfl⟩
  rw [← state, ← level]
  show (match derivedLevel ((p.reaches.get r).withSample k sample).a ((p.reaches.get r).withSample k sample).b with
    | some v => _
    | none => _)
  unfold Reach.derived Reach.withLimits
  dsimp only
  cases derivedLevel ((p.reaches.get r).withSample k sample).a ((p.reaches.get r).withSample k sample).b with
  | some v => exact ⟨rfl, rfl⟩
  | none => exact ⟨rfl, rfl⟩

theorem Reach.derived_exceeded (x : Reach) (k : Sensor) (sample : Sample) (cfg : ReachConfig) :
    ((x.withSample k sample).derived cfg).exceeded = x.exceeded := by
  cases k <;> rfl

theorem deriveWith_applied (c : Tables) (r : ReachId) (k : Sensor) (sample : Sample) (p : Dyn) :
    LevelApplied c r (((p.reaches.get r).withSample k sample).derived (c.reaches.get r)) false p
      (deriveWith c r k sample p) :=
  applyReach_applied false (Reach.derived_exceeded _ _ _ _)

end Claims

/-- Settles O11: the stale sample takes the place of the fresh one. -/
theorem sampleExpiryDerivesTheLevel : Obligations.SampleExpiryDerivesTheLevel := by
  intro s r k idle timer
  have due : sampleDue r k s.tables s.dyn = true := by
    rw [sampleDue, timer]
    rfl
  have applied := deriveWith_applied s.tables r k ⟨((s.dyn.reaches.get r).sample k).value, .stale, .stopped⟩ (counted s)
  obtain ⟨t, next, tables, settled⟩ := settled_of_inEventIf (i := .sampleExpiry r k) (due := sampleDue r k)
    (f := fun c => sampleExpires c r k) idle rfl due applied.course
  have same : sampleExpires s.tables r k (counted s) =
    deriveWith s.tables r k ⟨((s.dyn.reaches.get r).sample k).value, .stale, .stopped⟩ (counted s) := rfl
  rw [same] at settled
  generalize deriveWith s.tables r k ⟨((s.dyn.reaches.get r).sample k).value, .stale, .stopped⟩ (counted s) = q at *
  obtain ⟨store, surroundings, control, bus⟩ := settled.event_keeps applied.course
  have noted := applied.noted
  have derived := applied.levelDerived
  rw [← tables] at noted
  refine ⟨t, next, tables, store, surroundings, control, bus, settled.totals.trans applied.totals, ?_,
    applied.exceededFollows rfl (Reach.derived_exceeded _ _ _ _) settled.totals settled.reaches,
    applied.levelEventsRaised rfl rfl rfl settled.reaches settled.mode fun e raised => settled.raised (tables.symm ▸ raised),
    settled.boundsReported noted rfl rfl (fun _ => rfl), fun x other => ?_, fun g => ?_⟩
  · rw [settled.reaches]
    exact derived
  · rw [settled.reaches]
    exact applied.others x other
  · rw [settled.gates]
    exact applied.gates g

section Sensor

variable {c : Tables} {r : ReachId} {k : Sensor} {data : Word} {p : Dyn} {v : Nat}

theorem handleSensor_badDigit (bad : decodeValue (c.decimal 16) 9999 data = none) :
    handleSensor r k data c p = .refused .badDigit 0 none p := by
  rw [handleSensor, bad]
  rfl

theorem writtenSample_eq (timeout : Word) : writtenSample v timeout.toNat =
    if timeout = 0 then ⟨v, .stale, .stopped⟩ else ⟨v, .fresh, .running timeout.toNat⟩ := by
  have zero : timeout.toNat = 0 ↔ timeout = 0 :=
    ⟨fun none => BitVec.eq_of_toNat_eq none, fun none => by rw [none]; rfl⟩
  rw [writtenSample, if_congr zero rfl rfl]

theorem handleSensor_taken (good : decodeValue (c.decimal 16) 9999 data = some v) : handleSensor r k data c p =
    .taken c (deriveWith c r k
      (if (c.reaches.get r).sampleTimeout = 0 then ⟨v, .stale, .stopped⟩
        else ⟨v, .fresh, .running (c.reaches.get r).sampleTimeout.toNat⟩) p) := by
  rw [handleSensor, good, ← writtenSample_eq]

end Sensor

/-- Settles O32: the sample written takes the place of the last. -/
theorem sensorWrite : Obligations.SensorWrite := by
  intro s r k w tr idle accepted
  have row : (Instr.sensorWrite r k w).write? = some (.sensor r k, w) := rfl
  split
  case h_1 bad => exact gives_refusedWith_of_refused row accepted (handleSensor_badDigit (p := presented s.dyn) bad)
  case h_2 v good =>
    have handled := handleSensor_taken (r := r) (k := k) (p := presented s.dyn) good
    generalize (if (s.tables.reaches.get r).sampleTimeout = 0 then (⟨v, .stale, .stopped⟩ : Sample)
      else ⟨v, .fresh, .running (s.tables.reaches.get r).sampleTimeout.toNat⟩) = sample at *
    have applied := deriveWith_applied s.tables r k sample (presented s.dyn)
    obtain ⟨t, next, tables, settled⟩ := settled_of_course idle row accepted handled applied.course
    generalize deriveWith s.tables r k sample (presented s.dyn) = q at *
    obtain ⟨store, surroundings, taken, control⟩ := settled.keeps applied.course rfl
    have noted := applied.noted
    have derived := applied.levelDerived
    have totals : t.dyn.totals = q.totals := settled.totals
    have reaches : t.dyn.reaches = q.reaches := settled.reaches
    have gates : t.dyn.gates = q.gates := settled.gates
    rw [← tables] at noted
    refine ⟨t, next, tables, store, surroundings, taken, control, totals.trans applied.totals, ?_,
      applied.exceededFollows rfl (Reach.derived_exceeded _ _ _ _) totals reaches,
      applied.levelEventsRaised rfl rfl rfl reaches settled.mode
        fun e raised => settled.raised (u := takeInHand tr q) (tables.symm ▸ raised),
      settled.boundsReported_of_taken noted, fun x other => ?_, fun g => ?_⟩
    · rw [reaches]
      exact derived
    · rw [reaches]
      exact applied.others x other
    · rw [gates]
      exact applied.gates g

end Sys2Proof.Machine
end

section
/-! A write to a reach record word (R28): the record, the level part that follows from it, and its events; O34. -/

namespace Sys2Proof.Machine

/-- The level part of reach record x after a write of word i, before its limits are recomputed. -/
def Reach.rewritten (x : Reach) (cfg : ReachConfig) (i : Fin 11) : Reach :=
  { x with
    levelState :=
      if 6 ≤ i.val ∧ i.val ≤ 8 ∧ x.levelState ≠ .unknown then nextLevelState cfg x.levelState x.level else x.levelState
    split := if i.val = 9 then splitFlag cfg x.a x.b else x.split }

/-- The tables with word i of reach r's record written. -/
def Tables.withReachWord (c : Tables) (r : ReachId) (i : Fin 11) (data : Word) : Tables :=
  { c with reaches := Table.put c.reaches r ((c.reaches.get r).withWord i data) }

section Handler

variable {c : Tables} {r : ReachId} {i : Fin 11} {data : Word} {p : Dyn}

theorem Reach.rewritten_first (x : Reach) (cfg : ReachConfig) (first : i.val ≤ 5) : x.rewritten cfg i = x := by
  rw [Reach.rewritten, if_neg (by omega), if_neg (by omega)]

theorem Reach.rewritten_mark (x : Reach) (cfg : ReachConfig) (low : 6 ≤ i.val) (high : i.val ≤ 8) :
    x.rewritten cfg i = x.remarked cfg := by
  rw [Reach.rewritten, if_neg (c := i.val = 9) (by omega)]
  by_cases unknown : x.levelState = .unknown
  · rw [if_neg fun all => all.2.2 unknown]
    unfold Reach.remarked
    split
    case h_1 => rfl
    all_goals
      rename_i state
      exact absurd (state.symm.trans unknown) (by decide)
  · rw [if_pos ⟨low, high, unknown⟩]
    unfold Reach.remarked
    split
    case h_1 is => exact absurd is unknown
    all_goals
      rename_i state
      rw [state]

theorem Reach.rewritten_split (x : Reach) (cfg : ReachConfig) (nine : i.val = 9) :
    x.rewritten cfg i = { x with split := splitFlag cfg x.a x.b } := by
  rw [Reach.rewritten, if_neg (by omega), if_pos nine]

theorem handleReachWord_refused (bad : 6 ≤ i.val ∧ i.val ≤ 9 ∧ 9999 < data.toNat) :
    handleReachWord r i data c p = .refused .badConfig 0 none p := by
  rw [handleReachWord, if_pos bad]
  rfl

theorem handleReachWord_last (last : i.val = 10) :
    handleReachWord r i data c p = .taken (c.withReachWord r i data) p := by
  rw [handleReachWord, if_neg (by omega)]
  dsimp only
  rw [if_neg (by omega), if_neg (by omega), if_neg (by omega)]
  rfl

theorem handleReachWord_applied (taken : i.val ≤ 5 ∨ (i.val ≤ 9 ∧ data.toNat ≤ 9999)) :
    handleReachWord r i data c p = .taken (c.withReachWord r i data)
      (applyReach (c.withReachWord r i data) r
        ((p.reaches.get r).rewritten (((c.withReachWord r i data).reaches).get r) i) (decide (i.val ≤ 5)) p) := by
  have own : ((c.withReachWord r i data).reaches).get r = (c.reaches.get r).withWord i data := Table.put_get_self _ _ _
  rw [own, handleReachWord, if_neg (by omega)]
  dsimp only
  by_cases first : i.val ≤ 5
  · rw [if_pos first, Reach.rewritten_first _ _ first, decide_eq_true first]
    rfl
  · rw [if_neg first, decide_eq_false first]
    by_cases mark : i.val ≤ 8
    · rw [if_pos mark, Reach.rewritten_mark _ _ (by omega) mark]
      rfl
    · have nine : i.val = 9 := by omega
      rw [if_neg mark, if_pos nine, Reach.rewritten_split _ _ nine]
      rfl

end Handler

/-- Settles O34: refused, without effect, or with the level part that follows. -/
theorem reachRecordWrite : Obligations.ReachRecordWrite := by
  intro s r i w tr c idle accepted tables
  have row : (Instr.reachRecordWrite r i w).write? = some (.reachWord r i, w) := rfl
  obtain rfl : c = s.tables.withReachWord r i w.data := tables
  refine ⟨fun bad => gives_refusedWith_of_refused row accepted (handleReachWord_refused bad),
    fun last => gives_held_of_taken row accepted (handleReachWord_last last), fun taken => ?_⟩
  have handled := handleReachWord_applied (c := s.tables) (r := r) (p := presented s.dyn) taken
  have links : (s.tables.withReachWord r i w.data).links = s.tables.links := rfl
  generalize s.tables.withReachWord r i w.data = c at *
  have applied : LevelApplied c r ((s.dyn.reaches.get r).rewritten (c.reaches.get r) i) (decide (i.val ≤ 5))
      (presented s.dyn) _ := applyReach_applied (decide (i.val ≤ 5)) rfl
  obtain ⟨t, next, tables, settled⟩ := settled_of_course idle row accepted handled applied.course
  rw [show (presented s.dyn).reaches = s.dyn.reaches from rfl] at settled
  generalize applyReach c r ((s.dyn.reaches.get r).rewritten (c.reaches.get r) i) (decide (i.val ≤ 5)) (presented s.dyn) = q
    at *
  obtain ⟨store, surroundings, taken, control⟩ := settled.keeps applied.course links
  have noted := applied.noted
  have totals : t.dyn.totals = q.totals := settled.totals
  have reaches : t.dyn.reaches = q.reaches := settled.reaches
  have gates : t.dyn.gates = q.gates := settled.gates
  have reach := applied.reach
  rw [← tables] at noted
  refine ⟨t, next, tables, store, surroundings, taken, control, totals.trans applied.totals, ?_, fun first => ?_,
    fun later => ?_, applied.levelEventsRaised rfl rfl rfl reaches settled.mode
      fun e raised => settled.raised (u := takeInHand tr q) (tables.symm ▸ raised),
    settled.boundsReported_of_taken noted, fun x other => ?_, fun g => ?_⟩
  · rw [reaches, reach]
    rfl
  · have flag := congrArg Reach.exceeded reach
    rw [decide_eq_true first, Bool.true_or, if_pos rfl] at flag
    rw [totals, reaches]
    exact flag
  · rw [decide_eq_false (by omega)] at applied
    exact applied.exceededFollows rfl rfl totals reaches
  · rw [reaches]
    exact applied.others x other
  · rw [gates]
    exact applied.gates g

end Sys2Proof.Machine
end

section
/-! Writes of station status words and of interlock conditions (R67 to R69): the gates that lose INTERLOCK; O37. -/

namespace Sys2Proof.Machine

/-! ### The gates that lose INTERLOCK -/

section Cleared

variable {c : Tables} {sel : CondId → Bool} {p : Dyn} {g : GateId}

theorem refCondition_iff {x : BitVec 6} {k : CondId} : refCondition x = some k ↔ x.toNat = k.val := by
  unfold refCondition
  split
  case isTrue below =>
    rw [Option.some.injEq, Fin.ext_iff]
  case isFalse above =>
    have apart : x.toNat ≠ k.val := by omega
    simp [apart]

theorem interlockCleared_iff (sound : SoundAt c p) : interlockCleared c sel p g = true ↔
    (p.gates.get g).causes.interlock = true ∧
      (∃ k : CondId, sel k = true ∧
        ((c.gates.get g).reference (directionTo (p.gates.get g).command (p.gates.get g).target)).toNat = k.val) ∧
      falseCondition c p.statusWords g (directionTo (p.gates.get g).command (p.gates.get g).target) = none := by
  have named : (match refCondition ((c.gates.get g).reference
        (directionTo (p.gates.get g).command (p.gates.get g).target)) with
      | some k => sel k
      | none => false) = true ↔ ∃ k : CondId, sel k = true ∧
        ((c.gates.get g).reference (directionTo (p.gates.get g).command (p.gates.get g).target)).toNat = k.val := by
    split
    case h_1 k is =>
      have number := refCondition_iff.mp is
      constructor
      · exact fun picked => ⟨k, picked, number⟩
      · rintro ⟨j, picked, same⟩
        rwa [Fin.ext (number.symm.trans same)]
    case h_2 is =>
      constructor
      · exact fun none => absurd none (by decide)
      · rintro ⟨j, -, same⟩
        exact absurd (is.symm.trans (refCondition_iff.mpr same)) (by simp)
  have inService (set : (p.gates.get g).causes.interlock = true) : (p.gates.get g).inService = true := by
    simp [Gate.inService, (sound.gate g).interlock set]
  rw [← named]
  unfold interlockCleared
  simp only [Bool.and_eq_true, Option.isNone_iff_eq_none]
  constructor
  · rintro ⟨⟨⟨-, set⟩, picked⟩, passes⟩
    exact ⟨set, picked, passes⟩
  · rintro ⟨set, picked, passes⟩
    exact ⟨⟨⟨inService set, set⟩, picked⟩, passes⟩

/-- A gate HELD by INTERLOCK is left to its other causes. -/
theorem Gate.withoutInterlock {x : Gate} (held : x.state = .held) : x.withCauses { x.causes with interlock := false } =
    { x with
      causes := { x.causes with interlock := false }
      state := if x.causes.mode || x.causes.dam then .held else .moving } := by
  have empty : Causes.isEmpty { x.causes with interlock := false } = !(x.causes.mode || x.causes.dam) := by
    simp [Causes.isEmpty]
  rw [Gate.withCauses_eq, empty, if_pos (.inr held)]
  cases x.causes.mode || x.causes.dam <;> rfl

theorem clearInterlocks_released (sound : SoundAt c p) (picked : interlockCleared c sel p g = true) :
    (clearInterlocks c sel p).gates.get g =
      { p.gates.get g with
        causes := { (p.gates.get g).causes with interlock := false }
        state := if (p.gates.get g).causes.mode || (p.gates.get g).causes.dam then .held else .moving } := by
  rw [clearInterlocks_get, if_pos picked]
  exact Gate.withoutInterlock ((sound.gate g).interlock ((interlockCleared_iff sound).mp picked).1)

theorem clearInterlocks_sameOrder (g : GateId) :
    (p.gates.get g).sameOrder ((clearInterlocks c sel p).gates.get g) := by
  rw [clearInterlocks_get]
  split
  · exact Gate.withCauses_sameOrder _ _
  · exact Gate.sameOrder_refl _

/-- No queued gate carries INTERLOCK. -/
theorem clearInterlocks_queue_eq (sound : SoundAt c p) : (clearInterlocks c sel p).queue = p.queue := by
  rw [clearInterlocks_queue, List.filter_eq_self]
  intro h queued
  have stays : interlockCleared c sel p h = false := by
    rw [Bool.eq_false_iff]
    intro picked
    have held := (sound.gate h).interlock ((interlockCleared_iff sound).mp picked).1
    exact absurd (held.symm.trans (sound.queue.moving h queued)) (by decide)
  simp [stays]

theorem clearInterlocks_around (c : Tables) (sel : CondId → Bool) (p : Dyn) :
    (clearInterlocks c sel p).around = p.around := clearInterlocks_keeps Dyn.around putGate_around c sel p

theorem clearInterlocks_rivers (c : Tables) (sel : CondId → Bool) (p : Dyn) :
    (clearInterlocks c sel p).rivers = p.rivers := clearInterlocks_keeps Dyn.rivers putGate_rivers c sel p

/-- Where no released gate may join yet, nothing is scheduled. -/
theorem schedule_clearInterlocks (sound : SoundAt c p)
    (wait : ∀ g, (p.gates.get g).causes.interlock = true → (p.gates.get g).causes.mode = false →
      (p.gates.get g).causes.dam = false →
      p.mode ≠ .run ∨ (p.gates.get g).awaiting = true ∨ stepIntervalElapsed c p g = false) :
    schedule c p false (clearInterlocks c sel p) = clearInterlocks c sel p := by
  obtain ⟨still, controls, -⟩ := around_fields (clearInterlocks_around c sel p)
  obtain ⟨-, -, -, -, -, -, -, -, -, -, -, -, -, -, tick, -⟩ := still_fields still
  obtain ⟨mode, -⟩ := controls_fields controls
  refine schedule_none fun g becomes => ?_
  obtain ⟨moves, before⟩ := becameMoving_iff.mp becomes
  by_cases picked : interlockCleared c sel p g = true
  · have record := clearInterlocks_released sound picked
    have state := congrArg Gate.state record
    rw [moves] at state
    dsimp only at state
    split at state
    case isTrue => cases state
    case isFalse free =>
      simp only [Bool.or_eq_true, not_or, Bool.not_eq_true] at free
      have waits := wait g ((interlockCleared_iff sound).mp picked).1 free.1 free.2
      unfold joinable stepIntervalElapsed
      rw [mode, record, tick]
      unfold stepIntervalElapsed at waits
      obtain notRun | awaiting | early := waits
      · simp [notRun]
      · simp [awaiting]
      · simp [early]
  · rw [clearInterlocks_get, if_neg picked] at moves
    exact absurd moves before

end Cleared

/-! ### The two writes -/

section Writes

variable {i : Instr} {x : WriteTarget} {w : BusWrite} {s t : State} {tr : Transaction} {c : Tables}
  {words : Vector Word 16} {sel : CondId → Bool}

/-- The state of the re-evaluation: the status words as they are now. -/
def withWords (s : State) (words : Vector Word 16) : Dyn := { presented s.dyn with statusWords := words }

theorem withWords_soundAt (sound : GatesSound s) (gates : c.gates = s.tables.gates) : SoundAt c (withWords s words) := by
  obtain ⟨queue, gate⟩ := (gatesSound_iff.mp sound).of_eq (q := withWords s words) rfl rfl rfl
  exact ⟨queue, fun g => by rw [gates]; exact gate g⟩

/-- The state of the re-evaluation shows s but for the status words and the answer. -/
structure Reworded (s : State) (words : Vector Word 16) (p : Dyn) : Prop where
  gates : p.gates = s.dyn.gates
  dams : p.dams = s.dyn.dams
  totals : p.totals = s.dyn.totals
  reaches : p.reaches = s.dyn.reaches
  queue : p.queue = s.dyn.queue
  controls : p.controls = s.dyn.controls
  tick : p.tick = s.dyn.tick
  statusWords : p.statusWords = words
  setting : p.setting = Dyn.setting { s.dyn with statusWords := words }
  log : p.logBuffer = s.dyn.logBuffer ∧ p.logLost = s.dyn.logLost ∧ p.logWrite = s.dyn.logWrite ∧ p.logRead = s.dyn.logRead
  jobs : p.portalJobs = s.dyn.portalJobs
  debt : p.debt = s.dyn.debt
  answer : p.answer = none
  free : p.running.isNone = s.dyn.running.isNone

theorem withWords_reworded (s : State) (words : Vector Word 16) : Reworded s words (withWords s words) := by
  constructor <;> simp [withWords, Dyn.controls, Dyn.setting]

/-- Controls that only links have changed since a state with the controls of s. -/
theorem Course.controlByLinks_between {p q : Dyn} (course : Course c p q) (start : p.controls = s.dyn.controls)
    (finish : t.dyn.controls = q.controls) (links : c.links = s.tables.links) : ControlByLinks s t := by
  obtain ⟨mode, offer, progress, alarms⟩ := controls_fields finish
  obtain ⟨mode0, offer0, progress0, alarms0⟩ := controls_fields start
  refine ⟨?_, fun k => ?_⟩
  · rw [← links, mode, offer, progress, ← mode0, ← offer0, ← progress0]
    exact course.control
  · rw [← links, alarms, ← alarms0]
    exact course.alarms k

/-- What both writes claim, of a state that the re-evaluation makes. -/
theorem reevaluation_claims (idle : PortIdle s) (sound : GatesSound s) (row : i.write? = some (x, w))
    (accepted : Accepted i s tr) (gates : c.gates = s.tables.gates) (links : c.links = s.tables.links)
    (handled : handlerOf w.master w.data x s.tables (presented s.dyn) =
      .taken c (reevaluateInterlocks c sel (withWords s words))) :
    ∃ t, exec i s = .next t ∧ t.tables = c ∧ StoreKept s t ∧ t.dyn.statusWords = words ∧
      SameSurroundings { s with dyn := { s.dyn with statusWords := words } } t ∧ Taken tr t ∧
      ControlByLinks s t ∧ t.dyn.totals = s.dyn.totals ∧ t.dyn.reaches = s.dyn.reaches ∧
      (∀ g, (s.dyn.gates.get g).sameOrder (t.dyn.gates.get g)) ∧
      ((∀ g, (s.dyn.gates.get g).causes.interlock = true → (s.dyn.gates.get g).causes.mode = false →
          (s.dyn.gates.get g).causes.dam = false → NotYet s g) →
        SameControl s t ∧ LogKept s t ∧ t.dyn.dams = s.dyn.dams ∧ t.dyn.queue = s.dyn.queue ∧
        ∀ g, t.dyn.gates.get g =
          if (s.dyn.gates.get g).causes.interlock = true ∧
              (∃ k : CondId, sel k = true ∧
                ((s.tables.gates.get g).reference
                  (directionTo (s.dyn.gates.get g).command (s.dyn.gates.get g).target)).toNat = k.val) ∧
              falseCondition c words g
                (directionTo (s.dyn.gates.get g).command (s.dyn.gates.get g).target) = none
          then
            { s.dyn.gates.get g with
              causes := { (s.dyn.gates.get g).causes with interlock := false }
              state :=
                if (s.dyn.gates.get g).causes.mode || (s.dyn.gates.get g).causes.dam then .held else .moving }
          else s.dyn.gates.get g) := by
  have start : SoundAt c (withWords s words) := withWords_soundAt sound gates
  have same := withWords_reworded s words
  generalize withWords s words = p at *
  have around := clearInterlocks_around c sel p
  have course : Course c p (schedule c p false (clearInterlocks c sel p)) :=
    (Course.of_around around).trans (schedule_course _ _ _)
  have rivers := (schedule_rivers c p false (clearInterlocks c sel p)).trans (clearInterlocks_rivers c sel p)
  obtain ⟨-, -, -, -, -, -, -, -, -, -, answer, -, -, -, -, -, free⟩ := still_fields course.still
  obtain ⟨t, next, tables, settled⟩ := settled_of_taken idle row accepted handled (free.trans same.free)
    (noRefreshWaits_of_course idle same.free same.controls same.debt course)
  rw [reevaluateInterlocks_eq] at settled
  have cleared : SoundAt c (clearInterlocks c sel p) := start.clearInterlocks sel
  obtain ⟨js, -, frame⟩ := joinAndScan_frame c (becameMoving p (clearInterlocks c sel p)) false _ cleared.queue.distinct
  obtain ⟨-, orders, -⟩ := frame.of_joined
  have quiet := schedule_clearInterlocks (sel := sel) start
  have ordersEnd (g : GateId) : (p.gates.get g).sameOrder ((schedule c p false (clearInterlocks c sel p)).gates.get g) :=
    Gate.sameOrder_trans (clearInterlocks_sameOrder g) (orders g)
  generalize schedule c p false (clearInterlocks c sel p) = v at *
  obtain ⟨totals, reaches⟩ := rivers_fields rivers
  have setting : v.setting = p.setting := setting_of_still course.still
  have jobs : v.portalJobs = s.dyn.portalJobs := (congrArg (fun x => x.2.2.1) setting).trans same.jobs
  have settingEnd : t.dyn.setting = v.setting := settled.setting (q := takeInHand tr v) jobs
  have surroundings := sameSurroundings_of_setting (s := { s with dyn := { s.dyn with statusWords := words } }) (t := t)
    (settingEnd.trans (setting.trans same.setting))
  have wordsEnd : t.dyn.statusWords = words := surroundings.statusWords
  have controlsEnd : t.dyn.controls = v.controls := settled.controls
  have gatesEnd : t.dyn.gates = v.gates := settled.gates
  have totalsEnd : t.dyn.totals = v.totals := settled.totals
  have reachesEnd : t.dyn.reaches = v.reaches := settled.reaches
  refine ⟨t, next, tables, settled.store, wordsEnd, surroundings, settled.taken (answer.trans same.answer),
    course.controlByLinks_between same.controls controlsEnd links, totalsEnd.trans (totals.trans same.totals),
    reachesEnd.trans (reaches.trans same.reaches), fun g => ?_, fun wait => ?_⟩
  · rw [gatesEnd, ← same.gates]
    exact ordersEnd g
  · obtain ⟨mode, -⟩ := controls_fields same.controls
    have unchanged : v = clearInterlocks c sel p := by
      refine quiet fun g set free noDam => ?_
      rw [same.gates] at set free noDam
      unfold stepIntervalElapsed
      rw [same.gates, same.tick, mode, gates]
      exact wait g set free noDam
    obtain ⟨still, controls, buffer, lost, -⟩ := around_fields around
    obtain ⟨-, -, -, -, -, -, logWrite, logRead, -⟩ := still_fields still
    have dams : (clearInterlocks c sel p).dams = p.dams := clearInterlocks_keeps Dyn.dams putGate_dams c sel p
    have queue := clearInterlocks_queue_eq (sel := sel) start
    have released (g : GateId) := clearInterlocks_released (g := g) (sel := sel) start
    have stays := clearInterlocks_get c sel p
    obtain ⟨bufferStart, lostStart, writeStart, readStart⟩ := same.log
    rw [← unchanged] at controls buffer lost logWrite logRead dams queue released stays
    have damsEnd : t.dyn.dams = v.dams := settled.dams
    have queueEnd : t.dyn.queue = v.queue := settled.queue
    have lostEnd : t.dyn.logLost = v.logLost := settled.port.logLost
    refine ⟨settled.sameControl (controls.trans same.controls),
      ⟨settled.logBuffer (buffer.trans bufferStart) (logWrite.trans writeStart) (logRead.trans readStart),
        lostEnd.trans (lost.trans lostStart)⟩,
      damsEnd.trans (dams.trans same.dams), queueEnd.trans (queue.trans same.queue), fun g => ?_⟩
    have picked := interlockCleared_iff (sel := sel) (g := g) start
    have releasedHere := released g
    have staysHere := stays g
    rw [same.gates] at releasedHere staysHere
    rw [gates, same.gates, same.statusWords] at picked
    rw [gatesEnd]
    split
    case isTrue all => exact releasedHere (picked.mpr all)
    case isFalse not => exact staysHere.trans (if_neg fun is => not (picked.mp is))

end Writes

/-- Settles O37: both rows re-evaluate the interlocks. -/
theorem statusAndConditionWrites : Obligations.StatusAndConditionWrites := by
  intro i s tr c words sel idle sound accepted given
  split at given
  case h_1 n w =>
    obtain ⟨rfl, rfl, names⟩ := given
    obtain rfl : sel = fun k => (s.tables.conditions.get k).source == n := funext names
    exact reevaluation_claims (x := .statusWord n) idle sound rfl accepted rfl rfl rfl
  case h_2 k j w =>
    obtain ⟨rfl, names, rfl⟩ := given
    obtain rfl : sel = fun x => x == k := funext names
    exact reevaluation_claims (x := .condition k j) (words := s.dyn.statusWords) idle sound rfl accepted rfl rfl rfl
  case h_3 => exact given.elim

end Sys2Proof.Machine
end

section
/-! A commit as the claims write it (R60 to R64, R100): the gates and the dams that `commitTarget` leaves are those of
`itemCommitted`, and holds by links beforehand are holds afterwards. -/

namespace Sys2Proof.Machine

/-! ### Dam records after a commit (R20, R23) -/

section DamCommitted

variable {x x' y y' : Dam} {a b : GateState} {n : Nat} {shut shut' : Prop}

theorem Dam.committed_kept (silent : ¬(a = .closed ∧ x.warning = .silent ∧ b ≠ .closed))
    (closes : ¬(a ≠ .closed ∧ b = .closed)) (same : y = x) : Dam.committed x a b n shut y :=
  ⟨fun starts => absurd starts silent, fun ends => absurd ⟨ends.1, ends.2.1⟩ closes, fun _ _ => same⟩

/-- The record is determined, but for the hold flag, by the record before but for its hold flag. -/
theorem Dam.committed_sameButHold {a' b' : GateState} (h : Dam.committed x a b n shut y)
    (h' : Dam.committed x' a' b' n shut' y') (held : x.sameButHold x') (before : a' = .closed ↔ a = .closed)
    (after : b' = .closed ↔ b = .closed) (same : shut' ↔ shut) : y.sameButHold y' := by
  obtain ⟨starts, ends, stays⟩ := h
  obtain ⟨starts', ends', stays'⟩ := h'
  have record : x' = { x with hold := x'.hold } := held
  have warning : x'.warning = x.warning := by rw [record]
  simp only [ne_eq, before, after, same, warning] at starts' ends' stays'
  by_cases first : a = .closed ∧ x.warning = .silent ∧ b ≠ .closed
  · rw [starts first, starts' first, record]
    rfl
  by_cases second : a ≠ .closed ∧ b = .closed ∧ shut
  · rw [ends second, ends' second, record]
    rfl
  · rw [stays first second, stays' first second]
    exact held

theorem Dam.committed_unique (h : Dam.committed x a b n shut y) (h' : Dam.committed x a b n shut y') : y = y' := by
  obtain ⟨starts, ends, stays⟩ := h
  obtain ⟨starts', ends', stays'⟩ := h'
  by_cases first : a = .closed ∧ x.warning = .silent ∧ b ≠ .closed
  · rw [starts first, starts' first]
  by_cases second : a ≠ .closed ∧ b = .closed ∧ shut
  · rw [ends second, ends' second]
  · rw [stays first second, stays' first second]

end DamCommitted

/-! ### What a commit leaves of the dams -/

section Dams

variable {c : Tables} {g : GateId} {d : DamId} {v : Nat} {p : Dyn}

theorem Gate.moveState_ne_closed (x : Gate) : x.moveState ≠ .closed := by
  unfold Gate.moveState
  split <;> decide

theorem Gate.leaving_ne_closed (x : Gate) (w : Warning) (n : Nat) : x.leaving w n ≠ .closed := by
  cases w
  · simp only [Gate.leaving]
    split
    · exact x.moveState_ne_closed
    · decide
  · simp [Gate.leaving]
  · exact x.moveState_ne_closed

/-- The silencing check of gate g, which has left another state for CLOSED. -/
theorem silenceCheckOf_committed (own : (c.gates.get g).inDam d = true) (flood : (c.gates.get g).kind = .flood)
    (closed : (p.gates.get g).state = .closed) {a : GateState} (leaves : a ≠ .closed) (n : Nat) :
    Dam.committed (p.dams.get d) a (p.gates.get g).state n (AllShut c (silenceCheckOf c g p) d)
      ((silenceCheckOf c g p).dams.get d) := by
  obtain ⟨silences, stays⟩ := silenceCheckOf_dams_get c g p d
  rw [allShut_congr (silenceCheckOf_gates c g p)]
  refine ⟨fun starts => absurd starts.1 leaves, fun ends => silences own flood ends.2.2,
    fun _ open' => stays fun all => ?_⟩
  exact open' ⟨leaves, closed, all.2.2⟩

/-- The settling of gate g, as a commit (R63): the gate leaves no CLOSED state. -/
theorem settle_committed (own : (c.gates.get g).inDam d = true)
    (arrived : (p.gates.get g).target = (p.gates.get g).command) {a : GateState} (leaves : a ≠ .closed) (n : Nat) :
    Dam.committed (p.dams.get d) a ((settle c g p).gates.get g).state n (AllShut c (settle c g p) d)
      ((settle c g p).dams.get d) := by
  have put (x : Gate) : (putGate g x p).dams = p.dams := putGate_dams g x p
  unfold settle
  dsimp only
  split
  case isFalse =>
    rw [putGate_get, if_pos rfl, put]
    exact Dam.committed_kept (fun starts => leaves starts.1) (fun ends => absurd ends.2 (by simp)) rfl
  case isTrue shut =>
    obtain ⟨flood, zero⟩ : (c.gates.get g).kind = .flood ∧ (p.gates.get g).command = 0 := by simpa using shut
    split
    case isFalse =>
      rw [putGate_get, if_pos rfl, put]
      exact Dam.committed_kept (fun starts => leaves starts.1) (fun ends => absurd ends.2 (by simp)) rfl
    case isTrue =>
      rw [recoveryEnds_closes (by rw [putGate_get, if_pos rfl]; exact arrived.trans zero), silenceCheckOf_gates]
      have closed := silenceCheckOf_committed (p := putGate g
        { (putGate g { p.gates.get g with
            state := .recovering
            causes := { (p.gates.get g).causes with interlock := false }
            recoveryTimer := .running (recoveryDwellOf c g) } p).gates.get g with
          state := .closed
          recoveryTimer := .stopped }
        (putGate g { p.gates.get g with
            state := .recovering
            causes := { (p.gates.get g).causes with interlock := false }
            recoveryTimer := .running (recoveryDwellOf c g) } p)) own flood (by rw [putGate_get, if_pos rfl]) leaves n
      rwa [putGate_dams, put] at closed

/-- A commit changes a dam's warning as Table 3-3 and R23 give, and no other dam. -/
theorem commitTarget_dam (sound : (p.gates.get g).Sound (c.gates.get g).kind) (change : v ≠ (p.gates.get g).target)
    (own : (c.gates.get g).inDam d = true) :
    Dam.committed (p.dams.get d) (p.gates.get g).state ((commitTarget c g v p).gates.get g).state
      (c.dams.get d).warningDwell.toNat (AllShut c (commitTarget c g v p) d) ((commitTarget c g v p).dams.get d) := by
  have dam := dam?_of_inDam own
  have put (x : Gate) : (putGate g x p).dams = p.dams := putGate_dams g x p
  have settles (x : Gate) (arrived : x.target = x.command) {a : GateState} (leaves : a ≠ .closed) :=
    settle_committed (p := putGate g x p) own (by rw [putGate_get, if_pos rfl]; exact arrived) leaves
      (c.dams.get d).warningDwell.toNat
  simp only [put] at settles
  cases state : (p.gates.get g).state with
  | recovering =>
    simp only [commitTarget, state, putGate_get, if_pos, put]
    exact Dam.committed_kept (by simp) (by simp [Gate.retargeted, state]) rfl
  | warning =>
    obtain ⟨flood, zero, -⟩ := sound.warning state
    by_cases shut : v = (p.gates.get g).command
    · simp only [commitTarget, state, if_pos shut, silenceCheckOf_gates]
      have closed := silenceCheckOf_committed (p := putGate g { (p.gates.get g).retargeted v with state := .closed } p)
        own flood (by rw [putGate_get, if_pos rfl]) (a := .warning) (by decide) (c.dams.get d).warningDwell.toNat
      rwa [put] at closed
    · simp only [commitTarget, state, if_neg shut, putGate_get, if_pos, put]
      exact Dam.committed_kept (by simp) (by simp [Gate.retargeted, state]) rfl
  | closed =>
    obtain ⟨-, target, command⟩ := sound.closed state
    have moves : v ≠ (p.gates.get g).command := by omega
    simp only [commitTarget, state, if_neg moves, dam, soundForOrder_dams, soundForOrder_get c own, if_pos, put]
    have opens := ((putGate g ((p.gates.get g).retargeted v) p).gates.get g).leaving_ne_closed (p.dams.get d).warning
      (c.dams.get d).warningDwell.toNat
    refine ⟨fun starts => ?_, fun ends => absurd ends.2.1 opens, fun stays _ => ?_⟩
    · rw [if_pos starts.2.1, put_get_ite, if_pos rfl]
    · rw [if_neg fun silent => stays ⟨rfl, silent, opens⟩]
  | settled =>
    obtain ⟨arrived, -⟩ := sound.settled state
    have moves : v ≠ (p.gates.get g).command := by omega
    simp only [commitTarget, state, if_neg moves, putGate_get, if_pos, put]
    exact Dam.committed_kept (by simp) (by simp [Gate.moveState_ne_closed]) rfl
  | moving =>
    by_cases arrived : v = (p.gates.get g).command
    · simp only [commitTarget, state, if_pos arrived]
      exact settles ((p.gates.get g).retargeted v) arrived (by decide)
    · simp only [commitTarget, state, if_neg arrived, putGate_get, if_pos, put]
      exact Dam.committed_kept (by simp) (by simp [Gate.moveState_ne_closed]) rfl
  | held =>
    by_cases arrived : v = (p.gates.get g).command
    · simp only [commitTarget, state, if_pos arrived]
      exact settles ((p.gates.get g).retargeted v) arrived (by decide)
    · simp only [commitTarget, state, if_neg arrived, putGate_get, if_pos, put]
      exact Dam.committed_kept (by simp) (by simp [Gate.moveState_ne_closed]) rfl
  | outOfService =>
    simp only [commitTarget, state]
    exact Dam.committed_kept (by simp) (by simp) rfl
  | faulted =>
    simp only [commitTarget, state]
    exact Dam.committed_kept (by simp) (by simp) rfl

theorem silenceCheckOf_elsewhere {e : DamId} (own : (c.gates.get g).inDam d = true) (other : e ≠ d) :
    (silenceCheckOf c g p).dams.get e = p.dams.get e :=
  (silenceCheckOf_dams_get c g p e).2 fun all => other (inDam_unique all.1 own)

theorem settle_elsewhere {e : DamId} (own : (c.gates.get g).inDam d = true) (other : e ≠ d) :
    (settle c g p).dams.get e = p.dams.get e :=
  (settle_dam c g p e).2 (by
    rw [Bool.eq_false_iff]
    exact fun here => other (inDam_unique here own))

theorem commitTarget_elsewhere {e : DamId} (own : (c.gates.get g).inDam d = true) (other : e ≠ d) :
    (commitTarget c g v p).dams.get e = p.dams.get e := by
  have dam := dam?_of_inDam own
  unfold commitTarget
  dsimp only
  cases state : (p.gates.get g).state <;> dsimp only
  case recovering => rw [putGate_dams]
  case warning =>
    split
    · rw [silenceCheckOf_elsewhere own other, putGate_dams]
    · rw [putGate_dams]
  case closed =>
    split
    · rw [settle_elsewhere own other, putGate_dams]
    · simp only [dam, soundForOrder_dams, putGate_dams]
      split
      · rw [put_get_ite, if_neg other]
      · rfl
  case settled | moving | held =>
    split
    · rw [settle_elsewhere own other, putGate_dams]
    · rw [putGate_dams]

end Dams

end Sys2Proof.Machine
end

section
/-! The commit of a gate's record (Table 3-3) and holds: a record that holds alone have changed is committed to the
committed record, changed by holds alone. -/

namespace Sys2Proof.Machine

/-! ### Records -/

section Records

variable {x y : Gate}

/-- Holds move a gate between MOVING and HELD alone. -/
theorem Gate.OnlyHolds.state_iff (h : x.OnlyHolds y) {st : GateState} (moving : st ≠ .moving) (held : st ≠ .held) :
    y.state = st ↔ x.state = st := by
  obtain rfl | ⟨-, cs, -, -, -, rfl⟩ := h
  · rfl
  · rw [Gate.withCauses_eq]
    dsimp only
    split
    case isTrue underWay =>
      refine ⟨fun same => ?_, fun same => ?_⟩
      · split at same
        · exact absurd same.symm moving
        · exact absurd same.symm held
      · obtain state | state := underWay
        · exact absurd (same.symm.trans state) moving
        · exact absurd (same.symm.trans state) held
    case isFalse => rfl

theorem Causes.moveState_underWay (cs : Causes) : cs.moveState = .moving ∨ cs.moveState = .held := by
  unfold Causes.moveState
  split
  · exact .inr rfl
  · exact .inl rfl

/-- A move that starts while causes hold it goes on with the causes that it has then. -/
theorem Gate.moves_withCauses (x : Gate) (cs cs' : Causes) (v : Nat) :
    ({ x with target := v, causes := cs', state := cs'.moveState } : Gate).withCauses cs =
      { x with target := v, causes := cs, state := cs.moveState } :=
  Gate.withCauses_underWay cs'.moveState_underWay cs

theorem Gate.leaving_withCauses (x : Gate) (cs : Causes) (v : Nat) (w : Warning) (n : Nat) :
    ({ x with target := v, state := x.leaving w n } : Gate).withCauses cs =
      { x with target := v, causes := cs, state := ({ x with causes := cs } : Gate).leaving w n } := by
  have moves : ({ x with target := v, state := x.moveState } : Gate).withCauses cs =
      { x with target := v, causes := cs, state := ({ x with causes := cs } : Gate).moveState } := by
    rw [Causes.moveState_eq, Causes.moveState_eq]
    exact x.moves_withCauses cs x.causes v
  have waits : ({ x with target := v, state := .warning } : Gate).withCauses cs =
      { x with target := v, causes := cs, state := .warning } :=
    Gate.withCauses_resting (by simp) (by simp) cs
  cases w with
  | sounded => exact moves
  | sounding => exact waits
  | silent =>
    simp only [Gate.leaving]
    split
    · exact moves
    · exact waits

theorem Gate.committed_inService {kind : GateKind} {wd rd : Nat} {w : Warning} {v : Nat} (serves : x.inService = true)
    (sound : x.Sound kind) : (x.committed kind wd rd w v).inService = true := by
  have moves (cs : Causes) : cs.moveState ≠ .outOfService := by
    obtain state | state := cs.moveState_underWay <;> simp [state]
  have clear (state : x.state ≠ .held) : x.causes.interlock = false := sound.noInterlock state
  have underWay (state : x.state = .moving ∨ x.state = .held) : (x.committed kind wd rd w v).inService = true := by
    by_cases arrived : v = x.command
    · rw [Gate.committed_arrived state arrived]
      simp only [Gate.inService, Gate.ended]
      repeat' split
      all_goals simp
    · rw [Gate.committed_underWay state arrived]
      simp [Gate.inService, moves]
  cases state : x.state with
  | recovering => simp [Gate.committed_recovering state, Gate.inService, state]
  | warning =>
    rw [Gate.committed_warning state]
    simp only [Gate.inService]
    split <;> simp
  | closed =>
    rw [Gate.committed_closed state (clear (by simp [state]))]
    simp only [Gate.inService, Gate.leaving, Causes.moveState_eq]
    repeat' split
    all_goals simp [moves]
  | settled =>
    rw [Gate.committed_settled state (clear (by simp [state])), Causes.moveState_eq]
    simp [Gate.inService, moves]
  | moving => exact underWay (.inl state)
  | held => exact underWay (.inr state)
  | outOfService => simp [Gate.inService, state] at serves
  | faulted => simp [Gate.committed, Gate.inService, state]

/-- A commit to a record that holds have changed leaves the committed record, changed by the same holds. -/
theorem Gate.OnlyHolds.committed (h : x.OnlyHolds y) {kind : GateKind} (sound : x.Sound kind) (wd rd : Nat)
    (w : Warning) (v : Nat) : (x.committed kind wd rd w v).OnlyHolds (y.committed kind wd rd w v) := by
  obtain rfl | ⟨inService, cs, interlock, mode, dam, rfl⟩ := h
  · exact .refl _
  have clear (state : x.state ≠ .held) : x.causes.interlock = false := sound.noInterlock state
  have serves : (x.committed kind wd rd w v).inService = true := Gate.committed_inService inService sound
  have rests (moving : x.state ≠ .moving) (held : x.state ≠ .held) : x.withCauses cs = { x with causes := cs } :=
    Gate.withCauses_resting moving held cs
  have underWay (state : x.state = .moving ∨ x.state = .held) :
      (x.committed kind wd rd w v).OnlyHolds ((x.withCauses cs).committed kind wd rd w v) := by
    have same : x.withCauses cs = { x with causes := cs, state := cs.moveState } := Gate.withCauses_underWay state cs
    by_cases arrived : v = x.command
    · rw [Gate.committed_arrived state arrived] at serves ⊢
      rw [same, Gate.committed_arrived cs.moveState_underWay (by exact arrived)]
      refine .inr ⟨serves, { cs with interlock := false }, rfl, mode, dam, ?_⟩
      have stops (n : Nat) : (({ x with target := v } : Gate).ended kind n).state ≠ .moving ∧
          (({ x with target := v } : Gate).ended kind n).state ≠ .held := by
        unfold Gate.ended
        dsimp only
        repeat' split
        all_goals simp
      rw [Gate.withCauses_resting (stops rd).1 (stops rd).2]
      rfl
    · rw [Gate.committed_underWay state arrived] at serves ⊢
      rw [same, Gate.committed_underWay cs.moveState_underWay (by exact arrived)]
      refine .inr ⟨serves, { cs with interlock := false }, rfl, mode, dam, ?_⟩
      rw [Gate.moves_withCauses]
  cases state : x.state with
  | recovering =>
    rw [Gate.committed_recovering state] at serves
    rw [rests (by simp [state]) (by simp [state]), Gate.committed_recovering state,
      Gate.committed_recovering (x := { x with causes := cs }) state]
    refine .inr ⟨serves, cs, interlock, mode, dam, ?_⟩
    rw [Gate.withCauses_resting (by simp [state]) (by simp [state])]
  | warning =>
    rw [Gate.committed_warning state] at serves
    rw [rests (by simp [state]) (by simp [state]), Gate.committed_warning state,
      Gate.committed_warning (x := { x with causes := cs }) state]
    refine .inr ⟨serves, cs, interlock, mode, dam, ?_⟩
    rw [Gate.withCauses_resting]
    · dsimp only
      split <;> simp
    · dsimp only
      split <;> simp
  | closed =>
    have free := clear (by simp [state])
    rw [Gate.committed_closed state free] at serves
    rw [rests (by simp [state]) (by simp [state]), Gate.committed_closed state free,
      Gate.committed_closed (x := { x with causes := cs }) state (interlock.trans free)]
    exact .inr ⟨serves, cs, interlock, mode, dam, (x.leaving_withCauses cs v w wd).symm⟩
  | settled =>
    have free := clear (by simp [state])
    rw [Gate.committed_settled state free] at serves
    rw [rests (by simp [state]) (by simp [state]), Gate.committed_settled state free,
      Gate.committed_settled (x := { x with causes := cs }) state (interlock.trans free)]
    refine .inr ⟨serves, cs, interlock, mode, dam, ?_⟩
    rw [Causes.moveState_eq, Causes.moveState_eq]
    exact (x.moves_withCauses cs x.causes v).symm
  | moving => exact underWay (.inl state)
  | held => exact underWay (.inr state)
  | outOfService => simp [Gate.inService, state] at inService
  | faulted =>
    have untouched (z : Gate) (state : z.state = .faulted) : z.committed kind wd rd w v = z := by
      simp [Gate.committed, state]
    rw [rests (by simp [state]) (by simp [state]), untouched _ state, untouched _ (by exact state)]
    exact .inr ⟨inService, cs, interlock, mode, dam, (rests (by simp [state]) (by simp [state])).symm⟩

end Records

end Sys2Proof.Machine
end

section
/-! The item commit of the claims as a relation between gate and dam records, the commits of the model as instances of
it, and what links do beforehand. -/

namespace Sys2Proof.Machine

/-- The records of the gates and of the dams. -/
abbrev Records := Vector Gate 48 × Vector Dam 6

/-- Every flood gate of dam d is CLOSED or OUT_OF_SERVICE (R23), among gate records. -/
def ShutIn (c : Tables) (gates : Vector Gate 48) (d : DamId) : Prop :=
  ∀ g, (c.gates.get g).kind = .flood → (c.gates.get g).inDam d = true →
    (gates.get g).state = .closed ∨ (gates.get g).state = .outOfService

theorem allShut_eq_shutIn (c : Tables) (p : Dyn) (d : DamId) : AllShut c p d = ShutIn c p.gates d := rfl

/-- Every gate record agrees with its state. -/
def SoundIn (c : Tables) (gates : Vector Gate 48) : Prop := ∀ g, (gates.get g).Sound (c.gates.get g).kind

/-- Every gate in WARNING stands at a dam whose warning is SOUNDING. -/
def WarnedIn (c : Tables) (x : Records) : Prop :=
  ∀ g d, (c.gates.get g).inDam d = true → (x.1.get g).state = .warning → (x.2.get d).warning = .sounding

/-- The record of gate g of dam d after a commit to opening v (Table 3-3). -/
def committedGate (c : Tables) (g : GateId) (d : DamId) (v : Nat) (x : Records) : Gate :=
  (x.1.get g).committed (c.gates.get g).kind (c.dams.get d).warningDwell.toNat (c.dams.get d).recoveryDwell.toNat
    (x.2.get d).warning v

/-- Gate g of dam d has been committed to opening v (R60 to R64, R20, R23). -/
structure ItemCommitted (c : Tables) (g : GateId) (d : DamId) (v : Nat) (x r : Records) : Prop where
  gates : r.1 = Table.put x.1 g (committedGate c g d v x)
  dam : Dam.committed (x.2.get d) (x.1.get g).state (committedGate c g d v x).state (c.dams.get d).warningDwell.toNat
    (ShutIn c r.1 d) (r.2.get d)
  elsewhere : ∀ e, e ≠ d → r.2.get e = x.2.get e

/-- Holds alone lead from some gate and dam records to others. -/
structure HeldFrom (x y : Records) : Prop where
  gates : ∀ g, (x.1.get g).OnlyHolds (y.1.get g)
  dams : ∀ d, (x.2.get d).sameButHold (y.2.get d)

section Pairs

variable {c : Tables} {g : GateId} {d : DamId} {v : Nat} {x x' r r' : Records}

theorem ItemCommitted.unique (h : ItemCommitted c g d v x r) (h' : ItemCommitted c g d v x r') : r = r' := by
  have gates : r.1 = r'.1 := h.gates.trans h'.gates.symm
  refine Prod.ext gates (vector_ext_get fun e => ?_)
  by_cases here : e = d
  · have dam := h'.dam
    rw [← gates] at dam
    rw [here]
    exact Dam.committed_unique h.dam dam
  · rw [h.elsewhere e here, h'.elsewhere e here]

theorem itemCommitted_same {d : DamId} (own : (c.gates.get g).inDam d = true) (same : v = (x.1.get g).target) :
    itemCommitted c x (g, v) = x := by
  simp [itemCommitted, dam?_of_inDam own, same]

theorem itemCommitted_spec (own : (c.gates.get g).inDam d = true) (change : v ≠ (x.1.get g).target) :
    ItemCommitted c g d v x (itemCommitted c x (g, v)) := by
  have gates : (itemCommitted c x (g, v)).1 = Table.put x.1 g (committedGate c g d v x) := by
    simp [itemCommitted, dam?_of_inDam own, change, committedGate]
  have shut : ((List.finRange 48).all fun i =>
      (c.gates.get i).kind == .wicket || !(c.gates.get i).inDam d ||
        ((Table.put x.1 g (committedGate c g d v x)).get i).state == .closed ||
          ((Table.put x.1 g (committedGate c g d v x)).get i).state == .outOfService) = true ↔
      ShutIn c (itemCommitted c x (g, v)).1 d := by
    rw [gates, List.all_eq_true]
    unfold ShutIn
    refine forall_congr' fun i => ?_
    simp only [List.mem_finRange, forall_const, Bool.or_eq_true, beq_iff_eq, Bool.not_eq_true']
    cases (c.gates.get i).kind <;> cases (c.gates.get i).inDam d <;> simp
  refine ⟨gates, ?dam, fun e other => ?elsewhere⟩
  case elsewhere => simp [itemCommitted, dam?_of_inDam own, change, put_get_ite, other]
  case dam =>
    rw [← shut]
    simp only [itemCommitted, dam?_of_inDam own, change, if_false, put_get_ite, if_true]
    refine ⟨fun starts => if_pos starts, fun ends => ?_, fun no nor => (if_neg no).trans (if_neg nor)⟩
    exact (if_neg fun starts => ends.1 starts.1).trans (if_pos ends)

theorem shutIn_congr {gates gates' : Vector Gate 48} (h : ∀ i, (gates.get i).OnlyHolds (gates'.get i)) :
    ShutIn c gates' d ↔ ShutIn c gates d := by
  have closed (i : GateId) := (h i).state_iff (st := .closed) (by decide) (by decide)
  have out (i : GateId) := (h i).state_iff (st := .outOfService) (by decide) (by decide)
  simp only [ShutIn, closed, out]

/-- What holds have changed is committed to what holds have changed. -/
theorem ItemCommitted.held (h : ItemCommitted c g d v x r) (h' : ItemCommitted c g d v x' r') (sound : SoundIn c x.1)
    (start : HeldFrom x x') : HeldFrom r r' := by
  have dam : x'.2.get d = { x.2.get d with hold := (x'.2.get d).hold } := start.dams d
  have warning : (x'.2.get d).warning = (x.2.get d).warning := by rw [dam]
  have record : (committedGate c g d v x).OnlyHolds (committedGate c g d v x') := by
    unfold committedGate
    rw [warning]
    exact (start.gates g).committed (sound g) _ _ _ _
  have gates (i : GateId) : (r.1.get i).OnlyHolds (r'.1.get i) := by
    rw [h.gates, h'.gates, put_get_ite, put_get_ite]
    split
    · exact record
    · exact start.gates i
  refine ⟨gates, fun e => ?_⟩
  by_cases here : e = d
  · rw [here]
    exact Dam.committed_sameButHold h.dam h'.dam (start.dams d)
      ((start.gates g).state_iff (by decide) (by decide)) (record.state_iff (by decide) (by decide))
      (shutIn_congr gates)
  · rw [h.elsewhere e here, h'.elsewhere e here]
    exact start.dams e

theorem ItemCommitted.sound (h : ItemCommitted c g d v x r) (sound : SoundIn c x.1) (change : v ≠ (x.1.get g).target) :
    SoundIn c r.1 := by
  intro i
  rw [h.gates, put_get_ite]
  split
  case isTrue same =>
    rw [same]
    exact (sound g).committed change _ _ _
  case isFalse => exact sound i

/-- Only a flood gate that finds its dam's warning silent or sounding waits for it. -/
theorem Gate.committed_waits {x : Gate} {kind : GateKind} {wd rd v : Nat} {w : Warning} (sound : x.Sound kind)
    (waits : (x.committed kind wd rd w v).state = .warning) :
    x.state = .warning ∨ (x.state = .closed ∧ (w = .sounding ∨ (w = .silent ∧ wd ≠ 0))) := by
  have clear (state : x.state ≠ .held) : x.causes.interlock = false := sound.noInterlock state
  have moves (cs : Causes) : cs.moveState ≠ .warning := by
    obtain state | state := cs.moveState_underWay <;> simp [state]
  have underWay (state : x.state = .moving ∨ x.state = .held) : (x.committed kind wd rd w v).state ≠ .warning := by
    by_cases arrived : v = x.command
    · rw [Gate.committed_arrived state arrived]
      unfold Gate.ended
      dsimp only
      repeat' split
      all_goals simp
    · rw [Gate.committed_underWay state arrived]
      exact moves _
  cases state : x.state with
  | warning => exact .inl rfl
  | closed =>
    rw [Gate.committed_closed state (clear (by simp [state]))] at waits
    cases w with
    | sounded => exact absurd waits (by rw [Gate.leaving, Causes.moveState_eq]; exact moves _)
    | sounding => exact .inr ⟨rfl, .inl rfl⟩
    | silent =>
      refine .inr ⟨rfl, .inr ⟨rfl, fun zero => ?_⟩⟩
      simp only [Gate.leaving, zero, if_true, Causes.moveState_eq] at waits
      exact moves _ waits
  | recovering => simp [Gate.committed_recovering state, state] at waits
  | settled =>
    rw [Gate.committed_settled state (clear (by simp [state])), Causes.moveState_eq] at waits
    exact absurd waits (moves _)
  | moving => exact absurd waits (underWay (.inl state))
  | held => exact absurd waits (underWay (.inr state))
  | outOfService => simp [Gate.committed, state] at waits
  | faulted => simp [Gate.committed, state] at waits

/-- A dam at which a gate waits goes on sounding. -/
theorem ItemCommitted.warned (h : ItemCommitted c g d v x r) (own : (c.gates.get g).inDam d = true)
    (sound : SoundIn c x.1) (change : v ≠ (x.1.get g).target) (warned : WarnedIn c x) : WarnedIn c r := by
  obtain ⟨starts, -, stays⟩ := h.dam
  have soundThen := h.sound sound change
  intro i e here waits
  by_cases other : e = d
  swap
  · rw [h.elsewhere e other]
    refine warned i e here ?_
    rw [h.gates, put_get_ite] at waits
    split at waits
    case isTrue same => exact absurd (inDam_unique here (same ▸ own)) other
    case isFalse => exact waits
  subst other
  obtain ⟨flood, -⟩ := (soundThen i).warning waits
  have open' : ¬ ShutIn c r.1 e := by
    intro shut
    obtain closed | out := shut i flood here
    · simp [waits] at closed
    · simp [waits] at out
  have kept (silent : ¬((x.1.get g).state = .closed ∧ (x.2.get e).warning = .silent ∧
      (committedGate c g e v x).state ≠ .closed)) : r.2.get e = x.2.get e :=
    stays silent fun ends => open' ends.2.2
  rw [h.gates, put_get_ite] at waits
  split at waits
  case isTrue same =>
    obtain before | ⟨closed, sounding | ⟨silent, dwell⟩⟩ := Gate.committed_waits (sound g) waits
    · rw [kept (by simp [before])]
      exact warned g e own before
    · rw [kept (by simp [sounding])]
      exact sounding
    · rw [starts ⟨closed, silent, by simp [waits]⟩]
      simp [dwell]
  case isFalse =>
    have sounding := warned i e here waits
    rw [kept (by simp [sounding])]
    exact sounding

end Pairs

/-! ### The model's commits -/

section Model

variable {c : Tables} {g : GateId} {d : DamId} {v : Nat} {p : Dyn}

/-- The gate and dam records of a state. -/
def Dyn.records (p : Dyn) : Records := (p.gates, p.dams)

theorem commitTarget_itemCommitted (sound : SoundAt c p) (warned : WarnedIn c p.records)
    (own : (c.gates.get g).inDam d = true) (change : v ≠ (p.gates.get g).target) :
    ItemCommitted c g d v p.records (commitTarget c g v p).records := by
  have record : (commitTarget c g v p).gates.get g = committedGate c g d v p.records := by
    rw [commitTarget_get_self (sound.gate g) change]
    simp [committedGate, warningDwellOf, recoveryDwellOf, warningOf, dam?_of_inDam own, Dyn.records]
  have gates : (commitTarget c g v p).gates = Table.put p.gates g (committedGate c g d v p.records) := by
    refine vector_ext_get fun i => ?_
    rw [put_get_ite]
    split
    case isTrue same => rw [same, record]
    case isFalse other =>
      obtain same | ⟨-, silent, waits, ⟨e, dam, here⟩, -⟩ := commitTarget_get_other (c := c) (v := v) (p := p) other
      · exact same
      · have sounding := warned i e here waits
        simp only [warningOf, dam] at silent
        exact absurd (sounding.symm.trans silent) (by decide)
  have dam := commitTarget_dam (sound.gate g) change own
  rw [record] at dam
  exact ⟨gates, dam, fun e other => commitTarget_elsewhere own other⟩

/-- The records after a commit are those that the claims give (log entry 43). -/
theorem commitTarget_records (sound : SoundAt c p) (warned : WarnedIn c p.records)
    (own : (c.gates.get g).inDam d = true) (change : v ≠ (p.gates.get g).target) :
    (commitTarget c g v p).records = itemCommitted c p.records (g, v) :=
  (commitTarget_itemCommitted sound warned own change).unique (itemCommitted_spec own change)

theorem warnedIn_of_floodGatesWarned {s : State} (sound : GatesSound s) (warned : FloodGatesWarned s) :
    WarnedIn s.tables s.dyn.records := by
  intro g d here waits
  obtain ⟨flood, -⟩ := (sound.2 g).warning waits
  exact (warned g d flood here (Gate.inService_of_state waits (by decide))).2.2 waits

theorem HeldFrom.warnedIn {x y : Records} (h : HeldFrom x y) (warned : WarnedIn c x) :
    WarnedIn c y := by
  intro g d here waits
  have dam : y.2.get d = { x.2.get d with hold := (y.2.get d).hold } := h.dams d
  rw [dam]
  exact warned g d here (((h.gates g).state_iff (by decide) (by decide)).mp waits)

theorem HeldFrom.trans {x y z : Records} (h1 : HeldFrom x y) (h2 : HeldFrom y z) :
    HeldFrom x z := by
  refine ⟨fun g => (h1.gates g).trans (h2.gates g), fun d => ?_⟩
  have first : y.2.get d = { x.2.get d with hold := (y.2.get d).hold } := h1.dams d
  have second : z.2.get d = { y.2.get d with hold := (z.2.get d).hold } := h2.dams d
  rw [Dam.sameButHold, second, first]

/-- Links lead from records to records by holds alone. -/
theorem LinkFrame.heldFrom {p q : Dyn} (h : LinkFrame p q) : HeldFrom p.records q.records :=
  ⟨h.gates, fun d => Dam.sameButHold_of_hold (h.dams d)⟩

end Model

end Sys2Proof.Machine
end

section
/-! Admissions that pass (R33 to R37): the totals, the EXCEEDED flags, and no event where the flags agreed with the
bounds. -/

namespace Sys2Proof.Machine

section Bounds

variable {c : Tables} {reaches : Vector Reach 6} {a b : Vector Word 6} {r : ReachId}

/-- A bound that held before holds after an admission that passes. -/
theorem Violated.before (passes : admissionCheck c reaches a b = none) {k : Bound} (after : Violated c b reaches r k) :
    Violated c a reaches r k := by
  have stays := admissionCheck_eq_none.mp passes k r
  obtain ⟨force, breaks⟩ : k.inForce c.lastDam r = true ∧
      (!k.holds (k.expression b r) (k.limit (c.reaches.get r) (reaches.get r))) = true := by
    simpa [boundBroken] using (boundBroken_iff k).mpr after
  rw [boundFails, force, breaks, Bool.true_and, Bool.and_true] at stays
  rw [← boundBroken_iff, boundBroken, force, Bool.true_and]
  cases k <;>
  · simp only [Bound.movedToward, Bound.holds, decide_eq_false_iff_not, Bool.not_eq_true', not_lt, not_le] at *
    omega

theorem firstViolated_passes (passes : admissionCheck c reaches a b = none)
    (before : firstViolated c a reaches r = none) : firstViolated c b reaches r = none := by
  rw [firstViolated_eq_none_iff] at before ⊢
  exact fun k after => before k (after.before passes)

theorem firstViolated_limits {reaches' : Vector Reach 6} (t : Vector Word 6)
    (same : ∃ x, reaches'.get r = { reaches.get r with exceeded := x }) :
    firstViolated c t reaches' r = firstViolated c t reaches r := by
  obtain ⟨x, same⟩ := same
  have limits (k : Bound) : k.limit (c.reaches.get r) (reaches'.get r) = k.limit (c.reaches.get r) (reaches.get r) := by
    rw [same]
    cases k <;> rfl
  simp only [firstViolated, limits]

/-- The bounds of a reach that an admission does not touch are judged as before it. -/
theorem firstViolated_untouched (outside : r ∉ reachesTouched c a b) :
    firstViolated c b reaches r = firstViolated c a reaches r := by
  have same (k : Bound) (force : k.inForce c.lastDam r = true) : k.expression b r = k.expression a r := by
    have within : r.val ≤ c.lastDam.val := by
      cases k <;> simp only [Bound.inForce, decide_eq_true_eq] at force <;> omega
    have here : a.get r = b.get r ∧ (r.val < c.lastDam.val → a.get (damBelow r) = b.get (damBelow r)) := by
      have touched := outside
      simp only [reachesTouched, List.mem_filter, List.mem_finRange, true_and, within, decide_true, Bool.true_and,
        Bool.or_eq_true, Bool.and_eq_true, bne_iff_ne, ne_eq, decide_eq_true_eq, not_or, not_and, not_not] at touched
      exact touched
    obtain ⟨own, below⟩ := here
    cases k with
    | ceiling => simp [Bound.expression, totalOf, own]
    | floor => simp [Bound.expression, totalOf, own]
    | surplus => simp [Bound.expression, totalOf, own, below (by simpa [Bound.inForce] using force)]
    | draw => simp [Bound.expression, totalOf, own, below (by simpa [Bound.inForce] using force)]
  have broken : boundBroken c b reaches r = boundBroken c a reaches r := by
    funext k
    unfold boundBroken
    cases force : k.inForce c.lastDam r with
    | false => simp
    | true => rw [same k force]
  rw [firstViolated_eq, firstViolated_eq, broken]

end Bounds

/-! ### What an admission makes -/

/-- Nothing but totals, reaches and marks differs. -/
structure Unstirred (p q : Dyn) : Prop where
  gates : q.gates = p.gates
  dams : q.dams = p.dams
  queue : q.queue = p.queue
  around : q.around = p.around

section Unstirred

variable {c : Tables} {p q r : Dyn}

theorem Unstirred.refl (p : Dyn) : Unstirred p p := ⟨rfl, rfl, rfl, rfl⟩

theorem Unstirred.trans (h1 : Unstirred p q) (h2 : Unstirred q r) : Unstirred p r :=
  ⟨h2.gates.trans h1.gates, h2.dams.trans h1.dams, h2.queue.trans h1.queue, h2.around.trans h1.around⟩

theorem Unstirred.foldl {α : Type} {f : Dyn → α → Dyn} (h : ∀ p x, Unstirred p (f p x)) (l : List α) (p : Dyn) :
    Unstirred p (l.foldl f p) := by
  induction l generalizing p with
  | nil => exact .refl p
  | cons x l ih => exact (h p x).trans (ih _)

theorem markReach_unstirred (d : ReachId) (p : Dyn) : Unstirred p (markReach d p) := ⟨rfl, rfl, rfl, rfl⟩

/-- A re-evaluation that finds no bound newly violated raises nothing. -/
theorem reevaluate_unstirred {d : ReachId}
    (kept : (p.reaches.get d).exceeded = false → firstViolated c p.totals p.reaches d = none) :
    Unstirred p (reevaluate c d p) := by
  unfold reevaluate
  dsimp only
  split
  case h_1 violated clear => exact absurd (violated.symm.trans (kept clear)) (by simp)
  case h_2 => exact ⟨rfl, rfl, rfl, rfl⟩
  case h_3 => exact .refl p
  case h_4 => exact .refl p

theorem reevaluateAll_unstirred {ds : List ReachId}
    (kept : ∀ d, (p.reaches.get d).exceeded = false → firstViolated c p.totals p.reaches d = none) :
    Unstirred p (reevaluateAll c ds p) := by
  induction ds generalizing p with
  | nil => exact .refl p
  | cons d ds ih =>
    rw [reevaluateAll_cons]
    refine (reevaluate_unstirred (kept d)).trans (ih fun e clear => ?_)
    rw [firstViolated_frame c (reevaluate_frame c d p)]
    rw [reevaluate_reaches] at clear
    by_cases same : e = d
    · simpa [same] using clear
    · exact kept e (by simpa [same] using clear)

end Unstirred

/-- An admission of changes that leave totals `final` has made q of p. -/
structure Admitted (c : Tables) (final : Vector Word 6) (p q : Dyn) : Prop where
  linked : Linked c { p with totals := final } q
  growth : LinkGrowth c { p with totals := final } q
  reaches : ∀ r, q.reaches.get r =
    { p.reaches.get r with
      exceeded :=
        if r ∈ reachesTouched c p.totals final then (firstViolated c final p.reaches r).isSome
        else (p.reaches.get r).exceeded }
  noted : BoundsNoted c p q
  quiet : (∀ r, (p.reaches.get r).exceeded = (firstViolated c p.totals p.reaches r).isSome) → Unstirred p q

section Admission

variable {c : Tables} {changes : List (DamId × Nat × Nat)} {p q : Dyn}

theorem marksOfTouched_rivers (sel : DamId → Bool) (l : List DamId) (p : Dyn) :
    (l.foldl (fun q d => if sel d then markReach d q else q) p).rivers = p.rivers := by
  induction l generalizing p with
  | nil => rfl
  | cons d l ih =>
    rw [List.foldl_cons, ih]
    split <;> rfl

theorem admission_passes (passes : admissionCheck c p.reaches p.totals (finalTotals changes p.totals) = none) :
    ∃ q, admission c changes p = .ok q ∧ Admitted c (finalTotals changes p.totals) p q := by
  have ok : admission c changes p = .ok
      ((List.finRange 6).foldl
        (fun q d => if p.totals.get d != (finalTotals changes p.totals).get d then markReach d q else q)
        (reevaluateAll c (reachesTouched c p.totals (finalTotals changes p.totals))
          { p with totals := finalTotals changes p.totals })) := by
    unfold admission
    dsimp only
    rw [← finalTotals, passes]
  refine ⟨_, ok, (admission_linked ok).2, admission_growth ok, fun r => ?reaches, ?noted, fun agrees => ?quiet⟩
  all_goals
    have marked := marksOfTouched_rivers (fun d => p.totals.get d != (finalTotals changes p.totals).get d)
      (List.finRange 6) (reevaluateAll c (reachesTouched c p.totals (finalTotals changes p.totals))
          { p with totals := finalTotals changes p.totals })
  case reaches =>
    rw [(rivers_fields marked).2, reevaluateAll_reaches]
  case noted =>
    exact ((reevaluateAll_noted c _ _).later (marksOfTouched_growth c _ _ _).course marked).earlier
      (totals_course c (finalTotals changes p.totals) p) fun _ => rfl
  case quiet =>
    have start : Unstirred p { p with totals := finalTotals changes p.totals } := ⟨rfl, rfl, rfl, rfl⟩
    refine (start.trans (reevaluateAll_unstirred fun d clear => ?_)).trans (Unstirred.foldl (fun p d => ?_) _ _)
    · exact firstViolated_passes passes (by simpa [agrees d] using clear)
    · split
      · exact markReach_unstirred d p
      · exact .refl p

/-- The records of a state before an admission and after it. -/
theorem Admitted.heldFrom {final : Vector Word 6} (h : Admitted c final p q) : HeldFrom p.records q.records :=
  h.growth.frame.heldFrom

theorem Admitted.totals {final : Vector Word 6} (h : Admitted c final p q) : q.totals = final := h.growth.frame.totals

theorem Admitted.course {final : Vector Word 6} (h : Admitted c final p q) : Course c p q :=
  (totals_course c final p).trans h.growth.course

theorem Admitted.soundAt {final : Vector Word 6} (h : Admitted c final p q) (sound : SoundAt c p) : SoundAt c q :=
  h.linked.soundAt (sound.of_eq rfl rfl rfl)

/-- EXCEEDED agrees with the bounds after an admission, where it did before. -/
theorem Admitted.exceeded {final : Vector Word 6} (h : Admitted c final p q)
    (agrees : ∀ r, (p.reaches.get r).exceeded = (firstViolated c p.totals p.reaches r).isSome) (r : ReachId) :
    q.reaches.get r = { p.reaches.get r with exceeded := (firstViolated c q.totals q.reaches r).isSome } := by
  have moved := h.reaches r
  rw [firstViolated_limits q.totals ⟨_, moved⟩, h.totals, moved]
  split
  · rfl
  case isFalse outside => rw [agrees r, firstViolated_untouched outside]

end Admission

end Sys2Proof.Machine
end

section
/-! The commits of an admitted batch (R35, R60 to R64, R100): the records that they leave, the queue, and what they
leave of a gate's order. -/

namespace Sys2Proof.Machine

/-! ### The queue after a commit -/

section Queue

variable {c : Tables} {g : GateId} {v : Nat} {p : Dyn}

theorem QueueOk.dwellEnds_queue (ok : QueueOk p) (c : Tables) (d : DamId) :
    (Machine.dwellEnds c d p).queue = p.queue := by
  rw [Machine.dwellEnds, releaseWarning_queue, setWarning_queue, setWarning_gates, List.filter_eq_self]
  intro h queued
  simp [ok.moving h queued]

theorem soundForOrder_queue (ok : QueueOk p) (outside : g ∉ p.queue) (d : DamId) :
    (soundForOrder c g d p).queue = p.queue := by
  have put (x : Gate) : (putGate g x p).queue = p.queue := putGate_queue_outside outside
  unfold soundForOrder
  dsimp only
  split
  case h_1 => exact put _
  case h_2 => exact put _
  case h_3 =>
    split
    · exact (((ok.put g _).setWarning d _ _).dwellEnds_queue c d).trans ((setWarning_queue _ _ _ _).trans (put _))
    · exact (setWarning_queue _ _ _ _).trans (put _)

/-- The queue after a commit, with the gate taken out where it is not MOVING. -/
theorem commitTarget_queue_cases (sound : SoundAt c p) : (commitTarget c g v p).queue = p.queue ∨
    ((commitTarget c g v p).queue = p.queue.filter (· != g) ∧ ((commitTarget c g v p).gates.get g).state ≠ .moving) := by
  have puts (x : Gate) : (putGate g x p).queue = p.queue ∨
      ((putGate g x p).queue = p.queue.filter (· != g) ∧ ((putGate g x p).gates.get g).state ≠ .moving) := by
    rw [putGate_queue, putGate_get, if_pos rfl]
    split
    case isTrue => exact .inl rfl
    case isFalse rests => exact .inr ⟨rfl, rests⟩
  have settles (x : Gate) (arrived : x.target = x.command) : (settle c g (putGate g x p)).queue = p.queue ∨
      ((settle c g (putGate g x p)).queue = p.queue.filter (· != g) ∧
        ((settle c g (putGate g x p)).gates.get g).state ≠ .moving) := by
    refine .inr ⟨?_, ?_⟩
    · rw [settle_queue, putGate_queue]
      split
      · rfl
      · exact filter_ne_idem _ _
    · rw [settle_get c (by rw [putGate_get, if_pos rfl]; exact arrived), if_pos rfl]
      unfold Gate.ended
      dsimp only
      repeat' split
      all_goals simp
  unfold commitTarget
  dsimp only
  cases state : (p.gates.get g).state <;> dsimp only
  case recovering => exact puts _
  case warning =>
    split
    · rw [silenceCheckOf_queue, silenceCheckOf_gates]
      exact puts _
    · exact puts _
  case closed =>
    have outside : g ∉ p.queue := sound.not_queued (by simp [state])
    split
    case isTrue arrived => exact settles _ arrived
    case isFalse =>
      split
      · have put (x : Gate) : (putGate g x p).queue = p.queue := putGate_queue_outside outside
        refine .inl ((soundForOrder_queue (sound.queue.put g _) ?_ _).trans (put _))
        rw [put]
        exact outside
      · exact puts _
  case settled | moving | held =>
    split
    case isTrue arrived => exact settles _ arrived
    case isFalse => exact puts _
  case outOfService | faulted => exact .inl rfl

/-- A commit takes out of the queue the gates that it leaves not MOVING. -/
theorem commitTarget_queue (sound : SoundAt c p) (change : v ≠ (p.gates.get g).target) :
    (commitTarget c g v p).queue =
      p.queue.filter fun h => ((commitTarget c g v p).gates.get h).state == .moving := by
  have moving := (sound.commitTarget change).queue.moving
  obtain same | ⟨gone, rests⟩ := commitTarget_queue_cases (g := g) (v := v) sound
  · refine same.trans (List.filter_eq_self.mpr fun h queued => ?_).symm
    simpa using moving h (same ▸ queued)
  · rw [gone]
    refine List.filter_congr fun h queued => ?_
    by_cases here : h = g
    · simp [here, rests]
    · have stays : h ∈ (commitTarget c g v p).queue := by
        rw [gone, List.mem_filter]
        simpa [queued] using here
      simp [here, moving h stays]

end Queue

/-! ### The fields of a record that a commit leaves -/

/-- An order that leaves all of a record but the target, the state and the causes. -/
def Gate.sameBeside (x y : Gate) : Prop :=
  y.command = x.command ∧ y.feedback = x.feedback ∧ y.feedbackKnown = x.feedbackKnown ∧ y.awaiting = x.awaiting ∧
    y.lastGrant = x.lastGrant ∧ y.faultCause = x.faultCause ∧ y.lastRefusal = x.lastRefusal

theorem Gate.sameBeside_refl (x : Gate) : x.sameBeside x := ⟨rfl, rfl, rfl, rfl, rfl, rfl, rfl⟩

theorem Gate.sameBeside_trans {x y z : Gate} (h1 : x.sameBeside y) (h2 : y.sameBeside z) : x.sameBeside z := by
  unfold Gate.sameBeside at *
  simp only [h2, h1, and_self]

theorem Gate.OnlyHolds.sameBeside {x y : Gate} (h : x.OnlyHolds y) : x.sameBeside y := by
  obtain rfl | ⟨-, cs, -, -, -, rfl⟩ := h
  · exact Gate.sameBeside_refl _
  · rw [Gate.withCauses_eq]
    exact Gate.sameBeside_refl _

theorem Gate.committed_sameBeside (x : Gate) (kind : GateKind) (wd rd : Nat) (w : Warning) (v : Nat) :
    x.sameBeside (x.committed kind wd rd w v) := by
  unfold Gate.committed
  dsimp only
  split
  case h_5 | h_6 => split <;> exact x.sameBeside_refl
  all_goals exact x.sameBeside_refl

theorem Gate.committed_target {x : Gate} (takes : x.Takes) (kind : GateKind) (wd rd : Nat) (w : Warning) (v : Nat) :
    (x.committed kind wd rd w v).target = v := by
  obtain ⟨inService, sound⟩ := takes
  unfold Gate.committed
  dsimp only
  split
  case h_5 | h_6 => split <;> rfl
  case h_7 state => exact absurd state inService
  case h_8 state => exact absurd state sound
  all_goals rfl

theorem Gate.OnlyHolds.target {x y : Gate} (h : x.OnlyHolds y) : y.target = x.target := (Gate.sameOrder_holds h).1

theorem Dam.committed_rewarned {x y : Dam} {a b : GateState} {n : Nat} {shut : Prop}
    (h : Dam.committed x a b n shut y) : x.RewarnedFrom y := by
  obtain ⟨starts, ends, stays⟩ := h
  by_cases first : a = .closed ∧ x.warning = .silent ∧ b ≠ .closed
  · rw [starts first]
    rfl
  by_cases second : a ≠ .closed ∧ b = .closed ∧ shut
  · rw [ends second]
    rfl
  · rw [stays first second]
    exact .refl x

/-! ### The batch of the claims -/

/-- Each item's gate has a dam. -/
def Owned (c : Tables) (items : List Item) : Prop := ∀ e ∈ items, ∃ d, (c.gates.get e.1).inDam d = true

section Batch

variable {c : Tables} {x x' : Records} {items : List Item} {e : Item}

/-- An item changes nothing, or it is committed. -/
theorem itemCommitted_cases (owned : ∃ d, (c.gates.get e.1).inDam d = true) :
    (e.2 = (x.1.get e.1).target ∧ itemCommitted c x e = x) ∨
      (e.2 ≠ (x.1.get e.1).target ∧ ∃ d, (c.gates.get e.1).inDam d = true ∧
        ItemCommitted c e.1 d e.2 x (itemCommitted c x e)) := by
  obtain ⟨d, own⟩ := owned
  by_cases same : e.2 = (x.1.get e.1).target
  · exact .inl ⟨same, itemCommitted_same own same⟩
  · exact .inr ⟨same, d, own, itemCommitted_spec own same⟩

theorem itemCommitted_get (owned : ∃ d, (c.gates.get e.1).inDam d = true) {g : GateId}
    (same : g = e.1 → e.2 = (x.1.get e.1).target) : (itemCommitted c x e).1.get g = x.1.get g := by
  obtain ⟨-, stays⟩ | ⟨change, d, -, committed⟩ := itemCommitted_cases (x := x) owned
  · rw [stays]
  · rw [committed.gates, put_get_ite, if_neg fun here => change (same here)]

theorem itemCommitted_sound (owned : ∃ d, (c.gates.get e.1).inDam d = true) (sound : SoundIn c x.1) :
    SoundIn c (itemCommitted c x e).1 := by
  obtain ⟨-, stays⟩ | ⟨change, d, -, committed⟩ := itemCommitted_cases (x := x) owned
  · rwa [stays]
  · exact committed.sound sound change

theorem itemCommitted_held (owned : ∃ d, (c.gates.get e.1).inDam d = true) (sound : SoundIn c x.1)
    (start : HeldFrom x x') : HeldFrom (itemCommitted c x e) (itemCommitted c x' e) := by
  obtain ⟨d, own⟩ := owned
  have target := (start.gates e.1).target
  by_cases same : e.2 = (x.1.get e.1).target
  · rw [itemCommitted_same own same, itemCommitted_same own (same.trans target.symm)]
    exact start
  · exact (itemCommitted_spec own same).held (itemCommitted_spec own fun h => same (h.trans target)) sound start

theorem itemCommitted_sameBeside (owned : ∃ d, (c.gates.get e.1).inDam d = true) (g : GateId) :
    (x.1.get g).sameBeside ((itemCommitted c x e).1.get g) := by
  obtain ⟨-, stays⟩ | ⟨-, d, -, committed⟩ := itemCommitted_cases (x := x) owned
  · rw [stays]
    exact Gate.sameBeside_refl _
  · rw [committed.gates, put_get_ite]
    split
    case isTrue here =>
      rw [here]
      exact Gate.committed_sameBeside _ _ _ _ _ _
    case isFalse => exact Gate.sameBeside_refl _

theorem itemCommitted_inService (owned : ∃ d, (c.gates.get e.1).inDam d = true) (sound : SoundIn c x.1) {g : GateId}
    (serves : (x.1.get g).inService = true) : ((itemCommitted c x e).1.get g).inService = true := by
  obtain ⟨-, stays⟩ | ⟨-, d, -, committed⟩ := itemCommitted_cases (x := x) owned
  · rwa [stays]
  · rw [committed.gates, put_get_ite]
    split
    case isTrue here =>
      rw [here] at serves
      exact Gate.committed_inService serves (sound e.1)
    case isFalse => exact serves

theorem itemCommitted_rewarned (owned : ∃ d, (c.gates.get e.1).inDam d = true) (d : DamId) :
    (x.2.get d).RewarnedFrom ((itemCommitted c x e).2.get d) := by
  obtain ⟨-, stays⟩ | ⟨-, b, -, committed⟩ := itemCommitted_cases (x := x) owned
  · rw [stays]
    exact .refl _
  · by_cases here : d = b
    · rw [here]
      exact Dam.committed_rewarned committed.dam
    · rw [committed.elsewhere d here]
      exact .refl _

theorem itemCommitted_target (owned : ∃ d, (c.gates.get e.1).inDam d = true) (takes : (x.1.get e.1).Takes) :
    ((itemCommitted c x e).1.get e.1).target = e.2 := by
  obtain ⟨same, stays⟩ | ⟨-, d, -, committed⟩ := itemCommitted_cases (x := x) owned
  · rw [stays, same]
  · rw [committed.gates, put_get_ite, if_pos rfl]
    exact Gate.committed_target takes _ _ _ _ _

/-! The fold over the items. -/

theorem Owned.tail {items : List Item} (h : Owned c (e :: items)) : Owned c items :=
  fun e he => h e (List.mem_cons_of_mem _ he)

theorem Owned.head {items : List Item} (h : Owned c (e :: items)) : ∃ d, (c.gates.get e.1).inDam d = true :=
  h e List.mem_cons_self

theorem batch_get {g : GateId} : {items : List Item} → {x : Records} → Owned c items →
    (∀ e ∈ items, e.1 = g → e.2 = (x.1.get g).target) → (items.foldl (itemCommitted c) x).1.get g = x.1.get g
  | [], _, _, _ => rfl
  | e :: items, x, owned, same => by
    have first : (itemCommitted c x e).1.get g = x.1.get g :=
      itemCommitted_get owned.head fun here => here ▸ same e List.mem_cons_self here.symm
    rw [List.foldl_cons, batch_get owned.tail, first]
    rw [first]
    exact fun i listed => same i (List.mem_cons_of_mem _ listed)

theorem batch_sound (owned : Owned c items) (sound : SoundIn c x.1) : SoundIn c (items.foldl (itemCommitted c) x).1 :=
  List.foldlRecOn (motive := fun (x : Records) => SoundIn c x.1) items _ sound fun _ sound e listed =>
    itemCommitted_sound (owned e listed) sound

theorem batch_held : {items : List Item} → {x x' : Records} → Owned c items → SoundIn c x.1 →
    HeldFrom x x' → HeldFrom (items.foldl (itemCommitted c) x) (items.foldl (itemCommitted c) x')
  | [], _, _, _, _, start => start
  | _ :: items, _, _, owned, sound, start =>
    batch_held (items := items) owned.tail (itemCommitted_sound owned.head sound)
      (itemCommitted_held owned.head sound start)

theorem batch_sameBeside (owned : Owned c items) (g : GateId) :
    (x.1.get g).sameBeside ((items.foldl (itemCommitted c) x).1.get g) :=
  List.foldlRecOn (motive := fun (r : Records) => (x.1.get g).sameBeside (r.1.get g)) items _
    (Gate.sameBeside_refl _)
    fun _ before e listed => Gate.sameBeside_trans before (itemCommitted_sameBeside (owned e listed) g)

theorem batch_rewarned (owned : Owned c items) (d : DamId) :
    (x.2.get d).RewarnedFrom ((items.foldl (itemCommitted c) x).2.get d) :=
  List.foldlRecOn (motive := fun (r : Records) => (x.2.get d).RewarnedFrom (r.2.get d)) items _ (.refl _)
    fun _ before e listed => before.trans (itemCommitted_rewarned (owned e listed) d)

theorem batch_inService (owned : Owned c items) (sound : SoundIn c x.1) {g : GateId}
    (serves : (x.1.get g).inService = true) : ((items.foldl (itemCommitted c) x).1.get g).inService = true := by
  refine (List.foldlRecOn (motive := fun (r : Records) => SoundIn c r.1 ∧ (r.1.get g).inService = true) items _
    ⟨sound, serves⟩ fun r before e listed => ?_).2
  exact ⟨itemCommitted_sound (owned e listed) before.1, itemCommitted_inService (owned e listed) before.1 before.2⟩

theorem batch_target : {items : List Item} → {x : Records} → Owned c items →
    (items.map (·.1)).Nodup → (∀ e ∈ items, (x.1.get e.1).Takes) →
    ∀ e ∈ items, ((items.foldl (itemCommitted c) x).1.get e.1).target = e.2
  | [], _, _, _, _, _, listed => by cases listed
  | i :: items, x, owned, distinct, takes, e, listed => by
    rw [List.map_cons, List.nodup_cons] at distinct
    obtain ⟨new, distinct⟩ := distinct
    have others (j : Item) (later : j ∈ items) : j.1 ≠ i.1 := fun same =>
      new (List.mem_map.mpr ⟨j, later, same⟩)
    rw [List.foldl_cons]
    obtain rfl | later := List.mem_cons.mp listed
    · rw [batch_get owned.tail fun j later same => absurd same (others j later)]
      exact itemCommitted_target owned.head (takes e listed)
    · refine batch_target owned.tail distinct (fun j later => ?_) e later
      rw [itemCommitted_get owned.head fun same => absurd same (others j later)]
      exact takes j (List.mem_cons_of_mem _ later)

/-! ### The model's batch -/

theorem commitItems_records : {items : List Item} → {p : Dyn} → Owned c items → SoundAt c p → WarnedIn c p.records →
    (commitItems c items p).records = items.foldl (itemCommitted c) p.records
  | [], _, _, _, _ => rfl
  | e :: items, p, owned, sound, warned => by
    obtain ⟨d, own⟩ := owned.head
    rw [commitItems_cons, List.foldl_cons]
    by_cases same : e.2 = (p.gates.get e.1).target
    · rw [if_pos same, itemCommitted_same own same]
      exact commitItems_records owned.tail sound warned
    · have committed := commitTarget_itemCommitted sound warned own same
      rw [if_neg same, ← commitTarget_records sound warned own same]
      exact commitItems_records owned.tail (sound.commitTarget same)
        (committed.warned own (fun g => sound.gate g) same warned)

/-- The gates that a batch leaves not MOVING leave the queue, and no other. -/
theorem commitItems_queue : {items : List Item} → {p : Dyn} → Owned c items → (items.map (·.1)).Nodup → SoundAt c p →
    WarnedIn c p.records → (commitItems c items p).queue =
      p.queue.filter fun h => ((commitItems c items p).gates.get h).state == .moving
  | [], p, _, _, sound, _ => by
    refine (List.filter_eq_self.mpr fun h queued => ?_).symm
    show ((p.gates.get h).state == .moving) = true
    simpa using sound.queue.moving h queued
  | e :: items, p, owned, distinct, sound, warned => by
    obtain ⟨d, own⟩ := owned.head
    rw [List.map_cons, List.nodup_cons] at distinct
    obtain ⟨new, distinct⟩ := distinct
    rw [commitItems_cons]
    by_cases same : e.2 = (p.gates.get e.1).target
    · rw [if_pos same]
      exact commitItems_queue owned.tail distinct sound warned
    have committed := commitTarget_itemCommitted sound warned own same
    have soundThen := sound.commitTarget same
    have warnedThen := committed.warned own (fun g => sound.gate g) same warned
    have gates : (commitTarget c e.1 e.2 p).gates = Table.put p.gates e.1 (committedGate c e.1 d e.2 p.records) :=
      committed.gates
    rw [if_neg same, commitItems_queue owned.tail distinct soundThen warnedThen, commitTarget_queue sound same,
      List.filter_filter]
    refine List.filter_congr fun h queued => ?_
    by_cases here : h = e.1
    · have stays : (commitItems c items (commitTarget c e.1 e.2 p)).gates.get h =
          (commitTarget c e.1 e.2 p).gates.get h := by
        have records := congrArg Prod.fst (commitItems_records owned.tail soundThen warnedThen)
        show (commitItems c items (commitTarget c e.1 e.2 p)).records.1.get h = _
        rw [records]
        refine batch_get owned.tail fun i listed named => absurd ?_ new
        exact List.mem_map.mpr ⟨i, listed, named.trans here⟩
      rw [stays, Bool.and_self]
    · have moves : ((commitTarget c e.1 e.2 p).gates.get h).state = .moving := by
        rw [gates, put_get_ite, if_neg here]
        exact sound.queue.moving h queued
      simp [moves]

end Batch

end Sys2Proof.Machine
end

section
/-! An admitted batch, committed and scheduled: what is left of the gates, the dams and the queue, where nothing may join
and where no event is raised. -/

namespace Sys2Proof.Machine

/-- Gate g can join at no event of this tick, if it is or becomes MOVING (R75). -/
def Blocked (c : Tables) (p : Dyn) (g : GateId) : Prop :=
  p.mode ≠ .run ∨ (p.gates.get g).awaiting = true ∨ stepIntervalElapsed c p g = false

/-- Items that pass their checks have been admitted in a state p, which makes q, and committed, which makes u. -/
structure BatchMade (c : Tables) (items : List Item) (final : Vector Word 6) (p q u : Dyn) : Prop where
  sound : SoundAt c p
  warned : WarnedIn c p.records
  owned : Owned c items
  distinct : (items.map (·.1)).Nodup
  takes : ∀ e ∈ items, (p.gates.get e.1).Takes
  admitted : Admitted c final p q
  commits : u = commitItems c items q

namespace BatchMade

variable {c : Tables} {items : List Item} {final : Vector Word 6} {p q u : Dyn} (h : BatchMade c items final p q u)
include h

theorem soundIn : SoundIn c p.records.1 := h.sound.gate

theorem soundAdmitted : SoundAt c q := h.admitted.soundAt h.sound

theorem warnedAdmitted : WarnedIn c q.records := h.admitted.heldFrom.warnedIn h.warned

theorem soundAt : SoundAt c u := by
  rw [h.commits]
  exact h.soundAdmitted.commitItems items

theorem records : u.records = items.foldl (itemCommitted c) q.records := by
  rw [h.commits]
  exact commitItems_records h.owned h.soundAdmitted h.warnedAdmitted

/-- The records are those of the claims, but for the holds of links. -/
theorem held : HeldFrom (items.foldl (itemCommitted c) p.records) u.records := by
  rw [h.records]
  exact batch_held h.owned h.soundIn h.admitted.heldFrom

theorem around : u.around = q.around := by
  rw [h.commits, commitItems_around]

theorem rivers : u.rivers = q.rivers := by
  rw [h.commits, commitItems_rivers]

theorem course : Course c p u := h.admitted.course.trans (.of_around h.around)

theorem totals : u.totals = final := ((rivers_fields h.rivers).1).trans h.admitted.totals

theorem noted : BoundsNoted c p u := h.admitted.noted.later (.of_around h.around) h.rivers

theorem queue : u.queue.Sublist p.queue := by
  rw [h.commits]
  exact (commitItems_queue_sublist c items q).trans h.admitted.growth.frame.queue

theorem gate (g : GateId) : ((items.foldl (itemCommitted c) p.records).1.get g).OnlyHolds (u.gates.get g) :=
  h.held.gates g

theorem target {e : Item} (listed : e ∈ items) : (u.gates.get e.1).target = e.2 := by
  rw [(h.gate e.1).target]
  exact batch_target h.owned h.distinct h.takes e listed

theorem beside (g : GateId) : (p.gates.get g).sameBeside (u.gates.get g) :=
  Gate.sameBeside_trans (batch_sameBeside (x := p.records) h.owned g) (h.gate g).sameBeside

/-- A gate that no item changes is at most held. -/
theorem unchanged {g : GateId} (same : ∀ e ∈ items, e.1 = g → e.2 = (p.gates.get g).target) :
    (p.gates.get g).OnlyHolds (u.gates.get g) := by
  have only := h.gate g
  rwa [batch_get (x := p.records) h.owned same] at only

theorem inService {g : GateId} (serves : (p.gates.get g).inService = true) : (u.gates.get g).inService = true :=
  (Gate.inService_holds (h.gate g)).trans (batch_inService (x := p.records) h.owned h.soundIn serves)

theorem tick : u.tick = p.tick := by
  obtain ⟨-, -, -, -, -, -, -, -, -, -, -, -, -, -, tick, -⟩ := still_fields h.course.still
  exact tick

theorem not_joinable {g : GateId} (blocked : Blocked c p g) : joinable c u g = false := by
  obtain ⟨-, -, -, awaiting, lastGrant, -⟩ := h.beside g
  by_contra joins
  have joins : joinable c u g = true := by simpa using joins
  obtain ⟨mode, -⟩ := joinable_run joins
  simp only [joinable, stepIntervalElapsed, h.tick, awaiting, lastGrant, Bool.and_eq_true, Bool.not_eq_true'] at joins
  obtain notRun | awaits | early := blocked
  · obtain same | hold := h.course.mode_eq_or_hold
    · exact notRun (same ▸ mode)
    · exact absurd (mode.symm.trans hold) (by decide)
  · exact absurd (joins.1.2.symm.trans awaits) (by decide)
  · exact absurd (joins.1.1.2.symm.trans early) (by decide)

/-- Where every item's gate has a move outstanding already, or cannot join, the schedule has nothing to do. -/
theorem schedule_idle (waits : ∀ e ∈ items, e.2 ≠ (p.gates.get e.1).target →
      (p.gates.get e.1).state = .moving ∨ Blocked c p e.1) : schedule c p false u = u := by
  refine schedule_none fun g became => ?_
  obtain ⟨moves, still⟩ := becameMoving_iff.mp became
  by_cases same : ∀ e ∈ items, e.1 = g → e.2 = (p.gates.get g).target
  · exact absurd ((h.unchanged same).moving (h.sound.gate g) moves) still
  · simp only [not_forall] at same
    obtain ⟨e, listed, rfl, change⟩ := same
    obtain moving | blocked := waits e listed change
    · exact absurd moving still
    · exact h.not_joinable blocked

/-! Where EXCEEDED agreed with the bounds no event is raised. -/

section Quiet

variable (agrees : ∀ r, (p.reaches.get r).exceeded = (firstViolated c p.totals p.reaches r).isSome)
include agrees

theorem quiet_records : u.records = items.foldl (itemCommitted c) p.records := by
  have quiet := h.admitted.quiet agrees
  have same : q.records = p.records := by rw [Dyn.records, quiet.gates, quiet.dams]; rfl
  rw [h.records, same]

theorem quiet_around : u.around = p.around := h.around.trans (h.admitted.quiet agrees).around

theorem quiet_queue : u.queue = p.queue.filter fun g => (u.gates.get g).state == .moving := by
  rw [h.commits, commitItems_queue h.owned h.distinct h.soundAdmitted h.warnedAdmitted,
    (h.admitted.quiet agrees).queue]

theorem exceeded (r : ReachId) :
    u.reaches.get r = { p.reaches.get r with exceeded := (firstViolated c u.totals u.reaches r).isSome } := by
  obtain ⟨totals, reaches⟩ := rivers_fields h.rivers
  rw [totals, reaches]
  exact h.admitted.exceeded agrees r

/-- The step histories of the dams stand. -/
theorem eligible {g : GateId} (l : List GateId) : eligible c { u with queue := l } g =
    eligibleFor c p g (directionTo (u.gates.get g).command (u.gates.get g).target) := by
  have history (d : DamId) : (u.dams.get d).lastStep = (p.dams.get d).lastStep := by
    have rewarned := batch_rewarned (x := p.records) h.owned d
    rw [← h.quiet_records agrees] at rewarned
    exact funext rewarned.lastStep
  simp only [Machine.eligible, eligibleFor, staggerMet, h.tick, history]

end Quiet

end BatchMade

end Sys2Proof.Machine
end

section
/-! An order that passes every stage (R58 to R64): the admission and the commit of its one item, and the step or the
wait that follows. -/

namespace Sys2Proof.Machine

/-- What the scheduling after a batch leaves. -/
structure BatchScheduled (c : Tables) (p u w : Dyn) : Prop where
  course : Course c p w
  rivers : w.rivers = u.rivers
  orders : ∀ g, (u.gates.get g).sameOrder (w.gates.get g)
  service : ∀ g, (u.gates.get g).inService = true → (w.gates.get g).inService = true

theorem BatchMade.scheduled {c : Tables} {items : List Item} {final : Vector Word 6} {p q u : Dyn}
    (h : BatchMade c items final p q u) (forced : Bool) : BatchScheduled c p u (schedule c p forced u) := by
  obtain ⟨js, -, frame⟩ := joinAndScan_frame c (becameMoving p u) forced u h.soundAt.queue.distinct
  obtain ⟨-, orders, service, -⟩ := frame.of_joined
  exact ⟨h.course.trans (schedule_course _ _ _), schedule_rivers _ _ _ _, orders, service⟩

section Order

variable {s t : State} {g : GateId} {v : Nat} {d : DamId} {q u w : Dyn} {tr : Transaction}

/-- The batch of an order is its one item. -/
theorem batchMade_of_order (sound : GatesSound s) (warned : FloodGatesWarned s)
    (own : (s.tables.gates.get g).inDam d = true) (takes : (s.dyn.gates.get g).Takes)
    (change : v ≠ (s.dyn.gates.get g).target)
    (admitted : Admitted s.tables (orderTotals s.tables s.dyn g v) (presented s.dyn) q) :
    BatchMade s.tables [(g, v)] (orderTotals s.tables s.dyn g v) (presented s.dyn) q (commitTarget s.tables g v q) where
  sound := (gatesSound_iff.mp sound).of_eq rfl rfl rfl
  warned := warnedIn_of_floodGatesWarned sound warned
  owned := fun e listed => by
    obtain rfl := List.mem_singleton.mp listed
    exact ⟨d, own⟩
  distinct := List.nodup_singleton _
  takes := fun e listed => by
    obtain rfl := List.mem_singleton.mp listed
    exact takes
  admitted := admitted
  commits := by
    have target : v ≠ (q.gates.get g).target := by
      rw [(admitted.growth.frame.gates g).target]
      exact change
    exact (commitItems_single s.tables target).symm

/-- The order is committed in a state u, which the scheduling makes w of. -/
structure OrderMade (s : State) (g : GateId) (v : Nat) (q u w : Dyn) : Prop where
  made : BatchMade s.tables [(g, v)] (orderTotals s.tables s.dyn g v) (presented s.dyn) q u
  change : v ≠ (s.dyn.gates.get g).target
  takes : (s.dyn.gates.get g).Takes
  free : v ≠ (s.dyn.gates.get g).command → falseCondition s.tables s.dyn.statusWords g
    (directionTo (s.dyn.gates.get g).command v) = none
  schedules : w = schedule s.tables (presented s.dyn) (u.queue.contains g) u

/-- The order as its handler takes it. -/
theorem handleOrder_made {m : MasterId} {data : Word} (sound : GatesSound s) (warned : FloodGatesWarned s)
    (own : (s.tables.gates.get g).inDam d = true)
    (decoded : decodeValue (s.tables.descriptors.get (slotPage g)).decimal 1000 data = some v)
    (passes : firstFailing (orderTable s.tables s.dyn m g (some v)) = none)
    (change : v ≠ (s.dyn.gates.get g).target)
    (fits : admissionCheck s.tables s.dyn.reaches s.dyn.totals (orderTotals s.tables s.dyn g v) = none) :
    ∃ q u w, handleOrder g (levelOf s.tables m) data s.tables (presented s.dyn) = .taken s.tables w ∧
      OrderMade s g v q u w := by
  have stages := passes
  rw [orderTable_some] at stages
  split_ifs at stages with stops state level blocked
  rw [orderTotals_eq] at fits
  obtain ⟨q, ok, admitted⟩ := admission_passes (p := presented s.dyn) fits
  have totals : orderTotals s.tables s.dyn g v = finalTotals (releaseChange s.tables (presented s.dyn) g v)
    (presented s.dyn).totals := orderTotals_eq _ _ _ _
  have takes : (s.dyn.gates.get g).Takes := not_or.mp state
  refine ⟨q, _, _, handleOrder_committed (p := presented s.dyn) decoded passes change ok,
    batchMade_of_order sound warned own takes change ?_, change, takes, fun moves => ?_, rfl⟩
  · rw [totals]
    exact admitted
  · have clear : moveBlocked s.tables s.dyn g v = none := by simpa [change] using blocked
    rwa [moveBlocked_eq, if_neg moves] at clear

namespace OrderMade

variable (h : OrderMade s g v q u w)
include h

theorem committed (here : (s.tables.gates.get g).inDam d = true) :
    ItemCommitted s.tables g d v s.dyn.records (itemCommitted s.tables s.dyn.records (g, v)) :=
  itemCommitted_spec here h.change

theorem scheduled : BatchScheduled s.tables (presented s.dyn) u w := by
  rw [h.schedules]
  exact h.made.scheduled _

/-- The order's gate is MOVING already or cannot join, and is not queued. -/
theorem waits (outside : g ∉ s.dyn.queue) (blocked : (s.dyn.gates.get g).state = .moving ∨ NotYet s g) : w = u := by
  have notQueued : u.queue.contains g = false := by
    rw [List.contains_eq_mem, decide_eq_false_iff_not]
    exact fun queued => outside (h.made.queue.subset queued)
  rw [h.schedules, notQueued]
  refine h.made.schedule_idle fun e listed _ => ?_
  obtain rfl := List.mem_singleton.mp listed
  exact blocked

/-- The gate that becomes MOVING, of an order to an empty queue that raises no event, joins the queue for a scan. -/
theorem scans
    (agrees : ∀ r, (s.dyn.reaches.get r).exceeded = (firstViolated s.tables s.dyn.totals s.dyn.reaches r).isSome)
    (here : (s.tables.gates.get g).inDam d = true) (empty : s.dyn.queue = [])
    (still : (s.dyn.gates.get g).state ≠ .moving) (moves : (committedGate s.tables g d v s.dyn.records).state = .moving)
    (may : ¬ NotYet s g) :
    u.gates = Table.put s.dyn.gates g (committedGate s.tables g d v s.dyn.records) ∧
      w = if eligibleFor s.tables s.dyn g
          (directionTo (committedGate s.tables g d v s.dyn.records).command v) then
          grant s.tables g { u with queue := [g] }
        else { u with queue := [g] } := by
  have gates : u.gates = Table.put s.dyn.gates g (committedGate s.tables g d v s.dyn.records) :=
    (congrArg Prod.fst (h.made.quiet_records agrees)).trans (h.committed here).gates
  have record : u.gates.get g = committedGate s.tables g d v s.dyn.records := by rw [gates, put_get_ite, if_pos rfl]
  have queue : u.queue = [] := List.eq_nil_of_subset_nil (empty ▸ h.made.queue.subset)
  have beside := h.made.beside g
  obtain ⟨command, -, -, awaiting, lastGrant, -⟩ := beside
  have target : (u.gates.get g).target = v := h.made.target (e := (g, v)) (List.mem_singleton.mpr rfl)
  obtain ⟨still', controls, -⟩ := around_fields (h.made.quiet_around agrees)
  obtain ⟨mode, -⟩ := controls_fields controls
  have words : u.statusWords = s.dyn.statusWords := congrArg Still.statusWords still'
  have tick : u.tick = s.dyn.tick := h.made.tick
  simp only [NotYet, not_or, not_not, Bool.not_eq_true, Bool.not_eq_false] at may
  obtain ⟨run, settledNow, elapsed⟩ := may
  have joins : joinable s.tables u g = true := by
    have runs : u.mode = .run := mode.trans run
    have free : (u.gates.get g).awaiting = false := awaiting.trans settledNow
    have paced : stepIntervalElapsed s.tables u g = true := by
      rw [← elapsed, stepIntervalElapsed, stepIntervalElapsed, lastGrant, tick]
      rfl
    have moving : (u.gates.get g).state = .moving := record ▸ moves
    simp [joinable, moving, runs, paced, free, queue]
  have only : (List.finRange 48).filter (fun i => becameMoving (presented s.dyn) u i && joinable s.tables u i) = [g] := by
    refine filter_finRange_eq_singleton ?_ fun i other => ?_
    · have became : becameMoving (presented s.dyn) u g = true := becameMoving_iff.mpr ⟨record ▸ moves, still⟩
      rw [became, joins]
      rfl
    · have same : u.gates.get i = s.dyn.gates.get i := by rw [gates, put_get_ite, if_neg other]
      have stays : becameMoving (presented s.dyn) u i = false := by
        rw [Bool.eq_false_iff]
        intro became
        obtain ⟨moving, before⟩ := becameMoving_iff.mp became
        exact before (same ▸ moving)
      rw [stays, Bool.false_and]
  have alone : w = scan s.tables { u with queue := [g] } := by
    have one := joinAndScan_one only (u.queue.contains g)
    rw [queue] at one
    rw [h.schedules, schedule, queue]
    exact one
  have away : v ≠ (s.dyn.gates.get g).command := by
    have moved := ((h.made.soundAt.gate g).moving (record ▸ moves)).1
    rw [target, command] at moved
    exact moved
  have free : falseCondition s.tables { u with queue := [g] }.statusWords g
      (directionTo ({ u with queue := [g] }.gates.get g).command ({ u with queue := [g] }.gates.get g).target) = none := by
    show falseCondition s.tables u.statusWords g (directionTo (u.gates.get g).command (u.gates.get g).target) = none
    rw [words, command, target]
    exact h.free away
  have takes := h.made.eligible agrees (g := g) [g]
  rw [record] at takes target
  rw [target] at takes
  refine ⟨gates, ?_⟩
  rw [alone, scan_alone rfl free, takes]
  rfl

end OrderMade

end Order

end Sys2Proof.Machine
end

section
/-! The order of the claims, step by step (R58 to R64): O40. -/

namespace Sys2Proof.Machine

section Order

variable {s t : State} {g : GateId} {v : Nat} {d : DamId} {q u w : Dyn} {tr : Transaction}

/-- A gate whose order a schedule keeps, as the claims of another gate's order need it. -/
theorem OrderMade.order (h : OrderMade s g v q u w) {i : GateId} (other : i ≠ g) :
    (s.dyn.gates.get i).sameOrder (w.gates.get i) := by
  have kept : (s.dyn.gates.get i).OnlyHolds (u.gates.get i) := h.made.unchanged fun e listed same => by
    obtain rfl := List.mem_singleton.mp listed
    exact absurd same.symm other
  exact Gate.sameOrder_trans (Gate.sameOrder_holds kept) (h.scheduled.orders i)

/-- The gate ordered: its target, its service and its refusal code. -/
theorem OrderMade.ordered (h : OrderMade s g v q u w) : (w.gates.get g).target = v ∧ (w.gates.get g).inService = true ∧
    (w.gates.get g).lastRefusal = (s.dyn.gates.get g).lastRefusal := by
  obtain ⟨target, -, -, -, refusal⟩ := h.scheduled.orders g
  obtain ⟨-, -, -, -, -, -, kept⟩ := h.made.beside g
  refine ⟨target.trans (h.made.target (e := (g, v)) (List.mem_singleton.mpr rfl)), h.scheduled.service g ?_,
    refusal.trans kept⟩
  exact h.made.inService (Gate.inService_of_takes h.takes)

/-- An order whose gate does not join leaves the records of Table 3-3, but for holds by links. -/
theorem OrderMade.stands (h : OrderMade s g v q u w) (here : (s.tables.gates.get g).inDam d = true)
    (outside : g ∉ s.dyn.queue) (blocked : (s.dyn.gates.get g).state = .moving ∨ NotYet s g)
    (gatesEnd : t.dyn.gates = w.gates) (damsEnd : t.dyn.dams = w.dams) (queueEnd : t.dyn.queue = w.queue) :
    OthersOnlyHeld s t g ∧ Gate.OnlyHolds (committedGate s.tables g d v s.dyn.records) (t.dyn.gates.get g) ∧
      t.dyn.queue.Sublist s.dyn.queue ∧
      Dam.committed (s.dyn.dams.get d) (s.dyn.gates.get g).state (committedGate s.tables g d v s.dyn.records).state
        (s.tables.dams.get d).warningDwell.toNat (AllShut s.tables t.dyn d)
        { t.dyn.dams.get d with hold := (s.dyn.dams.get d).hold } ∧
      ∀ e, e ≠ d → Dam.sameButHold (s.dyn.dams.get e) (t.dyn.dams.get e) := by
  have same : w = u := h.waits outside blocked
  have committed := h.committed here
  have held : HeldFrom (itemCommitted s.tables s.dyn.records (g, v)) u.records := h.made.held
  rw [same] at gatesEnd damsEnd queueEnd
  rw [allShut_eq_shutIn, gatesEnd, damsEnd, queueEnd]
  refine ⟨fun i other => ?others, ?own, h.made.queue, ?dam, fun e other => ?elsewhere⟩
  case others =>
    rw [gatesEnd]
    exact h.made.unchanged fun e listed same => by
      obtain rfl := List.mem_singleton.mp listed
      exact absurd same.symm other
  case own =>
    have only := held.gates g
    rwa [committed.gates, put_get_ite, if_pos rfl] at only
  case dam =>
    have record : u.dams.get d =
        { (itemCommitted s.tables s.dyn.records (g, v)).2.get d with hold := (u.dams.get d).hold } := held.dams d
    have hold := (Dam.committed_rewarned committed.dam).hold
    have dam := committed.dam
    rw [← propext (shutIn_congr held.gates)] at dam
    have restored : ({ u.dams.get d with hold := (s.dyn.dams.get d).hold } : Dam) =
        (itemCommitted s.tables s.dyn.records (g, v)).2.get d := by
      have hold : (s.dyn.dams.get d).hold = ((itemCommitted s.tables s.dyn.records (g, v)).2.get d).hold := hold.symm
      rw [record, hold]
    rw [restored]
    exact dam
  case elsewhere =>
    have kept := held.dams e
    rwa [committed.elsewhere e other] at kept

/-- An order that joins an empty queue and raises no event is granted a step, or waits. -/
theorem OrderMade.joins (h : OrderMade s g v q u w) (here : (s.tables.gates.get g).inDam d = true)
    (agrees : ∀ r, (s.dyn.reaches.get r).exceeded = (firstViolated s.tables s.dyn.totals s.dyn.reaches r).isSome)
    (empty : s.dyn.queue = []) (still : (s.dyn.gates.get g).state ≠ .moving)
    (moves : (committedGate s.tables g d v s.dyn.records).state = .moving) (may : ¬ NotYet s g)
    (gatesEnd : t.dyn.gates = w.gates) (queueEnd : t.dyn.queue = w.queue) :
    (∀ i, i ≠ g → t.dyn.gates.get i = s.dyn.gates.get i) ∧
      (if eligibleFor s.tables s.dyn g (directionTo (committedGate s.tables g d v s.dyn.records).command v) then
        t.dyn.queue = [] ∧
          Gate.Stepped (s.tables.gates.get g) (s.tables.dams.get d).recoveryDwell.toNat s.dyn.tick
            (committedGate s.tables g d v s.dyn.records) (t.dyn.gates.get g)
      else t.dyn.queue = [g] ∧ t.dyn.gates.get g = committedGate s.tables g d v s.dyn.records) := by
  obtain ⟨gates, ends⟩ := h.scans agrees here empty still moves may
  have others (i : GateId) (other : i ≠ g) : u.gates.get i = s.dyn.gates.get i := by
    rw [gates, put_get_ite, if_neg other]
  have own : u.gates.get g = committedGate s.tables g d v s.dyn.records := by rw [gates, put_get_ite, if_pos rfl]
  have dwell : recoveryDwellOf s.tables g = (s.tables.dams.get d).recoveryDwell.toNat := by
    simp [recoveryDwellOf, dam?_of_inDam here]
  rw [gatesEnd, queueEnd, ends]
  split
  case isTrue =>
    refine ⟨fun i other => ?_, ?_, ?_⟩
    · rw [grant_get, if_neg other]
      exact others i other
    · rw [grant_queue]
      simp
    · rw [grant_get, if_pos rfl, dwell]
      show Gate.Stepped _ _ _ _ ((u.gates.get g).stepped _ _ u.tick)
      rw [own, h.made.tick]
      exact Gate.stepped_spec _ _ _ _
  case isFalse => exact ⟨others, rfl, own⟩

end Order

end Sys2Proof.Machine

namespace Sys2Proof

open Machine

/-- Settles O40: the batch of the one item, its scheduling, and the records that the two leave. -/
theorem orderCommitted : Obligations.OrderCommitted := by
  intro s g w tr v d y idle sound warned accepted here decoded passes change fits same
  obtain ⟨q, u, x, handled, made⟩ := handleOrder_made sound warned here decoded passes change fits
  obtain ⟨course, rivers, -⟩ := made.scheduled
  obtain ⟨t, next, tables, settled⟩ := settled_of_course (x := .order g) idle rfl accepted handled course
  obtain ⟨store, surroundings, taken, controls⟩ := settled.keeps course rfl
  obtain ⟨totals, reaches⟩ := rivers_fields rivers
  have noted : BoundsNoted s.tables (presented s.dyn) x :=
    made.made.noted.later (by rw [made.schedules]; exact schedule_course _ _ _) rivers
  rw [← tables] at noted
  have gatesEnd : t.dyn.gates = x.gates := settled.gates
  have damsEnd : t.dyn.dams = x.dams := settled.dams
  have queueEnd : t.dyn.queue = x.queue := settled.queue
  have totalsEnd : t.dyn.totals = u.totals := settled.totals.trans totals
  have reachesEnd : t.dyn.reaches = u.reaches := settled.reaches.trans reaches
  have record : y = committedGate s.tables g d v s.dyn.records := same
  obtain ⟨target, inService, refusal⟩ := made.ordered
  refine ⟨t, next, tables, store, surroundings, taken, controls, settled.boundsReported_of_taken noted,
    totalsEnd.trans made.made.totals, ?target, ?inService, ?refusal, fun i other => ?order, fun agrees r => ?exceeded,
    fun outside blocked => ?stands, fun empty still moves may agrees => ?joins⟩
  case target => rw [gatesEnd, target]
  case inService => rw [gatesEnd, inService]
  case refusal => rw [gatesEnd, refusal]
  case order =>
    rw [gatesEnd]
    exact made.order other
  case exceeded =>
    rw [totalsEnd, reachesEnd]
    exact made.made.exceeded agrees r
  case stands =>
    rw [record]
    exact made.stands here outside blocked gatesEnd damsEnd queueEnd
  case joins =>
    rw [record] at moves ⊢
    exact made.joins here agrees empty still moves may gatesEnd queueEnd

end Sys2Proof
end

section
/-! The checks of a portal's request (R96 to R99) as the model makes them and as the claims list them. -/

namespace Sys2Proof.Machine

section Checks

variable {c : Tables} {p : Dyn} {cfg : PortalConfig} {header w : Word} {earlier items : List Item}

theorem requestCheck_eq (cfg : PortalConfig) (mode : Mode) (level : Nat) (header : Word) (x : Portal) :
    requestCheck cfg mode level header x = firstFailing (requestTable cfg mode level header x) := by
  simp only [requestTable, firstFailing_cons, firstFailing_nil, requestCheck, decide_eq_true_eq, Bool.or_eq_true,
    beq_iff_eq]

/-- The gates that earlier items name, as the claims list them. -/
def gatesNamed (items : List Item) : List Nat := items.map fun e => e.1.val

theorem contains_gatesNamed (items : List Item) (g : GateId) :
    (gatesNamed items).contains g.val = items.any fun e => e.1 == g := by
  rw [Bool.eq_iff_iff]
  simp [gatesNamed, List.any_eq_true, Fin.ext_iff]

theorem itemBlocked_eq (c : Tables) (p : Dyn) (g : GateId) (v : Nat) :
    (v != (p.gates.get g).target && v != (p.gates.get g).command &&
      (falseCondition c p.statusWords g (directionTo (p.gates.get g).command v)).isSome) =
    (v != (p.gates.get g).target && (moveBlocked c p g v).isSome) := by
  rw [moveBlocked_eq, Bool.and_assoc]
  by_cases still : v = (p.gates.get g).command <;> simp [still, bne, beq_eq_decide]

/-- A result that the first failing check of a list forestalls. -/
def unlessFailing (failing : Option Code) (result : Except Code Item) : Except Code Item :=
  match failing with
  | some code => .error code
  | none => result

theorem unlessFailing_ite (fails : Prop) [Decidable fails] (code : Code) (rest : Option Code) (result : Except Code Item) :
    unlessFailing (if fails then some code else rest) result =
      if fails then .error code else unlessFailing rest result := by
  split <;> rfl

/-- The checks of an item, in the order of the claims. -/
theorem itemCheck_eq (c : Tables) (p : Dyn) (cfg : PortalConfig) (header : Word) (earlier : List Item) (w : Word) :
    itemCheck c p cfg header earlier w =
      unlessFailing (firstFailing (itemTable c p cfg header (gatesNamed earlier) w))
        (if h : itemGate w < 48 then .ok (⟨itemGate w, h⟩, itemOpening w) else .error .portalFormat) := by
  by_cases inside : itemGate w < 48
  · have below : ¬ 47 < itemGate w := by omega
    have duplicate := contains_gatesNamed earlier ⟨itemGate w, inside⟩
    simp only at duplicate
    simp only [itemTable, firstFailing_cons, firstFailing_nil, dif_pos inside, itemCheck, itemBlocked_eq, duplicate,
      decide_eq_true_eq, if_neg below, damAllowed, unlessFailing_ite]
    rfl
  · have above : 47 < itemGate w := by omega
    simp only [itemTable, firstFailing_cons, decide_eq_true_eq, if_pos above, itemCheck, dif_neg inside]
    rfl

/-- An item that passes names its gate and opening, at a dam of the portal's mask. -/
theorem itemCheck_passes (passes : firstFailing (itemTable c p cfg header (gatesNamed earlier) w) = none) :
    ∃ e : Item, itemCheck c p cfg header earlier w = .ok e ∧ (e.1.val, e.2) = (itemGate w, itemOpening w) ∧
      ∃ d, (c.gates.get e.1).inDam d = true := by
  have checked := itemCheck_eq c p cfg header earlier w
  rw [passes] at checked
  by_cases inside : itemGate w < 48
  · simp only [unlessFailing, dif_pos inside] at checked
    refine ⟨_, checked, rfl, ?_⟩
    simp only [itemTable, firstFailing_cons, dif_pos inside] at passes
    split_ifs at passes with far masked
    have dam : cfg.damMask.getLsbD (c.gates.get ⟨itemGate w, inside⟩).dam.toNat = true := by simpa using masked
    exact ⟨⟨_, BitVec.lt_of_getLsbD dam⟩, inDam_iff.mpr rfl⟩
  · simp only [itemTable, firstFailing_cons, decide_eq_true_eq, if_pos (show 47 < itemGate w by omega)] at passes
    cases passes

theorem itemsCheck_fails {x : Code × Nat} : (ws : List Word) → {earlier : List Item} →
    itemsOutcome c p cfg header ws (gatesNamed earlier) = some x → itemsCheck c p cfg header ws earlier = .error x
  | [], _, h => by cases h
  | w :: ws, earlier, h => by
    unfold itemsOutcome at h
    unfold itemsCheck
    split at h
    case h_1 code fails =>
      have checked := itemCheck_eq c p cfg header earlier w
      rw [fails, unlessFailing] at checked
      rw [checked]
      cases h
      simp [gatesNamed]
    case h_2 passes =>
      obtain ⟨e, checked, same, -⟩ := itemCheck_passes passes
      obtain ⟨gate, -⟩ := Prod.mk.inj same
      rw [checked]
      refine itemsCheck_fails ws (earlier := earlier ++ [e]) ?_
      rw [gatesNamed, List.map_append, List.map_singleton, gate]
      exact h

theorem itemsCheck_passes : (ws : List Word) → {earlier : List Item} →
    itemsOutcome c p cfg header ws (gatesNamed earlier) = none →
    ∃ items, itemsCheck c p cfg header ws earlier = .ok (earlier ++ items) ∧
      items.map (fun e => (e.1.val, e.2)) = ws.map (fun w => (itemGate w, itemOpening w)) ∧ Owned c items
  | [], earlier, _ => ⟨[], by simp [itemsCheck], rfl, fun _ listed => by cases listed⟩
  | w :: ws, earlier, h => by
    unfold itemsOutcome at h
    split at h
    case h_1 => cases h
    case h_2 passes =>
      obtain ⟨e, checked, same, dam⟩ := itemCheck_passes passes
      obtain ⟨gate, -⟩ := Prod.mk.inj same
      have rest : itemsOutcome c p cfg header ws (gatesNamed (earlier ++ [e])) = none := by
        rw [gatesNamed, List.map_append, List.map_singleton, gate]
        exact h
      obtain ⟨items, all, words, owned⟩ := itemsCheck_passes ws rest
      refine ⟨e :: items, ?_, ?_, ?_⟩
      · unfold itemsCheck
        simp only [checked, all]
        simp
      · rw [List.map_cons, List.map_cons, words, same]
      · intro i listed
        obtain rfl | later := List.mem_cons.mp listed
        · exact dam
        · exact owned i later

/-! ### The totals of a batch -/

/-- What a word of a request adds to the total of dam d, as the claims write it. -/
theorem batchTotals_get (d : DamId) : (items : List Item) → (ws : List Word) → (t : Word) →
    items.map (fun e => (e.1.val, e.2)) = ws.map (fun w => (itemGate w, itemOpening w)) →
    ws.foldl
      (fun t w =>
        if h : itemGate w < 48 then
          if (c.gates.get ⟨itemGate w, h⟩).inDam d && changesGate p ⟨itemGate w, h⟩ w then
            t + BitVec.ofNat 16 (releaseOf c ⟨itemGate w, h⟩ (itemOpening w)) -
              BitVec.ofNat 16 (releaseOf c ⟨itemGate w, h⟩ (p.gates.get ⟨itemGate w, h⟩).target)
          else t
        else t) t = t + (items.map (itemChange c p d)).sum
  | [], [], t, _ => by simp
  | [], _ :: _, _, same => by simp at same
  | _ :: _, [], _, same => by simp at same
  | e :: items, w :: ws, t, same => by
    obtain ⟨head, tail⟩ := List.cons.inj same
    obtain ⟨gate, opening⟩ := Prod.mk.inj head
    have inside : itemGate w < 48 := gate ▸ e.1.isLt
    have g : (⟨itemGate w, inside⟩ : GateId) = e.1 := Fin.ext gate.symm
    have changes : changesGate p e.1 w = (e.2 != (p.gates.get e.1).target) := by
      simp [changesGate, ← gate, ← opening]
    rw [List.foldl_cons, batchTotals_get d items ws _ tail, List.map_cons, List.sum_cons, ← add_assoc]
    congr 1
    simp only [dif_pos inside, g, changes, ← opening]
    by_cases own : (c.gates.get e.1).inDam d = true
    · by_cases still : e.2 = (p.gates.get e.1).target
      · simp [own, still, itemChange]
      · simp [own, still, itemChange, add_sub_assoc]
    · simp [own, itemChange]

theorem batchTotals_eq {ws : List Word}
    (same : items.map (fun e => (e.1.val, e.2)) = ws.map (fun w => (itemGate w, itemOpening w))) :
    batchTotals c p ws = finalTotals (batchChanges c p items) p.totals := by
  refine vector_ext_get fun d => ?_
  rw [batchTotals, Table.tab_get, finalTotals_batchChanges, batchTotals_get d items ws _ same]

theorem items_unique {items' : List Item}
    (same : items.map (fun e => (e.1.val, e.2)) = items'.map (fun e => (e.1.val, e.2))) : items = items' := by
  refine List.map_injective_iff.mpr (fun e e' h => ?_) same
  obtain ⟨gate, opening⟩ := Prod.mk.inj h
  exact Prod.ext (Fin.ext gate) opening

end Checks

/-! ### The outcome of a request -/

section Outcome

variable {c : Tables} {p : Dyn} {q : PortalId} {m : MasterId} {header : Word} {code : Code} {index : Nat}

/-! Each way that a request ends, from what its checks answer. -/

theorem processRequest_of_check (fails : requestCheck (c.portals.get q) p.mode (levelOf c m) header (p.portals.get q) =
    some code) : processRequest c q m header p = refuseRequest c q m header code 0 p := by
  unfold processRequest
  dsimp only
  rw [fails]

theorem processRequest_of_item
    (passes : requestCheck (c.portals.get q) p.mode (levelOf c m) header (p.portals.get q) = none)
    (fails : itemsCheck c p (c.portals.get q) header (itemWords header (p.portals.get q)) [] = .error (code, index)) :
    processRequest c q m header p = refuseRequest c q m header code index p := by
  rw [itemWords] at fails
  unfold processRequest
  dsimp only
  rw [passes]
  dsimp only
  rw [fails]

theorem processRequest_of_budget {items : List Item} {r : ReachId}
    (passes : requestCheck (c.portals.get q) p.mode (levelOf c m) header (p.portals.get q) = none)
    (fits : itemsCheck c p (c.portals.get q) header (itemWords header (p.portals.get q)) [] = .ok items)
    (exceeds : admission c (batchChanges c p items) p = .error (code, r)) :
    processRequest c q m header p = refuseRequest c q m header code r.val p := by
  rw [itemWords] at fits
  unfold processRequest
  dsimp only
  rw [passes]
  dsimp only
  rw [fits]
  dsimp only
  rw [exceeds]

theorem processRequest_of_admission {items : List Item} {p1 : Dyn}
    (passes : requestCheck (c.portals.get q) p.mode (levelOf c m) header (p.portals.get q) = none)
    (fits : itemsCheck c p (c.portals.get q) header (itemWords header (p.portals.get q)) [] = .ok items)
    (admitted : admission c (batchChanges c p items) p = .ok p1) :
    processRequest c q m header p = commitRequest c q header items p1 p := by
  rw [itemWords] at fits
  unfold processRequest
  dsimp only
  rw [passes]
  dsimp only
  rw [fits]
  dsimp only
  rw [admitted]

/-- The outcome of a request in the words of the claims, check by check. -/
theorem requestOutcome_cases (c : Tables) (p : Dyn) (q : PortalId) (m : MasterId) (header : Word) :
    (∃ code, requestCheck (c.portals.get q) p.mode (levelOf c m) header (p.portals.get q) = some code ∧
      requestOutcome c p q m header = some (code, 0)) ∨
    (requestCheck (c.portals.get q) p.mode (levelOf c m) header (p.portals.get q) = none ∧
      ((∃ x, itemsOutcome c p (c.portals.get q) header (itemWords header (p.portals.get q)) [] = some x ∧
          requestOutcome c p q m header = some x) ∨
        (itemsOutcome c p (c.portals.get q) header (itemWords header (p.portals.get q)) [] = none ∧
          requestOutcome c p q m header =
            (admissionCheck c p.reaches p.totals (batchTotals c p (itemWords header (p.portals.get q)))).map
              fun x => (x.1, x.2.val)))) := by
  rw [requestCheck_eq, levelOf]
  unfold requestOutcome
  cases firstFailing (requestTable (c.portals.get q) p.mode (c.masters.get m).level.toNat header (p.portals.get q)) with
  | some code => exact .inl ⟨code, rfl, rfl⟩
  | none =>
    cases itemsOutcome c p (c.portals.get q) header (itemWords header (p.portals.get q)) [] with
    | some x => exact .inr ⟨rfl, .inl ⟨x, rfl, rfl⟩⟩
    | none => exact .inr ⟨rfl, .inr ⟨rfl, rfl⟩⟩

/-- A request that fails a check or the budget. -/
theorem processRequest_refused (fails : requestOutcome c p q m header = some (code, index)) :
    processRequest c q m header p = refuseRequest c q m header code index p := by
  obtain ⟨early, check, ends⟩ | ⟨whole, ⟨x, item, ends⟩ | ⟨fit, ends⟩⟩ := requestOutcome_cases c p q m header
  · cases ends.symm.trans fails
    exact processRequest_of_check check
  · cases ends.symm.trans fails
    exact processRequest_of_item whole (itemsCheck_fails (earlier := []) _ item)
  · obtain ⟨items, checked, words, -⟩ := itemsCheck_passes (earlier := []) _ fit
    rw [List.nil_append] at checked
    rw [ends, batchTotals_eq words] at fails
    obtain ⟨⟨reported, r⟩, exceeds, same⟩ := Option.map_eq_some_iff.mp fails
    cases same
    refine processRequest_of_budget whole checked ?_
    unfold admission
    dsimp only
    rw [← finalTotals, exceeds]

/-- A request that passes every check. -/
theorem processRequest_committed {items : List Item} (passes : requestOutcome c p q m header = none)
    (words : items.map (fun e => (e.1.val, e.2)) =
      (itemWords header (p.portals.get q)).map (fun w => (itemGate w, itemOpening w))) :
    ∃ p1, processRequest c q m header p = commitRequest c q header items p1 p ∧
      Admitted c (batchTotals c p (itemWords header (p.portals.get q))) p p1 ∧ Owned c items ∧
      (items.map (·.1)).Nodup ∧ ∀ e ∈ items, e.Fits c p := by
  obtain ⟨early, check, ends⟩ | ⟨whole, ⟨x, item, ends⟩ | ⟨fit, ends⟩⟩ := requestOutcome_cases c p q m header
  · cases ends.symm.trans passes
  · cases ends.symm.trans passes
  · obtain ⟨found, checked, same, owned⟩ := itemsCheck_passes (earlier := []) _ fit
    obtain rfl := items_unique (words.trans same.symm)
    rw [List.nil_append] at checked
    obtain ⟨distinct, fits⟩ := itemsCheck_ok _ checked List.nodup_nil fun _ listed => by cases listed
    have check : admissionCheck c p.reaches p.totals (finalTotals (batchChanges c p items) p.totals) = none := by
      rw [← batchTotals_eq words]
      exact Option.map_eq_none_iff.mp (ends.symm.trans passes)
    obtain ⟨p1, ok, admitted⟩ := admission_passes check
    rw [← batchTotals_eq words] at admitted
    exact ⟨p1, processRequest_of_admission whole checked ok, admitted, owned, distinct, fits⟩

end Outcome

end Sys2Proof.Machine
end

section
/-! The header of a portal's request, taken (R93, R100, R101): what every request leaves beside the gates and the dams, and
the request that fails; the first part of O43. -/

namespace Sys2Proof.Machine

/-- The state in which a request is processed: presented, and its portal busy. -/
def requested (s : State) (q : PortalId) : Dyn :=
  { presented s.dyn with portals := Table.put s.dyn.portals q { s.dyn.portals.get q with busy := true } }

section Request

variable {s t : State} {q : PortalId} {tr : Transaction} {j : PortalJob} {x : Dyn}

theorem itemsOutcome_requested (c : Tables) (cfg : PortalConfig) (header : Word) : (ws : List Word) →
    (named : List Nat) → itemsOutcome c (requested s q) cfg header ws named = itemsOutcome c s.dyn cfg header ws named
  | [], _ => rfl
  | w :: ws, named => by
    have checks : itemTable c (requested s q) cfg header named w = itemTable c s.dyn cfg header named w := rfl
    unfold itemsOutcome
    rw [checks, itemsOutcome_requested c cfg header ws]

theorem requested_portal (s : State) (q : PortalId) :
    (requested s q).portals.get q = { s.dyn.portals.get q with busy := true } := by
  simp [requested]

theorem itemWords_requested (header : Word) :
    itemWords header ((requested s q).portals.get q) = itemWords header (s.dyn.portals.get q) := by
  rw [requested_portal]
  rfl

theorem batchTotals_requested (c : Tables) (ws : List Word) :
    batchTotals c (requested s q) ws = batchTotals c s.dyn ws := rfl

/-- The checks of a request look at its portal's words, which the busy flag leaves. -/
theorem requestOutcome_requested (c : Tables) (m : MasterId) (header : Word) :
    requestOutcome c (requested s q) q m header = requestOutcome c s.dyn q m header := by
  have whole : requestTable (c.portals.get q) (requested s q).mode (c.masters.get m).level.toNat header
      ((requested s q).portals.get q) =
      requestTable (c.portals.get q) s.dyn.mode (c.masters.get m).level.toNat header (s.dyn.portals.get q) := by
    rw [requested_portal]
    rfl
  have limits : (requested s q).reaches = s.dyn.reaches := rfl
  have totals : (requested s q).totals = s.dyn.totals := rfl
  unfold requestOutcome
  rw [whole, itemWords_requested, itemsOutcome_requested, batchTotals_requested, limits, totals]

theorem handlePortalHeader_free {p : Dyn} (free : (p.portals.get q).busy = false) (m : MasterId) (data : Word)
    (c : Tables) : handlePortalHeader q m data c p =
      .taken c (processRequest c q m data
        { p with portals := Table.put p.portals q { p.portals.get q with busy := true } }) := by
  simp [handlePortalHeader, free]

/-- A job that joins the queue of portal jobs is queued after the grant, or taken up by it (R136). -/
theorem Settled.jobQueued {p : Dyn} (settled : Settled s t p) (jobs : p.portalJobs = s.dyn.portalJobs ++ [j]) :
    JobQueued j s t := by
  obtain same | ⟨free, w, waits, other, same⟩ := settled.granted.eq_or_grantJob settled.noRefresh
  · rw [JobQueued, same]
    exact .inl jobs
  · have first := standsFirst_of_mem waits
    have empty := portalJobs_of_noJobWaits (settled.idle_of_free free)
    rw [JobQueued, same]
    cases w with
    | refresh d => cases other
    | portal i rest =>
      have alone : [j] = i :: rest := by
        have queued : p.portalJobs = i :: rest := first
        rw [jobs, empty] at queued
        exact queued
      cases alone
      exact .inr ⟨empty.symm, _, rfl⟩
    | _ => exact .inl jobs

/-- What a request leaves, its events and commits being a course from the request to a state x. -/
structure RequestTaken (s t : State) (q : PortalId) (tr : Transaction) (j : PortalJob) (x : Dyn) : Prop where
  tables : t.tables = s.tables
  settled : Settled s t (takeInHand tr (queuePortalJob j x))
  course : Course s.tables (requested s q) x

theorem exec_request {w : BusWrite} (idle : PortIdle s) (accepted : Accepted (.portalHeaderWrite q w) s tr)
    (free : (s.dyn.portals.get q).busy = false)
    (processed : processRequest s.tables q w.master w.data (requested s q) = queuePortalJob j x)
    (course : Course s.tables (requested s q) x) :
    ∃ t, exec (.portalHeaderWrite q w) s = .next t ∧ RequestTaken s t q tr j x := by
  have handled : handlerOf w.master w.data (.portalHeader q) s.tables (presented s.dyn) =
      .taken s.tables (queuePortalJob j x) :=
    (handlePortalHeader_free (p := presented s.dyn) free w.master w.data s.tables).trans
      (congrArg (Handled.taken s.tables) processed)
  obtain ⟨-, -, -, -, -, -, -, -, -, -, -, -, -, -, -, -, sameFree⟩ := still_fields course.still
  have noRefresh (running : x.running = none) : NoRefreshWaits x :=
    noRefreshWaits_of_course (p := requested s q) idle rfl rfl rfl course running
  obtain ⟨t, next, tables, settled⟩ := settled_of_taken idle rfl accepted handled sameFree fun running =>
    noRefreshWaits_congr (noRefresh running) rfl rfl rfl
  exact ⟨t, next, tables, settled, course⟩

namespace RequestTaken

variable (h : RequestTaken s t q tr j x)
include h

theorem taken : Taken tr t := by
  obtain ⟨-, -, -, -, -, -, -, -, -, -, answer, -⟩ := still_fields h.course.still
  exact h.settled.taken answer

theorem surroundings : SameSurroundings
    { s with
      dyn := { s.dyn with
        portals := Table.put s.dyn.portals q { s.dyn.portals.get q with busy := true }
        portalJobs := t.dyn.portalJobs } } t := by
  obtain ⟨words, portals, debt, pointer, pointerReset, timer, logWrite, logRead, -, -, -, passKind, passFailed, powerOn,
    tick, -⟩ := still_fields h.course.still
  have port := h.settled.port
  exact
    { statusWords := port.statusWords.trans words
      portals := port.portals.trans portals
      portalJobs := rfl
      debt := port.debt.trans debt
      pointer := port.pointer.trans pointer
      pointerReset := port.pointerReset.trans pointerReset
      refreshTimer := port.refreshTimer.trans timer
      logWrite := port.logWrite.trans logWrite
      logRead := port.logRead.trans logRead
      passKind := port.passKind.trans passKind
      passFailed := port.passFailed.trans passFailed
      powerOnUnfinished := port.powerOnUnfinished.trans powerOn
      tick := port.tick.trans tick }

theorem controls : ControlByLinks s t :=
  h.course.controlByLinks_between rfl h.settled.controls rfl

theorem jobQueued : JobQueued j s t := by
  obtain ⟨-, -, -, -, -, -, -, -, jobs, -⟩ := still_fields h.course.still
  have jobs : x.portalJobs = s.dyn.portalJobs := jobs
  exact h.settled.jobQueued (congrArg (· ++ [j]) jobs)

theorem gates : t.dyn.gates = x.gates := h.settled.gates
theorem dams : t.dyn.dams = x.dams := h.settled.dams
theorem queue : t.dyn.queue = x.queue := h.settled.queue
theorem totals : t.dyn.totals = x.totals := h.settled.totals
theorem reaches : t.dyn.reaches = x.reaches := h.settled.reaches

end RequestTaken

/-! ### The request that fails -/

theorem requestRefused {w : BusWrite} {code : Code} {index : Nat} (idle : PortIdle s)
    (accepted : Accepted (.portalHeaderWrite q w) s tr) (free : (s.dyn.portals.get q).busy = false)
    (fails : requestOutcome s.tables s.dyn q w.master w.data = some (code, index)) :
    ∃ t, exec (.portalHeaderWrite q w) s = .next t ∧ t.tables = s.tables ∧ StoreKept s t ∧ Taken tr t ∧
      SameSurroundings
        { s with
          dyn := { s.dyn with
            portals := Table.put s.dyn.portals q { s.dyn.portals.get q with busy := true }
            portalJobs := t.dyn.portalJobs } }
        t ∧
      ControlByLinks s t ∧ t.dyn.totals = s.dyn.totals ∧ t.dyn.reaches = s.dyn.reaches ∧
      (∀ g, Gate.OnlyHolds (s.dyn.gates.get g) (t.dyn.gates.get g)) ∧
      JobQueued
        { portal := q, sequence := headerSequence w.data, status := .refused, code := some code, index := index
          echoes := [] }
        s t ∧
      Raised (portalRefusedEvent q w.master w.data code index s.dyn) s t := by
  have refused := processRequest_refused ((requestOutcome_requested s.tables w.master w.data).trans fails)
  have event : portalRefusedEvent q w.master w.data code index (requested s q) =
      portalRefusedEvent q w.master w.data code index s.dyn := rfl
  unfold refuseRequest at refused
  rw [event] at refused
  generalize portalRefusedEvent q w.master w.data code index s.dyn = e at *
  have growth := raise_growth s.tables e (requested s q)
  obtain ⟨totals, reaches⟩ := rivers_fields (raise_rivers s.tables e (requested s q))
  have raised : RaisedAt s.tables e s.dyn.tick (raise s.tables e (requested s q)) :=
    raise_raisedAt s.tables e (requested s q)
  generalize raise s.tables e (requested s q) = x at *
  obtain ⟨t, next, taken⟩ := exec_request idle accepted free refused growth.course
  refine ⟨t, next, taken.tables, taken.settled.store, taken.taken, taken.surroundings, taken.controls,
    taken.totals.trans totals, taken.reaches.trans reaches, fun g => ?gate, taken.jobQueued, ?raised⟩
  case gate =>
    rw [taken.gates]
    exact growth.frame.gates g
  case raised =>
    rw [← taken.tables] at raised
    exact ⟨taken.settled.recorded raised.1, taken.settled.linksActed raised.2⟩

end Request

end Sys2Proof.Machine
end

section
/-! The request that passes (R98 to R100): its batch, what its schedule leaves, and the job that it queues; O43. -/

namespace Sys2Proof.Machine

section Request

variable {s t : State} {q : PortalId} {tr : Transaction} {items : List Item} {final : Vector Word 6} {p1 u w : Dyn}

/-- A request that passes is taken in RUN (R96). -/
theorem run_of_requestOutcome {c : Tables} {p : Dyn} {m : MasterId} {header : Word}
    (passes : requestOutcome c p q m header = none) : p.mode = .run := by
  unfold requestOutcome at passes
  split at passes
  case h_1 => cases passes
  case h_2 whole =>
    by_contra other
    have stops : (p.mode != .run) = true := by simpa using other
    simp only [requestTable, firstFailing_cons, stops, if_true] at whole
    split at whole <;> cases whole

/-- The request is committed in a state u, which the scheduling makes w of. -/
structure RequestMade (s : State) (q : PortalId) (items : List Item) (final : Vector Word 6) (p1 u w : Dyn) : Prop where
  made : BatchMade s.tables items final (requested s q) p1 u
  run : s.dyn.mode = .run
  schedules : w = schedule s.tables (requested s q) (queuedChanged (requested s q) u items) u

theorem processRequest_made {m : MasterId} {header : Word} (sound : GatesSound s) (warned : FloodGatesWarned s)
    (passes : requestOutcome s.tables s.dyn q m header = none)
    (words : items.map (fun e => (e.1.val, e.2)) =
      (itemWords header (s.dyn.portals.get q)).map (fun w => (itemGate w, itemOpening w))) :
    ∃ p1 u w, processRequest s.tables q m header (requested s q) =
        queuePortalJob ⟨q, headerSequence header, .done, none, 0, items⟩ w ∧
      RequestMade s q items (batchTotals s.tables s.dyn (itemWords header (s.dyn.portals.get q))) p1 u w := by
  rw [← itemWords_requested] at words
  obtain ⟨p1, processed, admitted, owned, distinct, fits⟩ :=
    processRequest_committed ((requestOutcome_requested s.tables m header).trans passes) words
  rw [itemWords_requested, batchTotals_requested] at admitted
  have start : SoundAt s.tables (requested s q) := (gatesSound_iff.mp sound).of_eq rfl rfl rfl
  refine ⟨p1, _, _, processed, ⟨start, warnedIn_of_floodGatesWarned sound warned, owned, distinct, fun e listed => ?_,
    admitted, rfl⟩, run_of_requestOutcome passes, rfl⟩
  exact ⟨(fits e listed).inService, (fits e listed).sound⟩

namespace RequestMade

variable (h : RequestMade s q items final p1 u w)
include h

theorem scheduled : BatchScheduled s.tables (requested s q) u w := by
  rw [h.schedules]
  exact h.made.scheduled _

theorem noted : BoundsNoted s.tables (requested s q) w := by
  refine h.made.noted.later ?_ h.scheduled.rivers
  rw [h.schedules]
  exact schedule_course _ _ _

theorem ordered {e : Item} (listed : e ∈ items) :
    (w.gates.get e.1).target = e.2 ∧ (w.gates.get e.1).inService = true := by
  obtain ⟨target, -⟩ := h.scheduled.orders e.1
  exact ⟨target.trans (h.made.target listed),
    h.scheduled.service e.1 (h.made.inService (Gate.inService_of_takes (h.made.takes e listed)))⟩

theorem order {g : GateId} (unnamed : ∀ e ∈ items, e.1 ≠ g) : (s.dyn.gates.get g).sameOrder (w.gates.get g) := by
  have kept : (s.dyn.gates.get g).OnlyHolds (u.gates.get g) :=
    h.made.unchanged fun e listed same => absurd same (unnamed e listed)
  exact Gate.sameOrder_trans (Gate.sameOrder_holds kept) (h.scheduled.orders g)

theorem refusal (g : GateId) : (w.gates.get g).lastRefusal = (s.dyn.gates.get g).lastRefusal := by
  obtain ⟨-, -, -, -, refusal⟩ := h.scheduled.orders g
  obtain ⟨-, -, -, -, -, -, kept⟩ := h.made.beside g
  exact refusal.trans kept

/-- Where no changed gate is queued or can join, the batch of the claims stands, but for holds by links. -/
theorem waits (idle : ∀ e ∈ items, e.2 ≠ (s.dyn.gates.get e.1).target →
    e.1 ∉ s.dyn.queue ∧ ((s.dyn.gates.get e.1).state = .moving ∨ NotYet s e.1)) : w = u := by
  have none : queuedChanged (requested s q) u items = false := by
    rw [queuedChanged, List.any_eq_false]
    intro e listed changed
    simp only [Bool.and_eq_true, List.contains_eq_mem, decide_eq_true_eq, bne_iff_ne, ne_eq] at changed
    obtain ⟨queued, changed⟩ := changed
    rw [h.made.target listed] at changed
    exact (idle e listed (Ne.symm changed)).1 (h.made.queue.subset queued)
  rw [h.schedules, none]
  exact h.made.schedule_idle fun e listed changed => (idle e listed changed).2

/-- Where no event is raised, a gate that becomes MOVING is one that an item names. -/
theorem named_of_becameMoving {g : GateId} (became : becameMoving (requested s q) u g = true) : ∃ e ∈ items, e.1 = g := by
  obtain ⟨moves, still⟩ := becameMoving_iff.mp became
  by_contra unnamed
  have same : ∀ e ∈ items, e.1 = g → e.2 = ((requested s q).gates.get g).target := fun e listed here =>
    absurd ⟨e, listed, here⟩ unnamed
  exact still ((h.made.unchanged same).moving (h.made.sound.gate g) moves)

/-- The gates that join are those that become MOVING, none of which awaits or is too early. -/
theorem joins_iff (g : GateId) : (becameMoving (requested s q) u g && joinable s.tables u g) = true ↔
    u.mode = .run ∧ ((u.gates.get g).state == .moving && (s.dyn.gates.get g).state != .moving &&
      !(s.dyn.gates.get g).awaiting && stepIntervalElapsed s.tables s.dyn g) = true := by
  obtain ⟨-, -, -, awaiting, lastGrant, -⟩ := h.made.beside g
  have awaiting : (u.gates.get g).awaiting = (s.dyn.gates.get g).awaiting := awaiting
  have lastGrant : (u.gates.get g).lastGrant = (s.dyn.gates.get g).lastGrant := lastGrant
  have tick : u.tick = s.dyn.tick := h.made.tick
  have outside (still : (s.dyn.gates.get g).state ≠ .moving) : g ∉ u.queue := fun queued =>
    h.made.sound.not_queued still (h.made.queue.subset queued)
  have before : ((requested s q).gates.get g).state = (s.dyn.gates.get g).state := rfl
  rw [Bool.and_eq_true, becameMoving_iff, before]
  simp only [joinable, stepIntervalElapsed, awaiting, lastGrant, tick, Bool.and_eq_true, beq_iff_eq, bne_iff_ne, ne_eq,
    Bool.not_eq_true', List.contains_eq_mem, decide_eq_false_iff_not]
  constructor
  · rintro ⟨⟨moves, still⟩, ⟨⟨⟨-, run⟩, elapsed⟩, awaits⟩, -⟩
    exact ⟨run, ⟨⟨moves, still⟩, awaits⟩, elapsed⟩
  · rintro ⟨run, ⟨⟨moves, still⟩, awaits⟩, elapsed⟩
    exact ⟨⟨moves, still⟩, ⟨⟨⟨moves, run⟩, elapsed⟩, awaits⟩, outside still⟩

/-- Where no event is raised and no gate concerned is eligible, the joins lengthen the queue, and nothing else changes. -/
theorem joinsWait
    (agrees : ∀ r, (s.dyn.reaches.get r).exceeded = (firstViolated s.tables s.dyn.totals s.dyn.reaches r).isSome)
    (early : ∀ g, g ∈ s.dyn.queue ∨ (∃ e ∈ items, e.1 = g) →
      eligibleFor s.tables s.dyn g (directionTo (u.gates.get g).command (u.gates.get g).target) = false) :
    w = { u with
      queue := s.dyn.queue.filter (fun g => (u.gates.get g).state == .moving) ++
        (List.finRange 48).filter fun g =>
          (u.gates.get g).state == .moving && (s.dyn.gates.get g).state != .moving && !(s.dyn.gates.get g).awaiting &&
            stepIntervalElapsed s.tables s.dyn g } := by
  have queue : u.queue = s.dyn.queue.filter fun g => (u.gates.get g).state == .moving := h.made.quiet_queue agrees
  obtain ⟨-, controls, -⟩ := around_fields (h.made.quiet_around agrees)
  obtain ⟨mode, -⟩ := controls_fields controls
  have run : u.mode = .run := mode.trans h.run
  have joins : (List.finRange 48).filter (fun g => becameMoving (requested s q) u g && joinable s.tables u g) =
      (List.finRange 48).filter fun g =>
        (u.gates.get g).state == .moving && (s.dyn.gates.get g).state != .moving && !(s.dyn.gates.get g).awaiting &&
          stepIntervalElapsed s.tables s.dyn g := by
    refine List.filter_congr fun g _ => ?_
    rw [Bool.eq_iff_iff, h.joins_iff g, and_iff_right run]
  have waits (g : GateId) (concerned : g ∈ s.dyn.queue ∨ ∃ e ∈ items, e.1 = g) : eligible s.tables u g = false := by
    rw [show eligible s.tables u g = eligible s.tables { u with queue := u.queue } g from rfl,
      h.made.eligible agrees]
    exact early g concerned
  rw [h.schedules, schedule, joinAndScan_waits, joins, ← queue]
  intro g listed
  refine waits g ?_
  obtain queued | joined := List.mem_append.mp listed
  · exact .inl (h.made.queue.subset queued)
  · obtain ⟨-, both⟩ := List.mem_filter.mp joined
    rw [Bool.and_eq_true] at both
    exact .inr (h.named_of_becameMoving both.1)

end RequestMade

end Request

end Sys2Proof.Machine
end

section
/-! The two parts of O43 in the words of the claims. -/

namespace Sys2Proof.Machine

section Request

variable {s t : State} {q : PortalId} {tr : Transaction} {items : List Item} {final : Vector Word 6} {p1 u w : Dyn}
  {j : PortalJob}

/-- The batch of the claims, from the state that the request finds. -/
theorem batchCommitted_eq (c : Tables) (items : List Item) :
    batchCommitted c s.dyn items = items.foldl (itemCommitted c) (requested s q).records := rfl

theorem RequestTaken.boundsReported (taken : RequestTaken s t q tr j w) (noted : BoundsNoted s.tables (requested s q) w) :
    BoundsReported s t := by
  rw [← taken.tables] at noted
  exact noted.reported rfl rfl (fun _ => rfl) taken.totals taken.reaches taken.settled.mode
    (fun _ made => taken.settled.recorded made) fun _ _ acted => taken.settled.linksActed acted

/-- Where no changed gate is queued or can join, the records are those of the batch, but for holds by links. -/
theorem RequestTaken.stands (taken : RequestTaken s t q tr j w) (made : RequestMade s q items final p1 u w)
    (idle : ∀ e ∈ items, e.2 ≠ (s.dyn.gates.get e.1).target →
      e.1 ∉ s.dyn.queue ∧ ((s.dyn.gates.get e.1).state = .moving ∨ NotYet s e.1)) :
    (∀ g, Gate.OnlyHolds ((batchCommitted s.tables s.dyn items).1.get g) (t.dyn.gates.get g)) ∧
      t.dyn.queue.Sublist s.dyn.queue ∧
      ∀ d, Dam.sameButHold ((batchCommitted s.tables s.dyn items).2.get d) (t.dyn.dams.get d) := by
  have same : w = u := made.waits idle
  have held := made.made.held
  rw [← batchCommitted_eq] at held
  rw [taken.gates, taken.dams, taken.queue, same]
  exact ⟨held.gates, made.made.queue, held.dams⟩

/-- Where no event is raised and no gate concerned is eligible, the records are those of the batch, and the gates that
become MOVING wait. -/
theorem RequestTaken.joinsWait (taken : RequestTaken s t q tr j w) (made : RequestMade s q items final p1 u w)
    (agrees : ∀ r, (s.dyn.reaches.get r).exceeded = (firstViolated s.tables s.dyn.totals s.dyn.reaches r).isSome)
    (early : ∀ g, g ∈ s.dyn.queue ∨ (∃ e ∈ items, e.1 = g) →
      eligibleFor s.tables s.dyn g (directionTo ((batchCommitted s.tables s.dyn items).1.get g).command
        ((batchCommitted s.tables s.dyn items).1.get g).target) = false) :
    SameControl s t ∧ LogKept s t ∧ (∀ g, t.dyn.gates.get g = (batchCommitted s.tables s.dyn items).1.get g) ∧
      (∀ d, t.dyn.dams.get d = (batchCommitted s.tables s.dyn items).2.get d) ∧
      t.dyn.queue =
        s.dyn.queue.filter (fun g => ((batchCommitted s.tables s.dyn items).1.get g).state == .moving) ++
          (List.finRange 48).filter fun g =>
            ((batchCommitted s.tables s.dyn items).1.get g).state == .moving && (s.dyn.gates.get g).state != .moving &&
              !(s.dyn.gates.get g).awaiting && stepIntervalElapsed s.tables s.dyn g := by
  have records := made.made.quiet_records agrees
  rw [← batchCommitted_eq] at records
  obtain ⟨gates, dams⟩ : u.gates = (batchCommitted s.tables s.dyn items).1 ∧
      u.dams = (batchCommitted s.tables s.dyn items).2 := Prod.ext_iff.mp records
  rw [← gates] at early ⊢
  rw [← dams]
  have ends := made.joinsWait agrees early
  obtain ⟨still, controls, buffer, lost, -⟩ := around_fields (made.made.quiet_around agrees)
  obtain ⟨-, -, -, -, -, -, logWrite, logRead, -⟩ := still_fields still
  have gatesEnd := taken.gates
  have damsEnd := taken.dams
  have queueEnd := taken.queue
  have settled := taken.settled
  rw [ends] at gatesEnd damsEnd queueEnd settled
  refine ⟨settled.sameControl controls, ⟨settled.logBuffer buffer logWrite logRead, settled.port.logLost.trans lost⟩,
    fun g => ?_, fun d => ?_, queueEnd⟩
  · rw [gatesEnd]
  · rw [damsEnd]

end Request

end Sys2Proof.Machine

namespace Sys2Proof

open Machine

/-- Settles O43: the request that fails by its event and its job, and the request that passes by the batch of its items,
the scheduling and its job. -/
theorem portalRequest : Obligations.PortalRequest := by
  refine ⟨fun s q w tr code index idle accepted free fails => requestRefused idle accepted free fails, ?passes⟩
  intro s q w tr items idle sound warned accepted free passes words y dams batch
  obtain ⟨p1, u, x, processed, made⟩ := processRequest_made sound warned passes words
  obtain ⟨t, next, taken⟩ := exec_request idle accepted free processed made.scheduled.course
  obtain ⟨gates, dams'⟩ : y = (batchCommitted s.tables s.dyn items).1 ∧ dams = (batchCommitted s.tables s.dyn items).2 :=
    Prod.ext_iff.mp batch
  obtain ⟨totals, -⟩ := rivers_fields made.scheduled.rivers
  refine ⟨t, next, taken.tables, taken.settled.store, taken.taken, taken.surroundings, taken.controls,
    taken.boundsReported made.noted, taken.totals.trans (totals.trans made.made.totals), fun e listed => ?ordered,
    fun g unnamed => ?order, fun g => ?refusal, taken.jobQueued, fun still => ?stands, fun agrees early => ?joins⟩
  case ordered =>
    rw [taken.gates]
    exact made.ordered listed
  case order =>
    rw [taken.gates]
    exact made.order unnamed
  case refusal =>
    rw [taken.gates]
    exact made.refusal g
  case stands =>
    rw [gates, dams']
    exact taken.stands made still
  case joins =>
    rw [gates] at early ⊢
    rw [dams']
    exact taken.joinsWait made agrees early

end Sys2Proof
end
